-- ==== Sys2Proof/Word.lean ====
section
/-! DEFINITION. Word types, little-endian byte lists (R2) and the sparse tables that hold register files and units. -/

namespace Sys2Proof

abbrev Byte := BitVec 8
abbrev W32 := BitVec 32
abbrev W64 := BitVec 64
/-- A significance tag, 0 to 31 (R128). -/
abbrev Tag := BitVec 5

/-- Bits `hi` down to `lo` of a number (R2's x[h:l]). -/
def bits (w hi lo : Nat) : Nat := w / 2 ^ lo % 2 ^ (hi + 1 - lo)

/-- A word with field `hi:lo` replaced by `v`. -/
def setBits (w hi lo v : Nat) : Nat :=
  w - bits w hi lo * 2 ^ lo + (v % 2 ^ (hi + 1 - lo)) * 2 ^ lo

/-- The value of a little-endian byte list (R2). -/
def leNat : List Byte → Nat
  | [] => 0
  | b :: bs => b.toNat + 256 * leNat bs

/-- `n` bytes of a number, the lowest first (R2). -/
def leBytes : Nat → Nat → List Byte
  | 0, _ => []
  | n + 1, v => BitVec.ofNat 8 v :: leBytes n (v / 256)

/-- A number's signed reading in `w` bits. -/
def sext (w v : Nat) : Int :=
  if bits v (w - 1) (w - 1) = 1 then (v % 2 ^ w : Int) - 2 ^ w else (v % 2 ^ w : Int)

/-- An integer modulo 2^w, as a number. -/
def wrapN (w : Nat) (i : Int) : Nat := (i % (2 ^ w : Int)).toNat

/-- A table by key: sorted entries, each key at most once. -/
abbrev Tab (α : Type) := List (Nat × α)

/-- Read a table: an absent key holds the default. -/
def Tab.get {α : Type} (d : α) : Tab α → Nat → α
  | [], _ => d
  | (j, a) :: t, k => if j = k then a else Tab.get d t k

/-- Write a table, keeping keys in rising order. -/
def Tab.set {α : Type} : Tab α → Nat → α → Tab α
  | [], k, v => [(k, v)]
  | (j, a) :: t, k, v =>
    if k < j then (k, v) :: (j, a) :: t
    else if k = j then (k, v) :: t
    else (j, a) :: Tab.set t k v

/-- The table with a key's entry dropped. -/
def Tab.drop {α : Type} : Tab α → Nat → Tab α
  | [], _ => []
  | (j, a) :: t, k => if j = k then t else (j, a) :: Tab.drop t k

end Sys2Proof
end

