-- ==== Sys2Proof/Syntax.lean ====
section
/-! DEFINITION. The instruction set: one constructor per row of the opcode table. A constructor's fields carry the
letters of the table's fields: z the T bit, w STALL, d and a to c registers, e the element type, r the rounding mode. -/

namespace Sys2Proof

/-- Element types (R33). -/
inductive ElemType where
  | fp32 | bf16 | fp16 | e4m3 | e5m2 | m8 | fp4 | int32 | int16 | int8 | uint8 | int4 | cb3
deriving DecidableEq, Repr

/-- Rounding modes (R34). -/
inductive Rm where
  | rne | rtz | rup | rdn | rna | sr
deriving DecidableEq, Repr

/-- Scopes (R35). -/
inductive Scope where
  | core | cluster | device | system
deriving DecidableEq, Repr

/-- Fence kinds (R35). -/
inductive FenceKind where
  | acq | rel | full | loop
deriving DecidableEq, Repr

/-- Atomic operations (R36). -/
inductive Aop where
  | add | and | or | xor | min | max | swap | cas | incw | bfadd | fadd | fmax | fmin | accbf
deriving DecidableEq, Repr

/-- Branch conditions (R21). -/
inductive Cond where
  | al | eq | ne | mi | pl | cs | cc | vs | vc | lt | ge | le | gt | hi | ls
deriving DecidableEq, Repr

/-- VCMP conditions (R242). -/
inductive VCond where
  | eq | ne | lt | le | gt | ge | unord | ord
deriving DecidableEq, Repr

/-- LOGA and SHFA operations (R20), reductions (R162, R249), BAR operations (R202), engines (R233). -/
inductive LogOp where
  | and | or | xor | andn
deriving DecidableEq, Repr
inductive ShiftOp where
  | shl | shr | sra | rol
deriving DecidableEq, Repr
inductive RedOp where
  | sum | min | max
deriving DecidableEq, Repr
inductive BarOp where
  | arrive | wait | both
deriving DecidableEq, Repr
inductive Eng where
  | transform | condenser | merge
deriving DecidableEq, Repr

/-- Lookup operand specifiers (R19). -/
inductive LOpd where
  | zero | acc | inPop | inPeek | one
  | mem (p : BitVec 3) | memInc (p : BitVec 3) | memDec (p : BitVec 3)
deriving DecidableEq, Repr

/-- Who issues, serves or requests (R13, R314). -/
inductive UnitId where
  | ctx (core c : Nat)        -- a lookup-core context
  | scalar (cl : Nat)
  | load (cl : Nat)
  | store (cl : Nat)
  | compute (cl : Nat)
  | epi (cl e : Nat)          -- an epilogue context
  | sup (n : Nat)             -- a supervisor core
  | copy (cl q : Nat)         -- a copy-engine requester (R63)
  | engine (cl e : Nat)       -- transform, condenser, merge (R216)
  | matrix (cl : Nat)
  | home (core : Nat)         -- a row service unit (R154)
  | ni (core : Nat)           -- a core's network interface
  | port (p : Nat)            -- a fabric port
  | host                      -- a host port
deriving DecidableEq, Repr

/-- A datagram at a host port: source, port, and its bytes from the 24-byte header on (R388, R389). -/
structure Datagram where
  source : Nat
  port : Nat
  udp : BitVec 16
  bytes : List Byte
deriving DecidableEq, Repr

/-- A fabric packet that arrives, with the fields its kind uses (R396). -/
structure FabIn where
  dev : BitVec 16             -- sending device
  seq : Nat
  core : Nat := 0             -- requesting or sending core
  dst : Nat := 0              -- destination core of a MSG
  chan : Nat := 0
  tag : BitVec 16 := 0
  rq : Bool := false
  reply : Nat := 0
  tbl : Nat := 0
  row : Nat := 0
  dva : Nat := 0
  rowb : Nat := 0
  tet : Nat := 0
  pet : Nat := 0
  epoch : W32 := 0
  write : Bool := false
  flags : BitVec 6 := 0
  parts : Nat := 1
  addr : Nat := 0
  len : Nat := 0
  aop : Nat := 0
  v : W64 := 0
  c : W64 := 0
  wide : Bool := false
  reason : Nat := 0
  payload : List Byte := []
  poison : List Bool := []
  requesters : List (BitVec 16 × Nat) := []   -- devices and cores
  merged : Nat := 1
  scope : Nat := 3
  of : Nat := 0               -- sequence that an answer answers
  isReply : Bool := false     -- a MSG that answers a request
deriving DecidableEq, Repr

/-- What a soft error strikes (R375). -/
inductive SoftTarget where
  | granule (n : Nat) (correctable : Bool)
  | sector (cl block sector : Nat) (correctable : Bool)   -- sector 8: the map entry (R114)
  | sreg (cl r : Nat) (correctable : Bool)
  | vreg (cl r : Nat) (correctable : Bool)
  | kreg (cl r : Nat) (correctable : Bool)
  | mreg (cl r : Nat) (correctable : Bool)
  | ctxReg (core c r : Nat) (correctable : Bool)        -- 0 acc, 1 + n pointer pn
  | element (cl bank k : Nat) (correctable : Bool)
  | queued (core k : Nat) (correctable : Bool)            -- a VN0 send-queue entry
  | queuedReply (core k : Nat) (correctable : Bool)       -- a VN1 send-queue entry
  | arrived (core ch k : Nat) (correctable : Bool)        -- an entry of a channel's queue
  | ereg (cl e r : Nat) (correctable : Bool)              -- an epilogue context's e register
  | emreg (cl e r : Nat) (correctable : Bool)             -- and its m register
  | treg (cl n : Nat) (correctable : Bool)                -- half of a t register: 2 n its base, 2 n + 1 its attributes
  | format (cl k : Nat) (correctable : Bool)              -- an entry of the format queue
  | supReg (n r : Nat) (correctable : Bool)               -- a supervisor core's register
  | tile (cl q u : Nat) (correctable : Bool)              -- tile u of the tile cache of requester q's first command
  | descriptor (cl : Nat) (st : Bool) (d : Nat) (correctable : Bool)
deriving DecidableEq, Repr

/-- What an event of the agenda names: its unit, queue, packet or target. Each event reads the fields its entry names. -/
structure EvArg where
  u : UnitId := .host
  a : Nat := 0
  b : Nat := 0
  yes : Bool := false
  addr : W64 := 0
  v : W64 := 0
  bs : List Byte := []
  bs2 : List Byte := []
  d : Datagram := ⟨0, 0, 0, []⟩
  f : FabIn := { dev := 0, seq := 0 }
  soft : SoftTarget := .granule 0 true
deriving DecidableEq, Repr


/-- Every row of the opcode table: the instructions of the five streams, then the events of the device. -/
inductive Instr where
  -- lookup stream (R18 to R20)
  /-- LDA (R160): Loads operand a into every lane of acc. -/
  | lda (z : Bool) (e : ElemType) (a : LOpd)
  /-- STA (R160): Stores the 32 bytes of acc at a memory operand. -/
  | sta (z : Bool) (e : ElemType) (a : LOpd)
  /-- ADDA (R160): Adds operands a and b lane by lane into acc. -/
  | adda (z : Bool) (e : ElemType) (a : LOpd) (b : LOpd) (r : Rm)
  /-- SUBA (R160): Subtracts operand b from operand a lane by lane into acc. -/
  | suba (z : Bool) (e : ElemType) (a : LOpd) (b : LOpd) (r : Rm)
  /-- MULA (R160): Multiplies operands a and b lane by lane into acc. -/
  | mula (z : Bool) (e : ElemType) (a : LOpd) (b : LOpd) (r : Rm)
  /-- MACA (R160): Adds the fused product of a and b to each lane of acc with one rounding. -/
  | maca (z : Bool) (e : ElemType) (a : LOpd) (b : LOpd) (r : Rm)
  /-- MINA (R160): Writes the lesser of a and b in each lane of acc. -/
  | mina (z : Bool) (e : ElemType) (a : LOpd) (b : LOpd)
  /-- MAXA (R160): Writes the greater of a and b in each lane of acc. -/
  | maxa (z : Bool) (e : ElemType) (a : LOpd) (b : LOpd)
  /-- LOGA (R160): Applies the bitwise operation that FN selects (AND, OR, XOR or ANDN) lane by lane. -/
  | loga (z : Bool) (f : LogOp) (e : ElemType) (a : LOpd) (b : LOpd)
  /-- SHFA (R160): Shifts or rotates each lane of a by b as FN selects. -/
  | shfa (z : Bool) (f : ShiftOp) (e : ElemType) (a : LOpd) (b : LOpd)
  /-- CVTA (R161): Converts lanes from the source type to the destination type into acc. -/
  | cvta (z : Bool) (s : ElemType) (e : ElemType) (a : LOpd) (r : Rm)
  /-- HRED (R162): Reduces the lanes of an operand over a fixed pairwise tree into lane 0. -/
  | hred (z : Bool) (f : RedOp) (e : ElemType) (a : LOpd) (r : Rm)
  /-- CMPA (R163): Compares lane 0 of two operands and writes only the flags F. -/
  | cmpa (z : Bool) (e : ElemType) (a : LOpd) (b : LOpd)
  /-- SIGA_READ (R164): Writes each lane's clamped significance tag as an integer. -/
  | sigaRead (z : Bool) (e : ElemType) (a : LOpd)
  /-- SIGA_WRITE (R164): Writes each lane's value with a tag taken from b. -/
  | sigaWrite (z : Bool) (e : ElemType) (a : LOpd) (b : LOpd)
  /-- SIGA_MINTAG (R164): Writes the minimum tag over all lanes into lane 0. -/
  | sigaMintag (z : Bool) (e : ElemType) (a : LOpd)
  /-- IMMA_SET (R165): Places a signed immediate in every lane of acc. -/
  | immaSet (z : Bool) (e : ElemType) (i : BitVec 7)
  /-- IMMA_ADDI (R165): Adds a signed immediate to every lane of acc. -/
  | immaAddi (z : Bool) (e : ElemType) (i : BitVec 7)
  /-- IMMA_LANE0 (R165): Places a signed immediate in lane 0 of acc and leaves the other lanes. -/
  | immaLane0 (z : Bool) (e : ElemType) (i : BitVec 7)
  /-- PSET (R166): Sets a pointer address to a sign-extended immediate. -/
  | pset (z : Bool) (d : BitVec 3) (i : BitVec 19)
  /-- PLDC (R166): Loads a pointer address from the node's constant table. -/
  | pldc (z : Bool) (d : BitVec 3) (i : BitVec 19)
  /-- PADD (R166): Sets a pointer to another pointer plus an immediate, copying its stride. -/
  | padd (z : Bool) (d : BitVec 3) (s : BitVec 3) (i : BitVec 19)
  /-- PSTR (R166): Sets a pointer's stride. -/
  | pstr (z : Bool) (d : BitVec 3) (i : BitVec 19)
  /-- PLD (R166): Loads a pointer address from memory. -/
  | pld (z : Bool) (d : BitVec 3) (s : BitVec 3) (i : BitVec 19)
  /-- PST (R166): Stores a pointer address to memory. -/
  | pst (z : Bool) (d : BitVec 3) (s : BitVec 3) (i : BitVec 19)
  /-- PACC_GET (R166): Sets a pointer address to a doubleword of acc. -/
  | paccGet (z : Bool) (d : BitVec 3) (n : BitVec 3)
  /-- PACC_PUT (R166): Writes a pointer address into a doubleword of acc. -/
  | paccPut (z : Bool) (d : BitVec 3) (n : BitVec 3)
  /-- PACC_ADD (R166): Adds a doubleword of acc to a pointer address. -/
  | paccAdd (z : Bool) (d : BitVec 3) (n : BitVec 3)
  /-- PACC_ADDW (R166): Adds a sign-extended INT32 lane of acc to a pointer address. -/
  | paccAddw (z : Bool) (d : BitVec 3) (n : BitVec 3)
  /-- PCRD_ABS (R167): Resolves a relative address into its absolute form. -/
  | pcrdAbs (z : Bool) (d : BitVec 3) (s : BitVec 3)
  /-- PCRD_MYXY (R167): Sets a pointer to the core's own coordinates and device number. -/
  | pcrdMyxy (z : Bool) (d : BitVec 3)
  /-- PCRD_GLOB (R167): Turns a LOCAL address into the core's global TILE name. -/
  | pcrdGlob (z : Bool) (d : BitVec 3) (s : BitVec 3)
  /-- PCRD_HOME (R167): Translates an HBM address and returns its home core or peer device. -/
  | pcrdHome (z : Bool) (d : BitVec 3) (s : BitVec 3)
  /-- BR (R168): Branches when the condition holds on F. -/
  | br (c : Cond) (o : BitVec 15)
  /-- BPC (R168): Branches on a condition of the flags from subtracting two pointer addresses. -/
  | bpc (c : Cond) (a : BitVec 3) (b : BitVec 3) (o : BitVec 15)
  /-- L_BSIG (R168): Branches when the least tag over acc's lanes is below a threshold. -/
  | lBsig (h : BitVec 5) (e : ElemType) (o : BitVec 15)
  /-- CALL (R169): Writes the link into p7 and jumps. -/
  | call (o : BitVec 25)
  /-- L_JMP (R169): Jumps by a signed word offset in the lookup stream. -/
  | lJmp (o : BitVec 25)
  /-- GATH (R173): Requests each listed row from its home into tile memory, counting landings on a counter. -/
  | gath (t : BitVec 4) (a : BitVec 3) (b : BitVec 3) (c : BitVec 3) (v : Bool) (k : BitVec 3) (e : ElemType)
  /-- SCAT (R174): Sends each source row to its home as a row accumulate. -/
  | scat (t : BitVec 4) (a : BitVec 3) (b : BitVec 3) (c : BitVec 3) (x : Bool) (k : BitVec 3) (e : ElemType)
  /-- SCATW (R174): Sends each source row to its home as a row write. -/
  | scatw (t : BitVec 4) (a : BitVec 3) (b : BitVec 3) (c : BitVec 3) (x : Bool) (k : BitVec 3) (e : ElemType)
  /-- DEDUP (R175): Writes the distinct identifiers of a list and, with INV, rewrites the list as indices. -/
  | dedup (a : BitVec 3) (b : BitVec 3) (c : BitVec 3) (v : Bool)
  /-- BUCKET (R176): Regroups positions by key and writes the bucket prefix offsets. -/
  | bucket (a : BitVec 3) (b : BitVec 3) (c : BitVec 3)
  /-- UCINC (R177): Increments the use counters that a list of keys names. -/
  | ucinc (t : BitVec 4) (a : BitVec 3) (b : BitVec 3)
  /-- ROWADD (R178): Adds a range of rows element by element into a destination row. -/
  | rowadd (z : Bool) (t : BitVec 4) (a : BitVec 3) (b : BitVec 3) (c : BitVec 3) (n : Bool) (r : Rm) (e : ElemType)
  /-- ROWSCL (R178): Scales each row in a range by its FP32 scale. -/
  | rowscl (z : Bool) (t : BitVec 4) (a : BitVec 3) (b : BitVec 3) (c : BitVec 3) (r : Rm) (e : ElemType)
  /-- ROWCVT (R178): Converts a range of rows to another element type. -/
  | rowcvt (z : Bool) (t : BitVec 4) (a : BitVec 3) (b : BitVec 3) (c : BitVec 3) (r : Rm) (e : ElemType)
  /-- ROWDOT (R179): Scores up to eight rows against a query row into acc lanes. -/
  | rowdot (z : Bool) (t : BitVec 4) (a : BitVec 3) (b : BitVec 3) (c : BitVec 3) (r : Rm) (e : ElemType)
  /-- L_AMO (R200): Performs an atomic on one word at the point that its scope names and returns the old word. -/
  | lAmo (o : Aop) (s : Scope) (e : ElemType) (a : BitVec 3) (q : Bool) (l : Bool)
  /-- AMOV (R201): Performs an atomic on eight consecutive words lane by lane, resumable through LANEDONE. -/
  | amov (o : Aop) (s : Scope) (e : ElemType) (a : BitVec 3) (q : Bool) (l : Bool)
  /-- L_FENCE (R202): Orders accesses by fence kind at a scope. -/
  | lFence (f : FenceKind) (s : Scope)
  /-- L_BAR (R203): Arrives at, waits on, or both, a barrier slot. -/
  | lBar (f : BarOp) (l : BitVec 4)
  /-- L_MARK (R204): Places markers in the queues that the mask names. -/
  | lMark (m : BitVec 8)
  /-- TEPOCH (R205): Advances a table's epoch after the epoch k back has been acknowledged. -/
  | tepoch (t : BitVec 4)
  /-- SEND (R181): Sends a payload of 32-byte units to a channel on VN0. -/
  | send (c : BitVec 6) (a : BitVec 3) (b : BitVec 3) (n : BitVec 5) (l : Bool)
  /-- SENDA (R181): Sends a payload whose byte count comes from acc on VN0. -/
  | senda (c : BitVec 6) (a : BitVec 3) (b : BitVec 3) (l : Bool)
  /-- REPLY (R184): Sends a reply on VN1 to the sender of the current activation. -/
  | reply (b : BitVec 3) (n : BitVec 5) (l : Bool)
  /-- PUT (R185): Writes a payload at an address, transformed on landing, and can advance a remote counter. -/
  | put (k : Bool) (c : BitVec 3) (a : BitVec 3) (b : BitVec 3) (n : BitVec 5) (x : BitVec 4) (l : Bool)
  /-- HCTL_MASK (R188): Masks a channel of the core's handler table. -/
  | hctlMask (c : BitVec 6)
  /-- HCTL_UNMASK (R188): Unmasks a channel and restarts its aging. -/
  | hctlUnmask (c : BitVec 6)
  /-- HCTL_PRIO (R188): Sets a channel's configured priority. -/
  | hctlPrio (p : BitVec 3) (c : BitVec 6)
  /-- HCTL_BIND (R188): Sets a channel's handler entry from a pointer and marks it valid. -/
  | hctlBind (n : BitVec 3) (c : BitVec 6)
  /-- WAITC (R189): Waits until a landing counter reaches n, subtracts n and acquires. -/
  | waitc (k : BitVec 3) (n : BitVec 20)
  /-- L_WAITP (R190): Waits on the STAT promise of a copy descriptor in tile memory. -/
  | lWaitp (s : BitVec 3)
  /-- WAITT (R191): Sleeps until TIME reaches a pointer's value. -/
  | waitt (n : BitVec 3)
  /-- COPY (R192): Issues a copy command for a descriptor in tile memory to the cluster's copy engine. -/
  | copy (a : BitVec 3) (k : BitVec 3) (n : Bool) (s : Bool) (l : Bool) (q : Bool) (c : Scope)
  /-- SPAWN (R194): Counts a task in its join record and pushes it onto the core's deque. -/
  | spawn (b : BitVec 3) (o : BitVec 22)
  /-- JOIN (R196): Takes the continuation at once or registers it on the join record and ends the context. -/
  | join (b : BitVec 3) (o : BitVec 22)
  /-- WLIST_PUSH (R197): Appends a 16-byte entry to the core's work list. -/
  | wlistPush (a : BitVec 3)
  /-- WLIST_POP (R197): Removes the oldest work-list entry into memory, or sets Z when the list is empty. -/
  | wlistPop (a : BitVec 3)
  /-- L_SYS_TRAP (R206): Raises cause TRAP with a code for the node's trap vector. -/
  | lSysTrap (c : BitVec 20)
  /-- L_SYS_CRR (R206): Reads a control register into a pointer. -/
  | lSysCrr (n : BitVec 3) (r : BitVec 10)
  /-- L_SYS_CRW (R206): Writes a control register from a pointer. -/
  | lSysCrw (n : BitVec 3) (r : BitVec 10)
  /-- L_SYS_TIME (R206): Reads TIME or DEVNS into a pointer. -/
  | lSysTime (s : Bool) (n : BitVec 3)
  /-- SYS_YIELD (R206): Makes the context issue nothing for n clk. -/
  | sysYield (n : BitVec 20)
  -- scalar stream and supervisor cores (R22 to R24)
  /-- ADD (R225): Scalar 64-bit wrapping addition. -/
  | add (z : Bool) (w : BitVec 3) (d : BitVec 5) (a : BitVec 5) (b : BitVec 5)
  /-- SUB (R225): Scalar 64-bit wrapping subtraction. -/
  | sub (z : Bool) (w : BitVec 3) (d : BitVec 5) (a : BitVec 5) (b : BitVec 5)
  /-- AND (R225): Scalar bitwise AND. -/
  | and (z : Bool) (w : BitVec 3) (d : BitVec 5) (a : BitVec 5) (b : BitVec 5)
  /-- OR (R225): Scalar bitwise OR. -/
  | or (z : Bool) (w : BitVec 3) (d : BitVec 5) (a : BitVec 5) (b : BitVec 5)
  /-- XOR (R225): Scalar bitwise XOR. -/
  | xor (z : Bool) (w : BitVec 3) (d : BitVec 5) (a : BitVec 5) (b : BitVec 5)
  /-- SHL (R225): Scalar left shift by sb[5:0]. -/
  | shl (z : Bool) (w : BitVec 3) (d : BitVec 5) (a : BitVec 5) (b : BitVec 5)
  /-- SHR (R225): Scalar logical right shift. -/
  | shr (z : Bool) (w : BitVec 3) (d : BitVec 5) (a : BitVec 5) (b : BitVec 5)
  /-- SRA (R225): Scalar arithmetic right shift. -/
  | sra (z : Bool) (w : BitVec 3) (d : BitVec 5) (a : BitVec 5) (b : BitVec 5)
  /-- MUL (R225): Low 64 bits of a scalar product. -/
  | mul (z : Bool) (w : BitVec 3) (d : BitVec 5) (a : BitVec 5) (b : BitVec 5)
  /-- MULH (R225): High 64 bits of a signed 128-bit product. -/
  | mulh (z : Bool) (w : BitVec 3) (d : BitVec 5) (a : BitVec 5) (b : BitVec 5)
  /-- DIV (R225): Signed scalar division truncated toward zero. -/
  | div (z : Bool) (w : BitVec 3) (d : BitVec 5) (a : BitVec 5) (b : BitVec 5)
  /-- REM (R225): Signed scalar remainder. -/
  | rem (z : Bool) (w : BitVec 3) (d : BitVec 5) (a : BitVec 5) (b : BitVec 5)
  /-- SLT (R225): Sets 1 when sa is less than sb, signed. -/
  | slt (z : Bool) (w : BitVec 3) (d : BitVec 5) (a : BitVec 5) (b : BitVec 5)
  /-- SLTU (R225): Sets 1 when sa is less than sb, unsigned. -/
  | sltu (z : Bool) (w : BitVec 3) (d : BitVec 5) (a : BitVec 5) (b : BitVec 5)
  /-- MIN (R225): Signed scalar minimum. -/
  | min (z : Bool) (w : BitVec 3) (d : BitVec 5) (a : BitVec 5) (b : BitVec 5)
  /-- MAX (R225): Signed scalar maximum. -/
  | max (z : Bool) (w : BitVec 3) (d : BitVec 5) (a : BitVec 5) (b : BitVec 5)
  /-- ADDI (R226): Adds a sign-extended immediate. -/
  | addi (z : Bool) (w : BitVec 3) (d : BitVec 5) (a : BitVec 5) (i : BitVec 12)
  /-- ANDI (R226): ANDs with a sign-extended immediate. -/
  | andi (z : Bool) (w : BitVec 3) (d : BitVec 5) (a : BitVec 5) (i : BitVec 12)
  /-- ORI (R226): ORs with a sign-extended immediate. -/
  | ori (z : Bool) (w : BitVec 3) (d : BitVec 5) (a : BitVec 5) (i : BitVec 12)
  /-- XORI (R226): XORs with a sign-extended immediate. -/
  | xori (z : Bool) (w : BitVec 3) (d : BitVec 5) (a : BitVec 5) (i : BitVec 12)
  /-- SHLI (R226): Shifts left by an immediate count. -/
  | shli (z : Bool) (w : BitVec 3) (d : BitVec 5) (a : BitVec 5) (c : BitVec 6)
  /-- SHRI (R226): Shifts right with zero fill by an immediate count. -/
  | shri (z : Bool) (w : BitVec 3) (d : BitVec 5) (a : BitVec 5) (c : BitVec 6)
  /-- SRAI (R226): Shifts right with sign fill by an immediate count. -/
  | srai (z : Bool) (w : BitVec 3) (d : BitVec 5) (a : BitVec 5) (c : BitVec 6)
  /-- SLTI (R226): Signed set-less-than against an immediate. -/
  | slti (z : Bool) (w : BitVec 3) (d : BitVec 5) (a : BitVec 5) (i : BitVec 12)
  /-- LUI (R227): Places a 17-bit immediate in bits 31:15 of a scalar register. -/
  | lui (z : Bool) (w : BitVec 3) (d : BitVec 5) (i : BitVec 17)
  /-- LDC (R227): Loads a doubleword from the node's constant table. -/
  | ldc (z : Bool) (w : BitVec 3) (d : BitVec 5) (i : BitVec 17)
  /-- FADD (R228): FP32 addition. -/
  | fadd (z : Bool) (w : BitVec 3) (d : BitVec 5) (a : BitVec 5) (b : BitVec 5) (r : Rm)
  /-- FSUB (R228): FP32 subtraction. -/
  | fsub (z : Bool) (w : BitVec 3) (d : BitVec 5) (a : BitVec 5) (b : BitVec 5) (r : Rm)
  /-- FMUL (R228): FP32 multiplication. -/
  | fmul (z : Bool) (w : BitVec 3) (d : BitVec 5) (a : BitVec 5) (b : BitVec 5) (r : Rm)
  /-- FDIV (R228): FP32 division. -/
  | fdiv (z : Bool) (w : BitVec 3) (d : BitVec 5) (a : BitVec 5) (b : BitVec 5) (r : Rm)
  /-- FSQRT (R228): FP32 square root. -/
  | fsqrt (z : Bool) (w : BitVec 3) (d : BitVec 5) (a : BitVec 5) (r : Rm)
  /-- FMIN (R228): FP32 minimum. -/
  | fmin (z : Bool) (w : BitVec 3) (d : BitVec 5) (a : BitVec 5) (b : BitVec 5)
  /-- FMAX (R228): FP32 maximum. -/
  | fmax (z : Bool) (w : BitVec 3) (d : BitVec 5) (a : BitVec 5) (b : BitVec 5)
  /-- FABS (R228): FP32 absolute value. -/
  | fabs (z : Bool) (w : BitVec 3) (d : BitVec 5) (a : BitVec 5)
  /-- FNEG (R228): FP32 negation. -/
  | fneg (z : Bool) (w : BitVec 3) (d : BitVec 5) (a : BitVec 5)
  /-- FCVTIF (R228): Converts a signed 64-bit integer to FP32. -/
  | fcvtif (z : Bool) (w : BitVec 3) (d : BitVec 5) (a : BitVec 5) (r : Rm)
  /-- FCVTFI (R228): Converts FP32 to a signed 64-bit integer. -/
  | fcvtfi (z : Bool) (w : BitVec 3) (d : BitVec 5) (a : BitVec 5) (r : Rm)
  /-- FCVTN (R228): Narrows FP32 to a smaller float type code. -/
  | fcvtn (z : Bool) (w : BitVec 3) (d : BitVec 5) (a : BitVec 5) (e : ElemType) (r : Rm)
  /-- FCVTW (R228): Widens a narrow float code exactly to FP32. -/
  | fcvtw (z : Bool) (w : BitVec 3) (d : BitVec 5) (a : BitVec 5) (e : ElemType)
  /-- FCMP (R228): Compares two FP32 values into a result bit mask. -/
  | fcmp (z : Bool) (w : BitVec 3) (d : BitVec 5) (a : BitVec 5) (b : BitVec 5)
  /-- FSIGR (R228): Reads the tag of a scalar value as an integer. -/
  | fsigr (z : Bool) (w : BitVec 3) (d : BitVec 5) (a : BitVec 5)
  /-- FSIGW (R228): Writes a scalar value with a tag taken from a register. -/
  | fsigw (z : Bool) (w : BitVec 3) (d : BitVec 5) (a : BitVec 5) (b : BitVec 5)
  /-- FMA (R229): Fused FP32 multiply-add with one rounding. -/
  | fma (z : Bool) (w : BitVec 3) (d : BitVec 5) (a : BitVec 5) (b : BitVec 5) (c : BitVec 5) (r : Rm)
  /-- FMS (R229): Fused FP32 multiply-subtract with one rounding. -/
  | fms (z : Bool) (w : BitVec 3) (d : BitVec 5) (a : BitVec 5) (b : BitVec 5) (c : BitVec 5) (r : Rm)
  /-- LDB (R230): Loads a sign-extended byte. -/
  | ldb (z : Bool) (w : BitVec 3) (d : BitVec 5) (a : BitVec 5) (i : BitVec 12)
  /-- LDH (R230): Loads a sign-extended half-word. -/
  | ldh (z : Bool) (w : BitVec 3) (d : BitVec 5) (a : BitVec 5) (i : BitVec 12)
  /-- LDW (R230): Loads a sign-extended word. -/
  | ldw (z : Bool) (w : BitVec 3) (d : BitVec 5) (a : BitVec 5) (i : BitVec 12)
  /-- LDD (R230): Loads a doubleword. -/
  | ldd (z : Bool) (w : BitVec 3) (d : BitVec 5) (a : BitVec 5) (i : BitVec 12)
  /-- LDWT (R230): Loads a word together with its tag byte. -/
  | ldwt (z : Bool) (w : BitVec 3) (d : BitVec 5) (a : BitVec 5) (i : BitVec 12)
  /-- STB (R230): Stores a byte. -/
  | stb (w : BitVec 3) (b : BitVec 5) (a : BitVec 5) (i : BitVec 12)
  /-- STH (R230): Stores a half-word. -/
  | sth (w : BitVec 3) (b : BitVec 5) (a : BitVec 5) (i : BitVec 12)
  /-- STW (R230): Stores a word. -/
  | stw (w : BitVec 3) (b : BitVec 5) (a : BitVec 5) (i : BitVec 12)
  /-- STD (R230): Stores a doubleword. -/
  | std (w : BitVec 3) (b : BitVec 5) (a : BitVec 5) (i : BitVec 12)
  /-- STWT (R230): Stores a word together with its tag byte. -/
  | stwt (w : BitVec 3) (b : BitVec 5) (a : BitVec 5) (i : BitVec 12)
  /-- S_AMO (R231): Scalar atomic of 32 or 64 bits at the point that its scope names. -/
  | sAmo (w : BitVec 3) (d : BitVec 5) (a : BitVec 5) (b : BitVec 5) (o : Aop) (s : Scope) (x : Bool)
  /-- BEQ (R232): Branches when sa equals sb. -/
  | beq (w : BitVec 3) (a : BitVec 5) (b : BitVec 5) (o : BitVec 12)
  /-- BNE (R232): Branches when sa differs from sb. -/
  | bne (w : BitVec 3) (a : BitVec 5) (b : BitVec 5) (o : BitVec 12)
  /-- BLT (R232): Branches when sa is less than sb, signed. -/
  | blt (w : BitVec 3) (a : BitVec 5) (b : BitVec 5) (o : BitVec 12)
  /-- BGE (R232): Branches when sa is at least sb, signed. -/
  | bge (w : BitVec 3) (a : BitVec 5) (b : BitVec 5) (o : BitVec 12)
  /-- BLTU (R232): Branches when sa is less than sb, unsigned. -/
  | bltu (w : BitVec 3) (a : BitVec 5) (b : BitVec 5) (o : BitVec 12)
  /-- BGEU (R232): Branches when sa is at least sb, unsigned. -/
  | bgeu (w : BitVec 3) (a : BitVec 5) (b : BitVec 5) (o : BitVec 12)
  /-- S_BSIG (R232): Branches when a scalar register's tag is below a threshold. -/
  | sBsig (w : BitVec 3) (a : BitVec 5) (h : BitVec 5) (o : BitVec 12)
  /-- JAL (R232): Writes the link and jumps by a word offset. -/
  | jal (w : BitVec 3) (d : BitVec 5) (o : BitVec 17)
  /-- JALR (R232): Writes the link and jumps to a register plus an immediate. -/
  | jalr (w : BitVec 3) (d : BitVec 5) (a : BitVec 5) (i : BitVec 12)
  /-- EWR (R233): Writes a shadow register of the transform unit, condenser or merge unit. -/
  | ewr (w : BitVec 3) (a : BitVec 5) (g : Eng) (r : BitVec 10)
  /-- ERD (R233): Reads an active engine register, acquiring when it reads a status register. -/
  | erd (w : BitVec 3) (d : BitVec 5) (g : Eng) (r : BitVec 10)
  /-- ENGO (R233): Releases, marks an engine's shadow ready and swaps it in when the engine is idle, starting the operation. -/
  | engo (w : BitVec 3) (g : Eng)
  /-- FPUSH (R234): Appends a format word to the format queue. -/
  | fpush (w : BitVec 3) (a : BitVec 5)
  /-- SHAPE (R235): Computes a shape grant from a request and makes it current. -/
  | shape (w : BitVec 3) (d : BitVec 5) (a : BitVec 5)
  /-- S_TSEND (R236): Reserves and adds tokens to a scalar send queue with a release. -/
  | sTsend (w : BitVec 3) (q : BitVec 3) (n : BitVec 8)
  /-- S_TWAIT (R236): Waits for and subtracts tokens from q7 with an acquire. -/
  | sTwait (w : BitVec 3) (q : BitVec 3) (n : BitVec 8)
  /-- S_WAITP (R236): Waits on a promise slot in the scalar stream. -/
  | sWaitp (w : BitVec 3) (p : BitVec 3)
  /-- S_MARK (R236): Places markers in the cluster's queues, or in every cluster's from a supervisor core. -/
  | sMark (w : BitVec 3) (m : BitVec 8)
  /-- S_BAR (R236): Barrier arrival or wait for the cluster's dense participation. -/
  | sBar (w : BitVec 3) (o : BarOp) (l : BitVec 4)
  /-- S_FENCE (R236): Orders the scalar sequencer's accesses by fence kind and scope. -/
  | sFence (w : BitVec 3) (s : Scope) (k : FenceKind)
  /-- S_SYS_TRAP (R237): Raises cause TRAP on the scalar sequencer or a supervisor core. -/
  | sSysTrap (w : BitVec 3)
  /-- S_SYS_TRET (R237): Returns from a scalar trap handler and resumes the frozen dense core. -/
  | sSysTret (w : BitVec 3)
  /-- S_SYS_CRR (R237): Reads a control register into a scalar register. -/
  | sSysCrr (w : BitVec 3) (d : BitVec 5) (r : BitVec 10)
  /-- S_SYS_CRW (R237): Writes a control register from a scalar register. -/
  | sSysCrw (w : BitVec 3) (d : BitVec 5) (r : BitVec 10)
  /-- SYS_TLBINV (R58): Invalidates translations device-wide and waits for acknowledgement. -/
  | sysTlbinv (w : BitVec 3) (a : BitVec 5) (b : BitVec 5)
  /-- SYS_HALT (R237): Stops the scalar sequencer or the supervisor core. -/
  | sysHalt (w : BitVec 3)
  /-- SYS_WFE (R237): Sleeps until the event latch is set, then clears it. -/
  | sysWfe (w : BitVec 3)
  /-- S_SYS_TIME (R237): Reads TIME into a scalar register. -/
  | sSysTime (w : BitVec 3) (d : BitVec 5)
  /-- SYS_LNPOP (R339): Chooses the next waiting launch from the masked queues by the arbiter's order. -/
  | sysLnpop (w : BitVec 3) (d : BitVec 5) (a : BitVec 5)
  /-- SYS_LNRET (R339): Retires a launch with its completion record, or requeues it. -/
  | sysLnret (w : BitVec 3) (a : BitVec 5)
  /-- SYS_NSTART (R344): Loads a node image into a rectangle and starts its units. -/
  | sysNstart (w : BitVec 3) (a : BitVec 5) (b : BitVec 5)
  /-- SYS_NSTOP (R339): Stops and abandons every unit in a rectangle. -/
  | sysNstop (w : BitVec 3) (a : BitVec 5)
  /-- SYS_CMAPW (R383): Writes a logical-to-physical cluster map entry. -/
  | sysCmapw (w : BitVec 3) (a : BitVec 5) (b : BitVec 5)
  /-- SYS_SMAPW (R383): Writes a cluster's spare assignment. -/
  | sysSmapw (w : BitVec 3) (a : BitVec 5) (b : BitVec 5)
  /-- SYS_MAPFENCE (R368): Waits for accesses under the old map and advances the map generation. -/
  | sysMapfence (w : BitVec 3)
  /-- SYS_PTBASE (R383): Installs the page-table root. -/
  | sysPtbase (w : BitVec 3) (a : BitVec 5)
  -- load and store streams (R26)
  /-- CPY (R84): Issues a copy command from a descriptor register and writes a promise slot. -/
  | cpy (d : BitVec 4) (w : BitVec 3) (q : Bool) (l : Bool) (s : Scope) (f : Bool) (p : Bool) (t : Bool) (k : BitVec 3)
  /-- DLOAD (R85): Starts filling a descriptor register's shadow set from the descriptor table. -/
  | dload (d : BitVec 4) (i : BitVec 16)
  /-- C_TSEND (R86): Adds tokens to a queue from the load or store stream. -/
  | cTsend (q : BitVec 3) (n : BitVec 8)
  /-- C_TWAIT (R86): Waits for and subtracts tokens in the load or store stream. -/
  | cTwait (q : BitVec 3) (n : BitVec 8)
  /-- C_WAITP (R87): Waits on a promise slot in the load or store stream. -/
  | cWaitp (w : BitVec 3)
  /-- LSET (R88): Sets a loop counter. -/
  | lset (l : BitVec 2) (c : BitVec 16)
  /-- LBR (R88): Decrements a loop counter and branches while it is nonzero. -/
  | lbr (l : BitVec 2) (o : BitVec 16)
  /-- C_JMP (R88): Jumps in the load or store stream. -/
  | cJmp (o : BitVec 27)
  /-- C_MARK (R89): Places markers from the load or store stream. -/
  | cMark (m : BitVec 8)
  -- compute stream and epilogues, V format (R28, R29)
  /-- VADD (R240): Vector FP32 addition. -/
  | vadd (z : Bool) (w : BitVec 3) (d : BitVec 5) (a : BitVec 5) (b : BitVec 5) (m : BitVec 3) (r : Rm)
  /-- VSUB (R240): Vector FP32 subtraction. -/
  | vsub (z : Bool) (w : BitVec 3) (d : BitVec 5) (a : BitVec 5) (b : BitVec 5) (m : BitVec 3) (r : Rm)
  /-- VMUL (R240): Vector FP32 multiplication. -/
  | vmul (z : Bool) (w : BitVec 3) (d : BitVec 5) (a : BitVec 5) (b : BitVec 5) (m : BitVec 3) (r : Rm)
  /-- VFMA (R240): Vector fused multiply-add into vd. -/
  | vfma (z : Bool) (w : BitVec 3) (d : BitVec 5) (a : BitVec 5) (b : BitVec 5) (m : BitVec 3) (r : Rm)
  /-- VFMS (R240): Vector fused multiply-subtract of vd. -/
  | vfms (z : Bool) (w : BitVec 3) (d : BitVec 5) (a : BitVec 5) (b : BitVec 5) (m : BitVec 3) (r : Rm)
  /-- VMIN (R240): Vector FP32 minimum. -/
  | vmin (z : Bool) (w : BitVec 3) (d : BitVec 5) (a : BitVec 5) (b : BitVec 5) (m : BitVec 3)
  /-- VMAX (R240): Vector FP32 maximum. -/
  | vmax (z : Bool) (w : BitVec 3) (d : BitVec 5) (a : BitVec 5) (b : BitVec 5) (m : BitVec 3)
  /-- VABS (R240): Vector absolute value. -/
  | vabs (z : Bool) (w : BitVec 3) (d : BitVec 5) (a : BitVec 5) (m : BitVec 3)
  /-- VNEG (R240): Vector negation. -/
  | vneg (z : Bool) (w : BitVec 3) (d : BitVec 5) (a : BitVec 5) (m : BitVec 3)
  /-- VRCP (R246): Vector reciprocal by the fixed algorithm. -/
  | vrcp (z : Bool) (w : BitVec 3) (d : BitVec 5) (a : BitVec 5) (m : BitVec 3)
  /-- VRSQ (R247): Vector reciprocal square root by the fixed algorithm. -/
  | vrsq (z : Bool) (w : BitVec 3) (d : BitVec 5) (a : BitVec 5) (m : BitVec 3)
  /-- VEXP2 (R248): Vector base-2 exponential by the fixed algorithm. -/
  | vexp2 (z : Bool) (w : BitVec 3) (d : BitVec 5) (a : BitVec 5) (m : BitVec 3)
  /-- VLOG2 (R248): Vector base-2 logarithm by the fixed algorithm. -/
  | vlog2 (z : Bool) (w : BitVec 3) (d : BitVec 5) (a : BitVec 5) (m : BitVec 3)
  /-- VIADD (R241): Vector integer addition. -/
  | viadd (z : Bool) (w : BitVec 3) (d : BitVec 5) (a : BitVec 5) (b : BitVec 5) (m : BitVec 3)
  /-- VISUB (R241): Vector integer subtraction. -/
  | visub (z : Bool) (w : BitVec 3) (d : BitVec 5) (a : BitVec 5) (b : BitVec 5) (m : BitVec 3)
  /-- VIMUL (R241): Vector integer multiplication, low 32 bits. -/
  | vimul (z : Bool) (w : BitVec 3) (d : BitVec 5) (a : BitVec 5) (b : BitVec 5) (m : BitVec 3)
  /-- VAND (R241): Vector bitwise AND. -/
  | vand (z : Bool) (w : BitVec 3) (d : BitVec 5) (a : BitVec 5) (b : BitVec 5) (m : BitVec 3)
  /-- VOR (R241): Vector bitwise OR. -/
  | vor (z : Bool) (w : BitVec 3) (d : BitVec 5) (a : BitVec 5) (b : BitVec 5) (m : BitVec 3)
  /-- VXOR (R241): Vector bitwise XOR. -/
  | vxor (z : Bool) (w : BitVec 3) (d : BitVec 5) (a : BitVec 5) (b : BitVec 5) (m : BitVec 3)
  /-- VSHL (R241): Vector left shift. -/
  | vshl (z : Bool) (w : BitVec 3) (d : BitVec 5) (a : BitVec 5) (b : BitVec 5) (m : BitVec 3)
  /-- VSHR (R241): Vector logical right shift. -/
  | vshr (z : Bool) (w : BitVec 3) (d : BitVec 5) (a : BitVec 5) (b : BitVec 5) (m : BitVec 3)
  /-- VSRA (R241): Vector arithmetic right shift. -/
  | vsra (z : Bool) (w : BitVec 3) (d : BitVec 5) (a : BitVec 5) (b : BitVec 5) (m : BitVec 3)
  /-- VCMP (R242): Compares lanes as FP32 into a mask register. -/
  | vcmp (z : Bool) (w : BitVec 3) (d : BitVec 3) (a : BitVec 5) (b : BitVec 5) (m : BitVec 3) (c : VCond)
  /-- VSEL (R242): Selects lanes between va and vb by a mask. -/
  | vsel (z : Bool) (w : BitVec 3) (d : BitVec 5) (a : BitVec 5) (b : BitVec 5) (m : BitVec 3)
  /-- VCVT (R243): Converts lanes to another element type held in 32-bit lanes. -/
  | vcvt (z : Bool) (w : BitVec 3) (d : BitVec 5) (a : BitVec 5) (e : ElemType) (m : BitVec 3) (r : Rm)
  /-- VEFB (R244): Writes a rounded value to vd and the rounding residue to vb. -/
  | vefb (z : Bool) (w : BitVec 3) (d : BitVec 5) (a : BitVec 5) (b : BitVec 5) (m : BitVec 3) (r : Rm)
  /-- VBCAST (R251): Broadcasts a k register into every lane of a vector register. -/
  | vbcast (w : BitVec 3) (d : BitVec 5) (k : BitVec 4)
  /-- VMOVK (R251): Moves one lane of a vector register into a k register. -/
  | vmovk (w : BitVec 3) (d : BitVec 4) (l : BitVec 6) (a : BitVec 5)
  /-- KADDI (R251): Adds a signed immediate to a k register. -/
  | kaddi (w : BitVec 3) (d : BitVec 4) (a : BitVec 4) (i : BitVec 12)
  /-- VLD (R252): Loads 64 elements from the scratchpad, widened to 32-bit lanes. -/
  | vld (w : BitVec 3) (d : BitVec 5) (k : BitVec 4) (i : BitVec 8) (e : ElemType)
  /-- VST (R252): Narrows 64 lanes and stores them to the scratchpad. -/
  | vst (w : BitVec 3) (d : BitVec 5) (k : BitVec 4) (i : BitVec 8) (e : ElemType)
  /-- VLDG (R253): Gathers one element per lane from per-lane addresses. -/
  | vldg (w : BitVec 3) (d : BitVec 5) (a : BitVec 5) (k : BitVec 4) (e : ElemType)
  /-- VSTS (R253): Scatters one element per lane to per-lane addresses. -/
  | vsts (w : BitVec 3) (d : BitVec 5) (a : BitVec 5) (k : BitVec 4) (e : ElemType)
  /-- VSTT (R254): Stores 64 FP32 lanes with their tag bytes. -/
  | vstt (w : BitVec 3) (d : BitVec 5) (k : BitVec 4) (i : BitVec 8) (e : ElemType)
  /-- VLDT (R254): Loads 64 FP32 lanes with their tags from the tag plane. -/
  | vldt (w : BitVec 3) (d : BitVec 5) (k : BitVec 4) (i : BitVec 8) (e : ElemType)
  /-- VRED (R249): Reduces active lanes over a fixed tree into every lane. -/
  | vred (w : BitVec 3) (d : BitVec 5) (a : BitVec 5) (m : BitVec 3) (f : RedOp)
  /-- VPERM (R242): Permutes lanes of va by the indices in vb. -/
  | vperm (w : BitVec 3) (d : BitVec 5) (a : BitVec 5) (b : BitVec 5) (m : BitVec 3)
  /-- VSIG_READ (R250): Reads lane tags as integers. -/
  | vsigRead (w : BitVec 3) (d : BitVec 5) (a : BitVec 5) (m : BitVec 3)
  /-- VSIG_WRITE (R250): Writes lane values with tags taken from vb. -/
  | vsigWrite (w : BitVec 3) (d : BitVec 5) (a : BitVec 5) (b : BitVec 5) (m : BitVec 3)
  /-- VSIG_MINTAG (R250): Writes the least active-lane tag into every lane. -/
  | vsigMintag (w : BitVec 3) (d : BitVec 5) (a : BitVec 5) (m : BitVec 3)
  /-- VSSIG (R250): Carries the lesser tag of two lanes onto va's value. -/
  | vssig (w : BitVec 3) (d : BitVec 5) (a : BitVec 5) (b : BitVec 5) (m : BitVec 3)
  /-- VBR (R255): Branches on a condition of a k register compared with zero. -/
  | vbr (w : BitVec 3) (k : BitVec 4) (c : Cond) (o : BitVec 12)
  /-- VJMP (R255): Jumps in the compute stream. -/
  | vjmp (w : BitVec 3) (o : BitVec 21)
  /-- VLOOP (R255): Decrements a k register and branches while it is nonzero. -/
  | vloop (w : BitVec 3) (k : BitVec 4) (o : BitVec 16)
  /-- EPOUT (R259): Narrows an epilogue row into its drain buffer entry. -/
  | epout (w : BitVec 3) (a : BitVec 5) (e : ElemType)
  /-- EPIRET (R260): Ends an epilogue context and frees it. -/
  | epiret (w : BitVec 3)
  /-- V_WAITP (R256): Waits on a promise slot in the compute stream. -/
  | vWaitp (w : BitVec 3) (p : BitVec 3)
  /-- V_TSEND (R256): Adds tokens to a queue from the compute stream. -/
  | vTsend (w : BitVec 3) (n : BitVec 8) (q : BitVec 3)
  /-- V_TWAIT (R256): Waits for and subtracts tokens in the compute stream. -/
  | vTwait (w : BitVec 3) (n : BitVec 8) (q : BitVec 3)
  /-- V_MARK (R256): Places markers from the compute stream. -/
  | vMark (w : BitVec 3) (m : BitVec 8)
  /-- VSYS_TRAP (R257): Raises cause TRAP, late, on the compute sequencer. -/
  | vsysTrap (w : BitVec 3)
  /-- VSYS_TRET (R257): Returns from the compute sequencer's trap handler. -/
  | vsysTret (w : BitVec 3)
  /-- VSYS_CRR (R257): Reads a control register into a k register. -/
  | vsysCrr (w : BitVec 3) (d : BitVec 4) (r : BitVec 10)
  /-- VSYS_CRW (R257): Writes a control register from a k register. -/
  | vsysCrw (w : BitVec 3) (k : BitVec 4) (r : BitVec 10)
  /-- VSYS_TIME (R257): Reads TIME into a k register. -/
  | vsysTime (w : BitVec 3) (d : BitVec 4)
  -- compute stream, M format (R32)
  /-- MNOP (R32): Takes one compute issue slot and a sequence number without entering the matrix queue. -/
  | mnop (w : BitVec 3)
  /-- MMA (R285): Pops a format word and queues a real matrix multiply-accumulate tile command. -/
  | mma (w : BitVec 3) (a : BitVec 4) (b : BitVec 4) (n : Bool) (s : Bool) (k : Bool) (v : Bool)
  /-- MMAC (R285): Queues a complex per-bin matrix multiply-accumulate tile command. -/
  | mmac (w : BitVec 3) (a : BitVec 4) (b : BitVec 4) (n : Bool) (s : Bool) (k : Bool) (v : Bool)
  /-- MMAK (R288): Queues a multiply on condenser output with K taken from the condenser. -/
  | mmak (w : BitVec 3) (a : BitVec 4) (b : BitVec 4) (n : Bool) (s : Bool) (v : Bool)
  /-- MZERO (R285): Queues the zeroing of an accumulator bank. -/
  | mzero (w : BitVec 3) (n : Bool)
  /-- MDRAIN (R285): Queues the drain of an accumulator bank into the drain buffer and its output. -/
  | mdrain (w : BitVec 3) (c : BitVec 4) (n : Bool) (v : Bool)
  /-- MLDACC (R290): Queues a load of accumulator elements from memory. -/
  | mldacc (w : BitVec 3) (a : BitVec 4) (n : Bool) (v : Bool)
  /-- MSYNC (R285): Holds the compute stream until every earlier matrix command has completed. -/
  | msync (w : BitVec 3)
  -- words without fields
  /-- NOP (R14): The all-zero word changes nothing but the PC and takes one issue slot in any stream; in the compute stream it also takes a sequence number. -/
  | nop
  /-- RETP (R169): Returns to the address held in p7. -/
  | retp
  /-- HEND (R187): Releases the held effects segment by segment and ends the activation. -/
  | hend
  /-- COMMIT (R187): Releases the held effects early and makes the activation non-replayable. -/
  | commit
  /-- TEND (R195): Ends a task, decrements its join record and may push the continuation. -/
  | tend
  /-- L_SYS_TRET (R206): Returns from a lookup-context trap handler. -/
  | lSysTret
  /-- CFENCE (R90): Blocks until the sequencer's commands and descriptor fills are complete. -/
  | cfence
  /-- C_HALT (R90): Waits as CFENCE does, then stops the load or store sequencer. -/
  | cHalt
  -- events
  /-- MESSAGE_ARRIVAL (R142): A message arriving at a core joins its channel queue, or is refused, forwarded or stops the node. -/
  | messageArrival
  /-- HANDLER_BIND (R144): Selection binds the highest-priority runnable channel to a free context and starts the activation. -/
  | handlerBind
  /-- EPRI_AGING (R144): Every 65,536 clk that a channel stays runnable and unbound, its effective priority rises by one. -/
  | epriAging
  /-- NI_RETRY (R61): A network interface retries a refused request after back-off. -/
  | niRetry
  /-- ACCESS_PERFORM (R315): An access is served at its point of performance: a bank, the Lantern, a home or a register. -/
  | accessPerform
  /-- ROW_REQUEST_SERVICE (R154): A home's row service unit reads a requested row and replies. -/
  | rowRequestService
  /-- ROW_OPERATION_SERVICE (R174): A home performs a row accumulate or row write on a whole row and acknowledges it. -/
  | rowOperationService
  /-- ROW_LANDING (R173): A reply row lands in the requester's tile memory and advances its landing counter. -/
  | rowLanding
  /-- PUT_LANDING (R148): A PUT payload lands, transformed by XF, and may advance a landing counter. -/
  | putLanding
  /-- USE_COUNTER_INCREMENT (R153): A use-counter increment is applied at the holding core in arrival order. -/
  | useCounterIncrement
  /-- PAGE_WALK (R54): A page walk completes with a leaf, XLATE_MISS or XLATE_PERM. -/
  | pageWalk
  /-- FSCMD (R62): A write to FSCMD sets a frame's state at the home, replaying parked accesses when it becomes NORMAL. -/
  | fscmd
  /-- LANTERN_ACCESS (R109): A CMEM access is served by the Lantern as a hit or a miss with expansion and eviction. -/
  | lanternAccess
  /-- CMEM_EVICTION_RESUME (R111): A parked eviction resumes once enough sectors are free and parked misses are replayed. -/
  | cmemEvictionResume
  /-- CMGRANT (R112): A write to CMGRANT moves sectors from the reserve to the free pool. -/
  | cmgrant
  /-- SMQUERY (R219): A write to SMQUERY names the block whose metadata SMDATA returns. -/
  | smquery
  /-- NRESUME (R367): A write of 1 to NRESUME clears the stop report and resumes the stopped node. -/
  | nresume
  /-- REGISTER_WRITE (R416): A write to an engine or control register without behaviour of its own, under its access codes. -/
  | registerWrite
  /-- COPY_BURST (R64): The copy engine grants and performs one burst of up to 256 bytes by weighted round robin. -/
  | copyBurst
  /-- COPY_COMPLETE (R65): A copy command completes and signals its follow-on, promise slot or STAT, token and completion record. -/
  | copyComplete
  /-- TBLRDY_READ (R96): The engine reads a codebook table-ready counter with acquire and expands the block once it suffices. -/
  | tblrdyRead
  /-- DLOAD_FILL_COMPLETE (R85): A descriptor fill completes and the shadow set is swapped into the active set. -/
  | dloadFillComplete
  /-- PROMISE_EXPIRY (R78): A sleeping WAITP reaches its promise before DONE, refreshes the slot and raises PROMISE_MISSED. -/
  | promiseExpiry
  /-- WAITP_COMPLETE (R78): A sleeping WAITP sees its command DONE, acquires and retires. -/
  | waitpComplete
  /-- TOKEN_WAIT_COMPLETE (R86): A blocked TWAIT finds enough tokens, subtracts them and acquires. -/
  | tokenWaitComplete
  /-- WAITC_COMPLETE (R189): A blocked WAITC finds its counter high enough, subtracts and acquires. -/
  | waitcComplete
  /-- WAITT_EXPIRY (R191): TIME reaches a WAITT's target and the context retires it. -/
  | waittExpiry
  /-- CFENCE_COMPLETE (R90): A blocked CFENCE or HALT finds its commands and fills complete. -/
  | cfenceComplete
  /-- MSYNC_COMPLETE (R285): Every command before an MSYNC completes and the compute stream resumes issue. -/
  | msyncComplete
  /-- WFE_WAKE (R237): The event latch is set and a sleeping WFE clears it and retires. -/
  | wfeWake
  /-- EPOCH_ADVANCE (R205): A sleeping TEPOCH finds the acknowledge count of epoch e minus k at zero and advances the epoch. -/
  | epochAdvance
  /-- VARIABLE_RESULT_LANDING (R222): A variable-latency result lands in its register and interlocked readers proceed. -/
  | variableResultLanding
  /-- TRANSFORM_COMPLETE (R305): A transform operation completes or fails, releases, and swaps in a ready shadow. -/
  | transformComplete
  /-- CONDENSER_COMPLETE (R309): A condenser operation ends DONE, PARTIAL or FAILED_METADATA. -/
  | condenserComplete
  /-- MERGE_COMPLETE (R313): A merge operation ends DONE or with a failure status. -/
  | mergeComplete
  /-- MATRIX_ARBITER_ACCEPT (R281): The matrix arbiter accepts a waiting follow-on into the command queue. -/
  | matrixArbiterAccept
  /-- MATRIX_COMMAND_START (R277): A queued tile command starts in the array after its bank state check. -/
  | matrixCommandStart
  /-- MATRIX_COMMAND_COMPLETE (R285): A tile command completes and collects flags, raising SIG_THRESHOLD or MATRIX_CHECK where due. -/
  | matrixCommandComplete
  /-- EPILOGUE_START (R275): The lowest free epilogue context takes the lowest waiting drained row. -/
  | epilogueStart
  /-- DRAIN_ROW_RELEASE (R275): A drained row is released in order and its bytes leave for the output. -/
  | drainRowRelease
  /-- WATCHDOG_EXPIRY (R370): WDOG microseconds pass before phase release and the node stops with WATCHDOG. -/
  | watchdogExpiry
  /-- PHASE_END (R351): A node's units all fall idle and the device places the end-of-phase markers. -/
  | phaseEnd
  /-- BUNDLE_RELEASE (R351): Markers retire and the acknowledge count reaches zero: epochs advance, the node is freed and the command pointer moves. -/
  | bundleRelease
  /-- MARKER_RETIRE (R352): A marker retires when the work queued before it is done. -/
  | markerRetire
  /-- BELFRY_HOP (R354): A barrier arrival or release moves one hop through the Belfry, releasing waiters as it passes. -/
  | belfryHop
  /-- STEAL_ATTEMPT (R348): An idle core tries to steal the oldest stealable deque entry of a victim in its domain. -/
  | stealAttempt
  /-- TASK_MIGRATION (R349): The streamer's copy of a stolen task's footprint completes and the entry reaches the thief's deque. -/
  | taskMigration
  /-- LEVELLING_INTERVAL (R350): Every LEVELINT clk a core samples its neighbours and moves work-list entries to the least loaded. -/
  | levellingInterval
  /-- CARRY_GRANULE_FILL (R372): An absent carry-register granule is filled from the save record and waiting accesses proceed. -/
  | carryGranuleFill
  /-- NODE_PLACEMENT (R343): A waiting KERNEL node finds a placeable rectangle. -/
  | nodePlacement
  /-- BRANCH_NODE (R342): A BRANCH node compares a carry register and moves the command pointer. -/
  | branchNode
  /-- BARRIER_NODE_POLL (R342): A BARRIER node re-reads its word at least every 10 microseconds until it reaches WVALUE. -/
  | barrierNodePoll
  /-- END_NODE (R342): An END node retires the launch DONE. -/
  | endNode
  /-- SCRUB_STEP (R377): A scrub step reads and checks one granule, correcting or poisoning it. -/
  | scrubStep
  /-- LAUNCH (R391): A host LAUNCH packet queues a launch record or is answered with NACK. -/
  | launch
  /-- MEMWR (R391): A host MEMWR packet writes memory and is acknowledged after it is performed. -/
  | memwr
  /-- MEMRD (R391): A host MEMRD packet reads memory and is answered with RDDATA or NACK. -/
  | memrd
  /-- RDDATA (R390): A RDDATA packet from the host completes a device read of host memory. -/
  | rddata
  /-- ACK (R390): A host ACK packet acknowledges a device packet. -/
  | ack
  /-- NACK (R390): A host NACK packet refuses a device packet with a reason. -/
  | nack
  /-- WINDOW (R392): A host WINDOW packet opens or closes a host window. -/
  | window
  /-- COMPLETION_RETRANSMIT (R392): An unacknowledged completion-record packet is resent every 100 microseconds. -/
  | completionRetransmit
  /-- PTP_MESSAGE (R394): A PTP message adjusts DEVNS as an ordinary follower clock. -/
  | ptpMessage
  /-- ROWREQ (R396): A ROWREQ packet arrives and its home reads the row. -/
  | rowreq
  /-- ROWDATA (R396): A ROWDATA packet arrives and lands at each listed requester. -/
  | rowdata
  /-- ROWACC (R396): A ROWACC packet arrives and its home performs one accumulate. -/
  | rowacc
  /-- FABRIC_MEMRD (R396): A fabric MEMRD packet is performed at its point. -/
  | fabricMemrd
  /-- FABRIC_MEMWR (R396): A fabric MEMWR packet is performed at its point. -/
  | fabricMemwr
  /-- ATOMIC (R396): A fabric ATOMIC packet is performed at the fabric port of its point. -/
  | atomic
  /-- MSG (R396): A fabric MSG packet is delivered as a VN0 message. -/
  | msg
  /-- FABRIC_ACK (R396): A fabric ACK advances counters once per part. -/
  | fabricAck
  /-- FABRIC_NACK (R417): A fabric NACK is retried, raised at the requester, or stops the node for row traffic. -/
  | fabricNack
  /-- FABRIC_RETRANSMIT (R397): A fabric packet unacknowledged for 20 microseconds is resent, and a port may be declared down. -/
  | fabricRetransmit
  /-- SENSOR (R401): Ordel answers a SENSOR request with the latest sample set. -/
  | sensor
  /-- LOG (R402): Ordel answers a LOG request and may clear LOGLOST. -/
  | log
  /-- FWUPDATE (R403): Ordel verifies both signatures of a firmware image and installs or rejects it. -/
  | fwupdate
  /-- IDENTITY (R404): Ordel returns the device public keys and certificates. -/
  | identity
  /-- ATTEST (R404): Ordel returns a doubly signed attestation report for a nonce. -/
  | attest
  /-- SENSOR_SAMPLE (R401): Every 1 ms Ordel samples temperatures, voltages and currents. -/
  | sensorSample
  /-- POWER_GATING (R406): Power above POWERLIM over a 10 ms average, or a die above 105 °C, gates issue. -/
  | powerGating
  /-- MODULE_RESET (R405): Reset or power-up runs bring-up through to the readiness notice. -/
  | moduleReset
  /-- UNASSIGNED_OPCODE (R14): A word with an unassigned opcode, or 0xFFFF_FFFF, is issued in any stream and raises ILLEGAL. -/
  | unassignedOpcode
  /-- SOFT_ERROR (R375): A soft error corrupts stored bits in a granule, sector, register, accumulator or queue entry. -/
  | softError
  /-- SUPERVISOR_RESTART (R237): The management controller restarts a supervisor core that SYS.HALT stopped. -/
  | supervisorRestart
  /-- HOST_PORT_LINK_CHANGE (R393): A host Ethernet port goes down or comes up, which changes the port that event notices use. -/
  | hostPortLinkChange
  /-- POWER_LOSS (R402): The module loses main power, and only Ordel's log and LOGLOST persist in non-volatile storage. -/
  | powerLoss
  /-- ORDEL_UNRECOGNISED_REQUEST (R400): Ordel answers a request that it does not recognise with an error status. -/
  | ordelUnrecognisedRequest
deriving DecidableEq, Repr

end Sys2Proof
end

