-- ==== Sys2Proof/WellFormed.lean ====
section
/-! DEFINITION. Well-formed instructions: the checks of R14 steps 4 to 6 that the fields of one word decide. What depends
on the unit that issues the word (R25, R27, R31, R80) is checked where the word issues. -/

namespace Sys2Proof

/-- The type set F of R160. -/
def ElemType.isF : ElemType → Bool
  | .fp32 | .bf16 | .fp16 => true
  | _ => false
/-- The type set I of R160. -/
def ElemType.isI : ElemType → Bool
  | .int32 | .int16 | .int8 | .uint8 => true
  | _ => false
/-- The type set Q of R160. -/
def ElemType.isQ : ElemType → Bool
  | .e4m3 | .e5m2 | .m8 => true
  | _ => false
/-- F, Q or I. -/
def ElemType.isLane (e : ElemType) : Bool := e.isF || e.isI || e.isQ
/-- The element types of a table (R150). -/
def ElemType.isRow (e : ElemType) : Bool := e.isF || e.isQ || e == .int8 || e == .int32
/-- The types of FCVTN and FCVTW (R228). -/
def ElemType.isNarrow : ElemType → Bool
  | .bf16 | .fp16 | .e4m3 | .e5m2 | .m8 | .fp4 => true
  | _ => false
/-- The modes of the 2-bit FMA field (R34). -/
def Rm.isTwoBit : Rm → Bool
  | .rne | .rtz | .rup | .rdn => true
  | _ => false
/-- A memory operand (R19). -/
def LOpd.isMem : LOpd → Bool
  | .mem _ | .memInc _ | .memDec _ => true
  | _ => false
/-- The element type each AOP takes in the lookup stream (R36). -/
def Aop.takesEt : Aop → ElemType → Bool
  | .fadd, e | .fmax, e | .fmin, e => e == .fp32
  | .accbf, e => e == .bf16
  | _, e => e == .int32
/-- The widths each AOP takes in the scalar stream (R36): `x` is the 64-bit width. -/
def Aop.takesWide : Aop → Bool → Bool
  | .fadd, x | .fmax, x | .fmin, x | .accbf, x => !x
  | _, _ => true

/-- The field rules of the opcode maps (R18 to R37) and of each instruction's entry. -/
def Instr.wellFormed : Instr → Bool
  | .nop => true
  | .lda _ e _ => e.isLane
  | .sta _ e a => e.isLane && a.isMem
  | .adda _ e _ _ r => (e.isF || (e.isI && r == .rne))
  | .suba _ e _ _ r => (e.isF || (e.isI && r == .rne))
  | .mula _ e _ _ r => (e.isF || (e.isI && r == .rne))
  | .maca _ e _ _ r => (e.isF || (e.isI && r == .rne))
  | .mina _ e _ _ => (e.isF || e.isI)
  | .maxa _ e _ _ => (e.isF || e.isI)
  | .loga _ _ e _ _ => e.isI
  | .shfa _ _ e _ _ => e.isI
  | .cvta _ s e _ _ => e.isLane && s.isLane
  | .hred _ f e _ r => (e.isF && (f == .sum || r == .rne)) || (e.isI && r == .rne)
  | .cmpa _ e _ _ => e.isLane
  | .sigaRead _ e _ => (e.isF || e.isQ)
  | .sigaWrite _ e _ _ => (e.isF || e.isQ)
  | .sigaMintag _ e _ => (e.isF || e.isQ)
  | .immaSet _ e _ => (e.isF || e.isI)
  | .immaAddi _ e _ => (e.isF || e.isI)
  | .immaLane0 _ e _ => (e.isF || e.isI)
  | .pset _ _ _ => true
  | .pldc _ _ _ => true
  | .padd _ _ _ _ => true
  | .pstr _ _ _ => true
  | .pld _ _ _ _ => true
  | .pst _ _ _ _ => true
  | .paccGet _ _ n => decide (n.toNat ≤ 3)
  | .paccPut _ _ n => decide (n.toNat ≤ 3)
  | .paccAdd _ _ n => decide (n.toNat ≤ 3)
  | .paccAddw _ _ _ => true
  | .pcrdAbs _ _ _ => true
  | .pcrdMyxy _ _ => true
  | .pcrdGlob _ _ _ => true
  | .pcrdHome _ _ _ => true
  | .br _ _ => true
  | .bpc _ _ _ _ => true
  | .lBsig _ e _ => (e.isF || e.isQ)
  | .call _ => true
  | .lJmp _ => true
  | .retp => true
  | .gath _ _ _ _ v _ e => if v then e.isRow else e == .fp32
  | .scat _ _ _ _ x k e => (x || k == 0) && e != .cb3
  | .scatw _ _ _ _ x k e => (x || k == 0) && e != .cb3
  | .dedup _ _ _ _ => true
  | .bucket _ _ _ => true
  | .ucinc _ _ _ => true
  | .rowadd _ _ _ _ _ _ r e => (e.isF || (e == .int32 && r == .rne))
  | .rowscl _ _ _ _ _ _ e => e.isF
  | .rowcvt _ _ _ _ _ r e => (e.isF || e.isQ || e == .int8 || (e == .int32 && r == .rne))
  | .rowdot _ _ _ _ _ _ e => (e.isF || e.isQ)
  | .lAmo o _ e _ _ _ => o.takesEt e
  | .amov o _ e _ _ _ => o.takesEt e && o != .cas && o != .incw && o != .bfadd
  | .lFence f s => (f != .loop || s == .core)
  | .lBar _ _ => true
  | .lMark m => decide (m.toNat < 64)
  | .tepoch _ => true
  | .send _ _ _ _ _ => true
  | .senda _ _ _ _ => true
  | .reply _ _ _ => true
  | .put k c _ _ _ x _ => (k || c == 0) && decide (x.toNat ≤ 7)
  | .hend => true
  | .commit => true
  | .hctlMask _ => true
  | .hctlUnmask _ => true
  | .hctlPrio _ _ => true
  | .hctlBind _ _ => true
  | .waitc _ _ => true
  | .lWaitp _ => true
  | .waitt _ => true
  | .copy _ k n _ l q c => (l || q || c == .core) && (n || k == 0)
  | .spawn _ _ => true
  | .join _ _ => true
  | .tend => true
  | .wlistPush _ => true
  | .wlistPop _ => true
  | .lSysTrap _ => true
  | .lSysTret => true
  | .lSysCrr _ _ => true
  | .lSysCrw _ _ => true
  | .lSysTime _ _ => true
  | .sysYield _ => true
  | .add _ _ _ _ _ => true
  | .sub _ _ _ _ _ => true
  | .and _ _ _ _ _ => true
  | .or _ _ _ _ _ => true
  | .xor _ _ _ _ _ => true
  | .shl _ _ _ _ _ => true
  | .shr _ _ _ _ _ => true
  | .sra _ _ _ _ _ => true
  | .mul _ _ _ _ _ => true
  | .mulh _ _ _ _ _ => true
  | .div _ _ _ _ _ => true
  | .rem _ _ _ _ _ => true
  | .slt _ _ _ _ _ => true
  | .sltu _ _ _ _ _ => true
  | .min _ _ _ _ _ => true
  | .max _ _ _ _ _ => true
  | .addi _ _ _ _ _ => true
  | .andi _ _ _ _ _ => true
  | .ori _ _ _ _ _ => true
  | .xori _ _ _ _ _ => true
  | .shli _ _ _ _ _ => true
  | .shri _ _ _ _ _ => true
  | .srai _ _ _ _ _ => true
  | .slti _ _ _ _ _ => true
  | .lui _ _ _ _ => true
  | .ldc _ _ _ _ => true
  | .fadd _ _ _ _ _ _ => true
  | .fsub _ _ _ _ _ _ => true
  | .fmul _ _ _ _ _ _ => true
  | .fdiv _ _ _ _ _ _ => true
  | .fsqrt _ _ _ _ _ => true
  | .fmin _ _ _ _ _ => true
  | .fmax _ _ _ _ _ => true
  | .fabs _ _ _ _ => true
  | .fneg _ _ _ _ => true
  | .fcvtif _ _ _ _ _ => true
  | .fcvtfi _ _ _ _ _ => true
  | .fcvtn _ _ _ _ e _ => e.isNarrow
  | .fcvtw _ _ _ _ e => e.isNarrow
  | .fcmp _ _ _ _ _ => true
  | .fsigr _ _ _ _ => true
  | .fsigw _ _ _ _ _ => true
  | .fma _ _ _ _ _ _ r => r.isTwoBit
  | .fms _ _ _ _ _ _ r => r.isTwoBit
  | .ldb _ _ _ _ _ => true
  | .ldh _ _ _ _ _ => true
  | .ldw _ _ _ _ _ => true
  | .ldd _ _ _ _ _ => true
  | .ldwt _ _ _ _ _ => true
  | .stb _ _ _ _ => true
  | .sth _ _ _ _ => true
  | .stw _ _ _ _ => true
  | .std _ _ _ _ => true
  | .stwt _ _ _ _ => true
  | .sAmo _ _ _ b o _ x => o.takesWide x && (o != .incw || b == 0)
  | .beq _ _ _ _ => true
  | .bne _ _ _ _ => true
  | .blt _ _ _ _ => true
  | .bge _ _ _ _ => true
  | .bltu _ _ _ _ => true
  | .bgeu _ _ _ _ => true
  | .sBsig _ _ _ _ => true
  | .jal _ _ _ => true
  | .jalr _ _ _ _ => true
  | .ewr _ _ _ _ => true
  | .erd _ _ _ _ => true
  | .engo _ _ => true
  | .fpush _ _ => true
  | .shape _ _ _ => true
  | .sTsend _ q _ => decide (q.toNat ≤ 2)
  | .sTwait _ q _ => q == 7
  | .sWaitp _ _ => true
  | .sMark _ m => decide (m.toNat < 64)
  | .sBar _ _ _ => true
  | .sFence _ s k => (k != .loop || s == .core)
  | .sSysTrap _ => true
  | .sSysTret _ => true
  | .sSysCrr _ _ _ => true
  | .sSysCrw _ _ _ => true
  | .sysTlbinv _ _ _ => true
  | .sysHalt _ => true
  | .sysWfe _ => true
  | .sSysTime _ _ => true
  | .sysLnpop _ _ _ => true
  | .sysLnret _ _ => true
  | .sysNstart _ _ _ => true
  | .sysNstop _ _ => true
  | .sysCmapw _ _ _ => true
  | .sysSmapw _ _ _ => true
  | .sysMapfence _ => true
  | .sysPtbase _ _ => true
  | .cpy _ _ q l s _ _ t k => (q || l || s == .core) && (t || k == 0)
  | .dload _ _ => true
  | .cTsend _ _ => true
  | .cTwait _ _ => true
  | .cWaitp _ => true
  | .lset _ _ => true
  | .lbr _ _ => true
  | .cJmp _ => true
  | .cMark m => decide (m.toNat < 64)
  | .cfence => true
  | .cHalt => true
  | .vadd _ _ _ _ _ _ _ => true
  | .vsub _ _ _ _ _ _ _ => true
  | .vmul _ _ _ _ _ _ _ => true
  | .vfma _ _ _ _ _ _ _ => true
  | .vfms _ _ _ _ _ _ _ => true
  | .vmin _ _ _ _ _ _ => true
  | .vmax _ _ _ _ _ _ => true
  | .vabs _ _ _ _ _ => true
  | .vneg _ _ _ _ _ => true
  | .vrcp _ _ _ _ _ => true
  | .vrsq _ _ _ _ _ => true
  | .vexp2 _ _ _ _ _ => true
  | .vlog2 _ _ _ _ _ => true
  | .viadd _ _ _ _ _ _ => true
  | .visub _ _ _ _ _ _ => true
  | .vimul _ _ _ _ _ _ => true
  | .vand _ _ _ _ _ _ => true
  | .vor _ _ _ _ _ _ => true
  | .vxor _ _ _ _ _ _ => true
  | .vshl _ _ _ _ _ _ => true
  | .vshr _ _ _ _ _ _ => true
  | .vsra _ _ _ _ _ _ => true
  | .vcmp _ _ d _ _ _ _ => d != 0
  | .vsel _ _ _ _ _ _ => true
  | .vcvt _ _ _ _ e _ _ => e != .cb3
  | .vefb _ _ d _ b _ _ => b != d
  | .vbcast _ _ _ => true
  | .vmovk _ _ _ _ => true
  | .kaddi _ _ _ _ => true
  | .vld _ _ _ _ e => e != .cb3
  | .vst _ _ _ _ e => e != .cb3
  | .vldg _ _ _ _ e => e != .cb3 && e != .fp4 && e != .int4
  | .vsts _ _ _ _ e => e != .cb3 && e != .fp4 && e != .int4
  | .vstt _ _ _ _ e => e == .fp32
  | .vldt _ _ _ _ e => e == .fp32
  | .vred _ _ _ _ _ => true
  | .vperm _ _ _ _ _ => true
  | .vsigRead _ _ _ _ => true
  | .vsigWrite _ _ _ _ _ => true
  | .vsigMintag _ _ _ _ => true
  | .vssig _ _ _ _ _ => true
  | .vbr _ _ _ _ => true
  | .vjmp _ _ => true
  | .vloop _ _ _ => true
  | .epout _ _ e => e != .cb3
  | .epiret _ => true
  | .vWaitp _ _ => true
  | .vTsend _ _ q => q == 4 || q == 6 || q == 7
  | .vTwait _ _ q => q == 1 || q == 3
  | .vMark _ m => decide (m.toNat < 64)
  | .vsysTrap _ => true
  | .vsysTret _ => true
  | .vsysCrr _ _ _ => true
  | .vsysCrw _ _ _ => true
  | .vsysTime _ _ => true
  | .mnop _ => true
  | .mma _ _ _ _ _ _ _ => true
  | .mmac _ _ _ _ _ _ _ => true
  | .mmak _ _ _ _ _ _ => true
  | .mzero _ _ => true
  | .mdrain _ _ _ _ => true
  | .mldacc _ _ _ _ => true
  | .msync _ => true
  | .messageArrival => true
  | .handlerBind => true
  | .epriAging => true
  | .niRetry => true
  | .accessPerform => true
  | .rowRequestService => true
  | .rowOperationService => true
  | .rowLanding => true
  | .putLanding => true
  | .useCounterIncrement => true
  | .pageWalk => true
  | .fscmd => true
  | .lanternAccess => true
  | .cmemEvictionResume => true
  | .cmgrant => true
  | .smquery => true
  | .nresume => true
  | .registerWrite => true
  | .copyBurst => true
  | .copyComplete => true
  | .tblrdyRead => true
  | .dloadFillComplete => true
  | .promiseExpiry => true
  | .waitpComplete => true
  | .tokenWaitComplete => true
  | .waitcComplete => true
  | .waittExpiry => true
  | .cfenceComplete => true
  | .msyncComplete => true
  | .wfeWake => true
  | .epochAdvance => true
  | .variableResultLanding => true
  | .transformComplete => true
  | .condenserComplete => true
  | .mergeComplete => true
  | .matrixArbiterAccept => true
  | .matrixCommandStart => true
  | .matrixCommandComplete => true
  | .epilogueStart => true
  | .drainRowRelease => true
  | .watchdogExpiry => true
  | .phaseEnd => true
  | .bundleRelease => true
  | .markerRetire => true
  | .belfryHop => true
  | .stealAttempt => true
  | .taskMigration => true
  | .levellingInterval => true
  | .carryGranuleFill => true
  | .nodePlacement => true
  | .branchNode => true
  | .barrierNodePoll => true
  | .endNode => true
  | .scrubStep => true
  | .launch => true
  | .memwr => true
  | .memrd => true
  | .rddata => true
  | .ack => true
  | .nack => true
  | .window => true
  | .completionRetransmit => true
  | .ptpMessage => true
  | .rowreq => true
  | .rowdata => true
  | .rowacc => true
  | .fabricMemrd => true
  | .fabricMemwr => true
  | .atomic => true
  | .msg => true
  | .fabricAck => true
  | .fabricNack => true
  | .fabricRetransmit => true
  | .sensor => true
  | .log => true
  | .fwupdate => true
  | .identity => true
  | .attest => true
  | .sensorSample => true
  | .powerGating => true
  | .moduleReset => true
  | .unassignedOpcode => true
  | .softError => true
  | .supervisorRestart => true
  | .hostPortLinkChange => true
  | .powerLoss => true
  | .ordelUnrecognisedRequest => true

end Sys2Proof
end

