-- ==== Sys2Proof/Decode.lean ====
section
/-! DEFINITION. Decoding 32-bit words by stream (R13, R14, R18 to R32), and then the encoder. A refused word names why. -/

namespace Sys2Proof

/-- Why a word is no instruction of its stream (R14 steps 2 to 6): it raises ILLEGAL. -/
inductive Reject where
  | allOnes | unassignedOpcode | reservedField | badCode | illFormed
deriving DecidableEq, Repr

/-- The streams a word is decoded for (R13). -/
inductive Stream where
  | lookup | scalar | copy | compute
deriving DecidableEq, Repr

/-! ## Code tables -/

/-- Codes of ElemType (R33). -/
def ElemType.ofCode : Nat → Option ElemType
  | 0 => some .fp32
  | 1 => some .bf16
  | 2 => some .fp16
  | 3 => some .e4m3
  | 4 => some .e5m2
  | 5 => some .m8
  | 6 => some .fp4
  | 7 => some .int32
  | 8 => some .int16
  | 9 => some .int8
  | 10 => some .uint8
  | 11 => some .int4
  | 12 => some .cb3
  | _ => none

/-- The code of a ElemType (R33). -/
def ElemType.code : ElemType → Nat
  | .fp32 => 0
  | .bf16 => 1
  | .fp16 => 2
  | .e4m3 => 3
  | .e5m2 => 4
  | .m8 => 5
  | .fp4 => 6
  | .int32 => 7
  | .int16 => 8
  | .int8 => 9
  | .uint8 => 10
  | .int4 => 11
  | .cb3 => 12

/-- Codes of Rm (R34). -/
def Rm.ofCode : Nat → Option Rm
  | 0 => some .rne
  | 1 => some .rtz
  | 2 => some .rup
  | 3 => some .rdn
  | 4 => some .rna
  | 5 => some .sr
  | _ => none

/-- The code of a Rm (R34). -/
def Rm.code : Rm → Nat
  | .rne => 0
  | .rtz => 1
  | .rup => 2
  | .rdn => 3
  | .rna => 4
  | .sr => 5

/-- Codes of Scope (R35). -/
def Scope.ofCode : Nat → Option Scope
  | 0 => some .core
  | 1 => some .cluster
  | 2 => some .device
  | 3 => some .system
  | _ => none

/-- The code of a Scope (R35). -/
def Scope.code : Scope → Nat
  | .core => 0
  | .cluster => 1
  | .device => 2
  | .system => 3

/-- Codes of FenceKind (R35). -/
def FenceKind.ofCode : Nat → Option FenceKind
  | 0 => some .acq
  | 1 => some .rel
  | 2 => some .full
  | 3 => some .loop
  | _ => none

/-- The code of a FenceKind (R35). -/
def FenceKind.code : FenceKind → Nat
  | .acq => 0
  | .rel => 1
  | .full => 2
  | .loop => 3

/-- Codes of Aop (R36). -/
def Aop.ofCode : Nat → Option Aop
  | 0 => some .add
  | 1 => some .and
  | 2 => some .or
  | 3 => some .xor
  | 4 => some .min
  | 5 => some .max
  | 6 => some .swap
  | 7 => some .cas
  | 8 => some .incw
  | 9 => some .bfadd
  | 10 => some .fadd
  | 11 => some .fmax
  | 12 => some .fmin
  | 13 => some .accbf
  | _ => none

/-- The code of a Aop (R36). -/
def Aop.code : Aop → Nat
  | .add => 0
  | .and => 1
  | .or => 2
  | .xor => 3
  | .min => 4
  | .max => 5
  | .swap => 6
  | .cas => 7
  | .incw => 8
  | .bfadd => 9
  | .fadd => 10
  | .fmax => 11
  | .fmin => 12
  | .accbf => 13

/-- Codes of Cond (R21). -/
def Cond.ofCode : Nat → Option Cond
  | 0 => some .al
  | 1 => some .eq
  | 2 => some .ne
  | 3 => some .mi
  | 4 => some .pl
  | 5 => some .cs
  | 6 => some .cc
  | 7 => some .vs
  | 8 => some .vc
  | 9 => some .lt
  | 10 => some .ge
  | 11 => some .le
  | 12 => some .gt
  | 13 => some .hi
  | 14 => some .ls
  | _ => none

/-- The code of a Cond (R21). -/
def Cond.code : Cond → Nat
  | .al => 0
  | .eq => 1
  | .ne => 2
  | .mi => 3
  | .pl => 4
  | .cs => 5
  | .cc => 6
  | .vs => 7
  | .vc => 8
  | .lt => 9
  | .ge => 10
  | .le => 11
  | .gt => 12
  | .hi => 13
  | .ls => 14

/-- Codes of VCond (R242). -/
def VCond.ofCode : Nat → Option VCond
  | 0 => some .eq
  | 1 => some .ne
  | 2 => some .lt
  | 3 => some .le
  | 4 => some .gt
  | 5 => some .ge
  | 6 => some .unord
  | 7 => some .ord
  | _ => none

/-- The code of a VCond (R242). -/
def VCond.code : VCond → Nat
  | .eq => 0
  | .ne => 1
  | .lt => 2
  | .le => 3
  | .gt => 4
  | .ge => 5
  | .unord => 6
  | .ord => 7

/-- Codes of LogOp (R20). -/
def LogOp.ofCode : Nat → Option LogOp
  | 0 => some .and
  | 1 => some .or
  | 2 => some .xor
  | 3 => some .andn
  | _ => none

/-- The code of a LogOp (R20). -/
def LogOp.code : LogOp → Nat
  | .and => 0
  | .or => 1
  | .xor => 2
  | .andn => 3

/-- Codes of ShiftOp (R20). -/
def ShiftOp.ofCode : Nat → Option ShiftOp
  | 0 => some .shl
  | 1 => some .shr
  | 2 => some .sra
  | 3 => some .rol
  | _ => none

/-- The code of a ShiftOp (R20). -/
def ShiftOp.code : ShiftOp → Nat
  | .shl => 0
  | .shr => 1
  | .sra => 2
  | .rol => 3

/-- Codes of RedOp (R20, R29). -/
def RedOp.ofCode : Nat → Option RedOp
  | 0 => some .sum
  | 1 => some .min
  | 2 => some .max
  | _ => none

/-- The code of a RedOp (R20, R29). -/
def RedOp.code : RedOp → Nat
  | .sum => 0
  | .min => 1
  | .max => 2

/-- Codes of BarOp (R202). -/
def BarOp.ofCode : Nat → Option BarOp
  | 0 => some .arrive
  | 1 => some .wait
  | 2 => some .both
  | _ => none

/-- The code of a BarOp (R202). -/
def BarOp.code : BarOp → Nat
  | .arrive => 0
  | .wait => 1
  | .both => 2

/-- Codes of Eng (R233). -/
def Eng.ofCode : Nat → Option Eng
  | 0 => some .transform
  | 1 => some .condenser
  | 2 => some .merge
  | _ => none

/-- The code of a Eng (R233). -/
def Eng.code : Eng → Nat
  | .transform => 0
  | .condenser => 1
  | .merge => 2

/-- A lookup operand specifier (R19): mode in bits 4:3, n in bits 2:0. -/
def LOpd.ofCode (v : Nat) : Option LOpd :=
  match v / 8 with
  | 0 => match v with
    | 0 => some .zero
    | 1 => some .acc
    | 2 => some .inPop
    | 3 => some .inPeek
    | 4 => some .one
    | _ => none
  | 1 => some (.mem (BitVec.ofNat 3 v))
  | 2 => some (.memInc (BitVec.ofNat 3 v))
  | 3 => some (.memDec (BitVec.ofNat 3 v))
  | _ => none

/-- The code of a lookup operand specifier (R19). -/
def LOpd.code : LOpd → Nat
  | .zero => 0
  | .acc => 1
  | .inPop => 2
  | .inPeek => 3
  | .one => 4
  | .mem p => 8 + p.toNat
  | .memInc p => 16 + p.toNat
  | .memDec p => 24 + p.toNat

/-- One bit of a word. -/
def flag (w k : Nat) : Bool := decide (bits w k k = 1)
/-- A bit's number. -/
def bitOf (b : Bool) : Nat := if b then 1 else 0
/-- A register, number or offset field. -/
def field (n w lo : Nat) : BitVec n := BitVec.ofNat n (w / 2 ^ lo)

/-! ## The rows: fixed bits, then fields -/

/-- NOP (R14). -/
def decNop (w : Nat) : Except Reject Instr :=
  if bits w 31 0 == 0 then
    .ok (.nop)
  else .error .reservedField

/-- LDA (R160). -/
def decLda (w : Nat) : Except Reject Instr :=
  if bits w 11 0 == 0 && bits w 30 21 == 16 then
    match ElemType.ofCode (bits w 20 17), LOpd.ofCode (bits w 16 12) with
    | some e, some a => .ok (.lda (flag w 31) e a)
    | _, _ => .error .badCode
  else .error .reservedField

/-- STA (R160). -/
def decSta (w : Nat) : Except Reject Instr :=
  if bits w 11 0 == 0 && bits w 30 21 == 32 then
    match ElemType.ofCode (bits w 20 17), LOpd.ofCode (bits w 16 12) with
    | some e, some a => .ok (.sta (flag w 31) e a)
    | _, _ => .error .badCode
  else .error .reservedField

/-- ADDA (R160). -/
def decAdda (w : Nat) : Except Reject Instr :=
  if bits w 6 3 == 0 && bits w 30 21 == 48 then
    match ElemType.ofCode (bits w 20 17), LOpd.ofCode (bits w 16 12), LOpd.ofCode (bits w 11 7), Rm.ofCode (bits w 2 0) with
    | some e, some a, some b, some r => .ok (.adda (flag w 31) e a b r)
    | _, _, _, _ => .error .badCode
  else .error .reservedField

/-- SUBA (R160). -/
def decSuba (w : Nat) : Except Reject Instr :=
  if bits w 6 3 == 0 && bits w 30 21 == 64 then
    match ElemType.ofCode (bits w 20 17), LOpd.ofCode (bits w 16 12), LOpd.ofCode (bits w 11 7), Rm.ofCode (bits w 2 0) with
    | some e, some a, some b, some r => .ok (.suba (flag w 31) e a b r)
    | _, _, _, _ => .error .badCode
  else .error .reservedField

/-- MULA (R160). -/
def decMula (w : Nat) : Except Reject Instr :=
  if bits w 6 3 == 0 && bits w 30 21 == 80 then
    match ElemType.ofCode (bits w 20 17), LOpd.ofCode (bits w 16 12), LOpd.ofCode (bits w 11 7), Rm.ofCode (bits w 2 0) with
    | some e, some a, some b, some r => .ok (.mula (flag w 31) e a b r)
    | _, _, _, _ => .error .badCode
  else .error .reservedField

/-- MACA (R160). -/
def decMaca (w : Nat) : Except Reject Instr :=
  if bits w 6 3 == 0 && bits w 30 21 == 96 then
    match ElemType.ofCode (bits w 20 17), LOpd.ofCode (bits w 16 12), LOpd.ofCode (bits w 11 7), Rm.ofCode (bits w 2 0) with
    | some e, some a, some b, some r => .ok (.maca (flag w 31) e a b r)
    | _, _, _, _ => .error .badCode
  else .error .reservedField

/-- MINA (R160). -/
def decMina (w : Nat) : Except Reject Instr :=
  if bits w 6 0 == 0 && bits w 30 21 == 112 then
    match ElemType.ofCode (bits w 20 17), LOpd.ofCode (bits w 16 12), LOpd.ofCode (bits w 11 7) with
    | some e, some a, some b => .ok (.mina (flag w 31) e a b)
    | _, _, _ => .error .badCode
  else .error .reservedField

/-- MAXA (R160). -/
def decMaxa (w : Nat) : Except Reject Instr :=
  if bits w 6 0 == 0 && bits w 30 21 == 128 then
    match ElemType.ofCode (bits w 20 17), LOpd.ofCode (bits w 16 12), LOpd.ofCode (bits w 11 7) with
    | some e, some a, some b => .ok (.maxa (flag w 31) e a b)
    | _, _, _ => .error .badCode
  else .error .reservedField

/-- LOGA (R160). -/
def decLoga (w : Nat) : Except Reject Instr :=
  if bits w 6 0 == 0 && bits w 30 25 == 9 then
    match LogOp.ofCode (bits w 24 21), ElemType.ofCode (bits w 20 17), LOpd.ofCode (bits w 16 12), LOpd.ofCode (bits w 11 7) with
    | some f, some e, some a, some b => .ok (.loga (flag w 31) f e a b)
    | _, _, _, _ => .error .badCode
  else .error .reservedField

/-- SHFA (R160). -/
def decShfa (w : Nat) : Except Reject Instr :=
  if bits w 6 0 == 0 && bits w 30 25 == 10 then
    match ShiftOp.ofCode (bits w 24 21), ElemType.ofCode (bits w 20 17), LOpd.ofCode (bits w 16 12), LOpd.ofCode (bits w 11 7) with
    | some f, some e, some a, some b => .ok (.shfa (flag w 31) f e a b)
    | _, _, _, _ => .error .badCode
  else .error .reservedField

/-- CVTA (R161). Any rounding code stands in IMM7 between integer types too (DESIGN CHOICE, log 104). -/
def decCvta (w : Nat) : Except Reject Instr :=
  if bits w 11 3 == 0 && bits w 30 25 == 11 then
    match ElemType.ofCode (bits w 24 21), ElemType.ofCode (bits w 20 17), LOpd.ofCode (bits w 16 12), Rm.ofCode (bits w 2 0) with
    | some s, some e, some a, some r => .ok (.cvta (flag w 31) s e a r)
    | _, _, _, _ => .error .badCode
  else .error .reservedField

/-- HRED (R162). -/
def decHred (w : Nat) : Except Reject Instr :=
  if bits w 11 3 == 0 && bits w 30 25 == 12 then
    match RedOp.ofCode (bits w 24 21), ElemType.ofCode (bits w 20 17), LOpd.ofCode (bits w 16 12), Rm.ofCode (bits w 2 0) with
    | some f, some e, some a, some r => .ok (.hred (flag w 31) f e a r)
    | _, _, _, _ => .error .badCode
  else .error .reservedField

/-- CMPA (R163). -/
def decCmpa (w : Nat) : Except Reject Instr :=
  if bits w 6 0 == 0 && bits w 30 21 == 208 then
    match ElemType.ofCode (bits w 20 17), LOpd.ofCode (bits w 16 12), LOpd.ofCode (bits w 11 7) with
    | some e, some a, some b => .ok (.cmpa (flag w 31) e a b)
    | _, _, _ => .error .badCode
  else .error .reservedField

/-- SIGA_READ (R164). -/
def decSigaRead (w : Nat) : Except Reject Instr :=
  if bits w 11 0 == 0 && bits w 30 21 == 224 then
    match ElemType.ofCode (bits w 20 17), LOpd.ofCode (bits w 16 12) with
    | some e, some a => .ok (.sigaRead (flag w 31) e a)
    | _, _ => .error .badCode
  else .error .reservedField

/-- SIGA_WRITE (R164). -/
def decSigaWrite (w : Nat) : Except Reject Instr :=
  if bits w 6 0 == 0 && bits w 30 21 == 225 then
    match ElemType.ofCode (bits w 20 17), LOpd.ofCode (bits w 16 12), LOpd.ofCode (bits w 11 7) with
    | some e, some a, some b => .ok (.sigaWrite (flag w 31) e a b)
    | _, _, _ => .error .badCode
  else .error .reservedField

/-- SIGA_MINTAG (R164). -/
def decSigaMintag (w : Nat) : Except Reject Instr :=
  if bits w 11 0 == 0 && bits w 30 21 == 226 then
    match ElemType.ofCode (bits w 20 17), LOpd.ofCode (bits w 16 12) with
    | some e, some a => .ok (.sigaMintag (flag w 31) e a)
    | _, _ => .error .badCode
  else .error .reservedField

/-- IMMA_SET (R165). -/
def decImmaSet (w : Nat) : Except Reject Instr :=
  if bits w 16 7 == 0 && bits w 30 21 == 240 then
    match ElemType.ofCode (bits w 20 17) with
    | some e => .ok (.immaSet (flag w 31) e (field 7 w 0))
    | _ => .error .badCode
  else .error .reservedField

/-- IMMA_ADDI (R165). -/
def decImmaAddi (w : Nat) : Except Reject Instr :=
  if bits w 16 7 == 0 && bits w 30 21 == 241 then
    match ElemType.ofCode (bits w 20 17) with
    | some e => .ok (.immaAddi (flag w 31) e (field 7 w 0))
    | _ => .error .badCode
  else .error .reservedField

/-- IMMA_LANE0 (R165). -/
def decImmaLane0 (w : Nat) : Except Reject Instr :=
  if bits w 16 7 == 0 && bits w 30 21 == 242 then
    match ElemType.ofCode (bits w 20 17) with
    | some e => .ok (.immaLane0 (flag w 31) e (field 7 w 0))
    | _ => .error .badCode
  else .error .reservedField

/-- PSET (R166). -/
def decPset (w : Nat) : Except Reject Instr :=
  if bits w 21 19 == 0 && bits w 30 25 == 16 then
    .ok (.pset (flag w 31) (field 3 w 22) (field 19 w 0))
  else .error .reservedField

/-- PLDC (R166). -/
def decPldc (w : Nat) : Except Reject Instr :=
  if bits w 21 19 == 0 && bits w 30 25 == 17 then
    .ok (.pldc (flag w 31) (field 3 w 22) (field 19 w 0))
  else .error .reservedField

/-- PADD (R166). -/
def decPadd (w : Nat) : Except Reject Instr :=
  if bits w 30 25 == 18 then
    .ok (.padd (flag w 31) (field 3 w 22) (field 3 w 19) (field 19 w 0))
  else .error .reservedField

/-- PSTR (R166). -/
def decPstr (w : Nat) : Except Reject Instr :=
  if bits w 21 19 == 0 && bits w 30 25 == 19 then
    .ok (.pstr (flag w 31) (field 3 w 22) (field 19 w 0))
  else .error .reservedField

/-- PLD (R166). -/
def decPld (w : Nat) : Except Reject Instr :=
  if bits w 30 25 == 20 then
    .ok (.pld (flag w 31) (field 3 w 22) (field 3 w 19) (field 19 w 0))
  else .error .reservedField

/-- PST (R166). -/
def decPst (w : Nat) : Except Reject Instr :=
  if bits w 30 25 == 21 then
    .ok (.pst (flag w 31) (field 3 w 22) (field 3 w 19) (field 19 w 0))
  else .error .reservedField

/-- PACC_GET (R166). -/
def decPaccGet (w : Nat) : Except Reject Instr :=
  if bits w 21 3 == 0 && bits w 30 25 == 22 then
    .ok (.paccGet (flag w 31) (field 3 w 22) (field 3 w 0))
  else .error .reservedField

/-- PACC_PUT (R166). -/
def decPaccPut (w : Nat) : Except Reject Instr :=
  if bits w 21 3 == 16384 && bits w 30 25 == 22 then
    .ok (.paccPut (flag w 31) (field 3 w 22) (field 3 w 0))
  else .error .reservedField

/-- PACC_ADD (R166). -/
def decPaccAdd (w : Nat) : Except Reject Instr :=
  if bits w 21 3 == 32768 && bits w 30 25 == 22 then
    .ok (.paccAdd (flag w 31) (field 3 w 22) (field 3 w 0))
  else .error .reservedField

/-- PACC_ADDW (R166). -/
def decPaccAddw (w : Nat) : Except Reject Instr :=
  if bits w 21 3 == 49152 && bits w 30 25 == 22 then
    .ok (.paccAddw (flag w 31) (field 3 w 22) (field 3 w 0))
  else .error .reservedField

/-- PCRD_ABS (R167). -/
def decPcrdAbs (w : Nat) : Except Reject Instr :=
  if bits w 18 0 == 0 && bits w 30 25 == 23 then
    .ok (.pcrdAbs (flag w 31) (field 3 w 22) (field 3 w 19))
  else .error .reservedField

/-- PCRD_MYXY (R167). -/
def decPcrdMyxy (w : Nat) : Except Reject Instr :=
  if bits w 21 0 == 131072 && bits w 30 25 == 23 then
    .ok (.pcrdMyxy (flag w 31) (field 3 w 22))
  else .error .reservedField

/-- PCRD_GLOB (R167). -/
def decPcrdGlob (w : Nat) : Except Reject Instr :=
  if bits w 18 0 == 262144 && bits w 30 25 == 23 then
    .ok (.pcrdGlob (flag w 31) (field 3 w 22) (field 3 w 19))
  else .error .reservedField

/-- PCRD_HOME (R167). -/
def decPcrdHome (w : Nat) : Except Reject Instr :=
  if bits w 18 0 == 393216 && bits w 30 25 == 23 then
    .ok (.pcrdHome (flag w 31) (field 3 w 22) (field 3 w 19))
  else .error .reservedField

/-- BR (R168). -/
def decBr (w : Nat) : Except Reject Instr :=
  if bits w 20 15 == 0 && bits w 31 25 == 24 then
    match Cond.ofCode (bits w 24 21) with
    | some c => .ok (.br c (field 15 w 0))
    | _ => .error .badCode
  else .error .reservedField

/-- BPC (R168). -/
def decBpc (w : Nat) : Except Reject Instr :=
  if bits w 31 25 == 25 then
    match Cond.ofCode (bits w 24 21) with
    | some c => .ok (.bpc c (field 3 w 18) (field 3 w 15) (field 15 w 0))
    | _ => .error .badCode
  else .error .reservedField

/-- L_BSIG (R168). -/
def decLBsig (w : Nat) : Except Reject Instr :=
  if bits w 15 15 == 0 && bits w 31 25 == 26 then
    match ElemType.ofCode (bits w 19 16) with
    | some e => .ok (.lBsig (field 5 w 20) e (field 15 w 0))
    | _ => .error .badCode
  else .error .reservedField

/-- CALL (R169). -/
def decCall (w : Nat) : Except Reject Instr :=
  if bits w 31 25 == 27 then
    .ok (.call (field 25 w 0))
  else .error .reservedField

/-- L_JMP (R169). -/
def decLJmp (w : Nat) : Except Reject Instr :=
  if bits w 31 25 == 28 then
    .ok (.lJmp (field 25 w 0))
  else .error .reservedField

/-- RETP (R169). -/
def decRetp (w : Nat) : Except Reject Instr :=
  if bits w 31 0 == 973078528 then
    .ok (.retp)
  else .error .reservedField

/-- GATH (R173). -/
def decGath (w : Nat) : Except Reject Instr :=
  if bits w 3 0 == 0 && bits w 31 25 == 32 then
    match ElemType.ofCode (bits w 7 4) with
    | some e => .ok (.gath (field 4 w 21) (field 3 w 18) (field 3 w 15) (field 3 w 12) (flag w 11) (field 3 w 8) e)
    | _ => .error .badCode
  else .error .reservedField

/-- SCAT (R174). -/
def decScat (w : Nat) : Except Reject Instr :=
  if bits w 3 0 == 0 && bits w 31 25 == 33 then
    match ElemType.ofCode (bits w 7 4) with
    | some e => .ok (.scat (field 4 w 21) (field 3 w 18) (field 3 w 15) (field 3 w 12) (flag w 11) (field 3 w 8) e)
    | _ => .error .badCode
  else .error .reservedField

/-- SCATW (R174). -/
def decScatw (w : Nat) : Except Reject Instr :=
  if bits w 3 0 == 0 && bits w 31 25 == 34 then
    match ElemType.ofCode (bits w 7 4) with
    | some e => .ok (.scatw (field 4 w 21) (field 3 w 18) (field 3 w 15) (field 3 w 12) (flag w 11) (field 3 w 8) e)
    | _ => .error .badCode
  else .error .reservedField

/-- DEDUP (R175). -/
def decDedup (w : Nat) : Except Reject Instr :=
  if bits w 7 0 == 0 && bits w 11 9 == 0 && bits w 31 21 == 560 then
    .ok (.dedup (field 3 w 18) (field 3 w 15) (field 3 w 12) (flag w 8))
  else .error .reservedField

/-- BUCKET (R176). -/
def decBucket (w : Nat) : Except Reject Instr :=
  if bits w 11 0 == 0 && bits w 31 21 == 576 then
    .ok (.bucket (field 3 w 18) (field 3 w 15) (field 3 w 12))
  else .error .reservedField

/-- UCINC (R177). -/
def decUcinc (w : Nat) : Except Reject Instr :=
  if bits w 14 0 == 0 && bits w 31 25 == 37 then
    .ok (.ucinc (field 4 w 21) (field 3 w 18) (field 3 w 15))
  else .error .reservedField

/-- ROWADD (R178). -/
def decRowadd (w : Nat) : Except Reject Instr :=
  if bits w 3 0 == 0 && bits w 30 25 == 38 then
    match Rm.ofCode (bits w 10 8), ElemType.ofCode (bits w 7 4) with
    | some r, some e => .ok (.rowadd (flag w 31) (field 4 w 21) (field 3 w 18) (field 3 w 15) (field 3 w 12) (flag w 11) r e)
    | _, _ => .error .badCode
  else .error .reservedField

/-- ROWSCL (R178). -/
def decRowscl (w : Nat) : Except Reject Instr :=
  if bits w 3 0 == 0 && bits w 11 11 == 0 && bits w 30 25 == 39 then
    match Rm.ofCode (bits w 10 8), ElemType.ofCode (bits w 7 4) with
    | some r, some e => .ok (.rowscl (flag w 31) (field 4 w 21) (field 3 w 18) (field 3 w 15) (field 3 w 12) r e)
    | _, _ => .error .badCode
  else .error .reservedField

/-- ROWCVT (R178). -/
def decRowcvt (w : Nat) : Except Reject Instr :=
  if bits w 3 0 == 0 && bits w 11 11 == 0 && bits w 30 25 == 40 then
    match Rm.ofCode (bits w 10 8), ElemType.ofCode (bits w 7 4) with
    | some r, some e => .ok (.rowcvt (flag w 31) (field 4 w 21) (field 3 w 18) (field 3 w 15) (field 3 w 12) r e)
    | _, _ => .error .badCode
  else .error .reservedField

/-- ROWDOT (R179). -/
def decRowdot (w : Nat) : Except Reject Instr :=
  if bits w 3 0 == 0 && bits w 11 11 == 0 && bits w 30 25 == 41 then
    match Rm.ofCode (bits w 10 8), ElemType.ofCode (bits w 7 4) with
    | some r, some e => .ok (.rowdot (flag w 31) (field 4 w 21) (field 3 w 18) (field 3 w 15) (field 3 w 12) r e)
    | _, _ => .error .badCode
  else .error .reservedField

/-- L_AMO (R200). -/
def decLAmo (w : Nat) : Except Reject Instr :=
  if bits w 9 0 == 0 && bits w 31 25 == 42 then
    match Aop.ofCode (bits w 24 21), Scope.ofCode (bits w 20 19), ElemType.ofCode (bits w 18 15) with
    | some o, some s, some e => .ok (.lAmo o s e (field 3 w 12) (flag w 11) (flag w 10))
    | _, _, _ => .error .badCode
  else .error .reservedField

/-- AMOV (R201). -/
def decAmov (w : Nat) : Except Reject Instr :=
  if bits w 9 0 == 0 && bits w 31 25 == 43 then
    match Aop.ofCode (bits w 24 21), Scope.ofCode (bits w 20 19), ElemType.ofCode (bits w 18 15) with
    | some o, some s, some e => .ok (.amov o s e (field 3 w 12) (flag w 11) (flag w 10))
    | _, _, _ => .error .badCode
  else .error .reservedField

/-- L_FENCE (R202). -/
def decLFence (w : Nat) : Except Reject Instr :=
  if bits w 19 0 == 0 && bits w 31 25 == 44 then
    match FenceKind.ofCode (bits w 24 22), Scope.ofCode (bits w 21 20) with
    | some f, some s => .ok (.lFence f s)
    | _, _ => .error .badCode
  else .error .reservedField

/-- L_BAR (R203). -/
def decLBar (w : Nat) : Except Reject Instr :=
  if bits w 15 0 == 0 && bits w 21 20 == 0 && bits w 31 25 == 45 then
    match BarOp.ofCode (bits w 24 22) with
    | some f => .ok (.lBar f (field 4 w 16))
    | _ => .error .badCode
  else .error .reservedField

/-- L_MARK (R204). -/
def decLMark (w : Nat) : Except Reject Instr :=
  if bits w 7 0 == 0 && bits w 31 16 == 23552 then
    .ok (.lMark (field 8 w 8))
  else .error .reservedField

/-- TEPOCH (R205). -/
def decTepoch (w : Nat) : Except Reject Instr :=
  if bits w 15 0 == 0 && bits w 31 20 == 1504 then
    .ok (.tepoch (field 4 w 16))
  else .error .reservedField

/-- SEND (R181). -/
def decSend (w : Nat) : Except Reject Instr :=
  if bits w 1 0 == 0 && bits w 7 3 == 0 && bits w 31 25 == 48 then
    .ok (.send (field 6 w 19) (field 3 w 16) (field 3 w 13) (field 5 w 8) (flag w 2))
  else .error .reservedField

/-- SENDA (R181). -/
def decSenda (w : Nat) : Except Reject Instr :=
  if bits w 1 0 == 0 && bits w 12 3 == 0 && bits w 31 25 == 49 then
    .ok (.senda (field 6 w 19) (field 3 w 16) (field 3 w 13) (flag w 2))
  else .error .reservedField

/-- REPLY (R184). -/
def decReply (w : Nat) : Except Reject Instr :=
  if bits w 1 0 == 0 && bits w 7 3 == 1 && bits w 31 16 == 25600 then
    .ok (.reply (field 3 w 13) (field 5 w 8) (flag w 2))
  else .error .reservedField

/-- PUT (R185). -/
def decPut (w : Nat) : Except Reject Instr :=
  if bits w 1 0 == 0 && bits w 3 3 == 0 && bits w 31 23 == 204 then
    .ok (.put (flag w 22) (field 3 w 19) (field 3 w 16) (field 3 w 13) (field 5 w 8) (field 4 w 4) (flag w 2))
  else .error .reservedField

/-- HEND (R187). -/
def decHend (w : Nat) : Except Reject Instr :=
  if bits w 31 0 == 1744830464 then
    .ok (.hend)
  else .error .reservedField

/-- COMMIT (R187). -/
def decCommit (w : Nat) : Except Reject Instr :=
  if bits w 31 0 == 1778384896 then
    .ok (.commit)
  else .error .reservedField

/-- HCTL_MASK (R188). -/
def decHctlMask (w : Nat) : Except Reject Instr :=
  if bits w 31 6 == 28311552 then
    .ok (.hctlMask (field 6 w 0))
  else .error .reservedField

/-- HCTL_UNMASK (R188). -/
def decHctlUnmask (w : Nat) : Except Reject Instr :=
  if bits w 31 6 == 28327936 then
    .ok (.hctlUnmask (field 6 w 0))
  else .error .reservedField

/-- HCTL_PRIO (R188). -/
def decHctlPrio (w : Nat) : Except Reject Instr :=
  if bits w 31 9 == 3543040 then
    .ok (.hctlPrio (field 3 w 6) (field 6 w 0))
  else .error .reservedField

/-- HCTL_BIND (R188). -/
def decHctlBind (w : Nat) : Except Reject Instr :=
  if bits w 31 9 == 3545088 then
    .ok (.hctlBind (field 3 w 6) (field 6 w 0))
  else .error .reservedField

/-- WAITC (R189). -/
def decWaitc (w : Nat) : Except Reject Instr :=
  if bits w 31 23 == 220 then
    .ok (.waitc (field 3 w 20) (field 20 w 0))
  else .error .reservedField

/-- L_WAITP (R190). -/
def decLWaitp (w : Nat) : Except Reject Instr :=
  if bits w 18 0 == 0 && bits w 31 22 == 448 then
    .ok (.lWaitp (field 3 w 19))
  else .error .reservedField

/-- WAITT (R191). -/
def decWaitt (w : Nat) : Except Reject Instr :=
  if bits w 31 3 == 239075328 then
    .ok (.waitt (field 3 w 0))
  else .error .reservedField

/-- COPY (R192). -/
def decCopy (w : Nat) : Except Reject Instr :=
  if bits w 3 0 == 0 && bits w 7 6 == 0 && bits w 14 12 == 0 && bits w 31 21 == 928 then
    match Scope.ofCode (bits w 5 4) with
    | some c => .ok (.copy (field 3 w 18) (field 3 w 15) (flag w 11) (flag w 10) (flag w 9) (flag w 8) c)
    | _ => .error .badCode
  else .error .reservedField

/-- SPAWN (R194). -/
def decSpawn (w : Nat) : Except Reject Instr :=
  if bits w 31 25 == 59 then
    .ok (.spawn (field 3 w 22) (field 22 w 0))
  else .error .reservedField

/-- JOIN (R196). -/
def decJoin (w : Nat) : Except Reject Instr :=
  if bits w 31 25 == 60 then
    .ok (.join (field 3 w 22) (field 22 w 0))
  else .error .reservedField

/-- TEND (R195). -/
def decTend (w : Nat) : Except Reject Instr :=
  if bits w 31 0 == 2046820352 then
    .ok (.tend)
  else .error .reservedField

/-- WLIST_PUSH (R197). -/
def decWlistPush (w : Nat) : Except Reject Instr :=
  if bits w 17 0 == 0 && bits w 31 21 == 992 then
    .ok (.wlistPush (field 3 w 18))
  else .error .reservedField

/-- WLIST_POP (R197). -/
def decWlistPop (w : Nat) : Except Reject Instr :=
  if bits w 17 0 == 256 && bits w 31 21 == 992 then
    .ok (.wlistPop (field 3 w 18))
  else .error .reservedField

/-- L_SYS_TRAP (R206). -/
def decLSysTrap (w : Nat) : Except Reject Instr :=
  if bits w 31 20 == 2016 then
    .ok (.lSysTrap (field 20 w 0))
  else .error .reservedField

/-- L_SYS_TRET (R206). -/
def decLSysTret (w : Nat) : Except Reject Instr :=
  if bits w 31 0 == 2114977792 then
    .ok (.lSysTret)
  else .error .reservedField

/-- L_SYS_CRR (R206). -/
def decLSysCrr (w : Nat) : Except Reject Instr :=
  if bits w 31 13 == 258304 then
    .ok (.lSysCrr (field 3 w 10) (field 10 w 0))
  else .error .reservedField

/-- L_SYS_CRW (R206). -/
def decLSysCrw (w : Nat) : Except Reject Instr :=
  if bits w 31 13 == 258432 then
    .ok (.lSysCrw (field 3 w 10) (field 10 w 0))
  else .error .reservedField

/-- L_SYS_TIME (R206). -/
def decLSysTime (w : Nat) : Except Reject Instr :=
  if bits w 31 4 == 132382720 then
    .ok (.lSysTime (flag w 3) (field 3 w 0))
  else .error .reservedField

/-- SYS_YIELD (R206). -/
def decSysYield (w : Nat) : Except Reject Instr :=
  if bits w 31 20 == 2021 then
    .ok (.sysYield (field 20 w 0))
  else .error .reservedField

/-- ADD (R225). -/
def decAdd (w : Nat) : Except Reject Instr :=
  if bits w 6 0 == 0 && bits w 30 25 == 1 then
    .ok (.add (flag w 31) (field 3 w 22) (field 5 w 17) (field 5 w 12) (field 5 w 7))
  else .error .reservedField

/-- SUB (R225). -/
def decSub (w : Nat) : Except Reject Instr :=
  if bits w 6 0 == 1 && bits w 30 25 == 1 then
    .ok (.sub (flag w 31) (field 3 w 22) (field 5 w 17) (field 5 w 12) (field 5 w 7))
  else .error .reservedField

/-- AND (R225). -/
def decAnd (w : Nat) : Except Reject Instr :=
  if bits w 6 0 == 2 && bits w 30 25 == 1 then
    .ok (.and (flag w 31) (field 3 w 22) (field 5 w 17) (field 5 w 12) (field 5 w 7))
  else .error .reservedField

/-- OR (R225). -/
def decOr (w : Nat) : Except Reject Instr :=
  if bits w 6 0 == 3 && bits w 30 25 == 1 then
    .ok (.or (flag w 31) (field 3 w 22) (field 5 w 17) (field 5 w 12) (field 5 w 7))
  else .error .reservedField

/-- XOR (R225). -/
def decXor (w : Nat) : Except Reject Instr :=
  if bits w 6 0 == 4 && bits w 30 25 == 1 then
    .ok (.xor (flag w 31) (field 3 w 22) (field 5 w 17) (field 5 w 12) (field 5 w 7))
  else .error .reservedField

/-- SHL (R225). -/
def decShl (w : Nat) : Except Reject Instr :=
  if bits w 6 0 == 5 && bits w 30 25 == 1 then
    .ok (.shl (flag w 31) (field 3 w 22) (field 5 w 17) (field 5 w 12) (field 5 w 7))
  else .error .reservedField

/-- SHR (R225). -/
def decShr (w : Nat) : Except Reject Instr :=
  if bits w 6 0 == 6 && bits w 30 25 == 1 then
    .ok (.shr (flag w 31) (field 3 w 22) (field 5 w 17) (field 5 w 12) (field 5 w 7))
  else .error .reservedField

/-- SRA (R225). -/
def decSra (w : Nat) : Except Reject Instr :=
  if bits w 6 0 == 7 && bits w 30 25 == 1 then
    .ok (.sra (flag w 31) (field 3 w 22) (field 5 w 17) (field 5 w 12) (field 5 w 7))
  else .error .reservedField

/-- MUL (R225). -/
def decMul (w : Nat) : Except Reject Instr :=
  if bits w 6 0 == 8 && bits w 30 25 == 1 then
    .ok (.mul (flag w 31) (field 3 w 22) (field 5 w 17) (field 5 w 12) (field 5 w 7))
  else .error .reservedField

/-- MULH (R225). -/
def decMulh (w : Nat) : Except Reject Instr :=
  if bits w 6 0 == 9 && bits w 30 25 == 1 then
    .ok (.mulh (flag w 31) (field 3 w 22) (field 5 w 17) (field 5 w 12) (field 5 w 7))
  else .error .reservedField

/-- DIV (R225). -/
def decDiv (w : Nat) : Except Reject Instr :=
  if bits w 6 0 == 10 && bits w 30 25 == 1 then
    .ok (.div (flag w 31) (field 3 w 22) (field 5 w 17) (field 5 w 12) (field 5 w 7))
  else .error .reservedField

/-- REM (R225). -/
def decRem (w : Nat) : Except Reject Instr :=
  if bits w 6 0 == 11 && bits w 30 25 == 1 then
    .ok (.rem (flag w 31) (field 3 w 22) (field 5 w 17) (field 5 w 12) (field 5 w 7))
  else .error .reservedField

/-- SLT (R225). -/
def decSlt (w : Nat) : Except Reject Instr :=
  if bits w 6 0 == 12 && bits w 30 25 == 1 then
    .ok (.slt (flag w 31) (field 3 w 22) (field 5 w 17) (field 5 w 12) (field 5 w 7))
  else .error .reservedField

/-- SLTU (R225). -/
def decSltu (w : Nat) : Except Reject Instr :=
  if bits w 6 0 == 13 && bits w 30 25 == 1 then
    .ok (.sltu (flag w 31) (field 3 w 22) (field 5 w 17) (field 5 w 12) (field 5 w 7))
  else .error .reservedField

/-- MIN (R225). -/
def decMin (w : Nat) : Except Reject Instr :=
  if bits w 6 0 == 14 && bits w 30 25 == 1 then
    .ok (.min (flag w 31) (field 3 w 22) (field 5 w 17) (field 5 w 12) (field 5 w 7))
  else .error .reservedField

/-- MAX (R225). -/
def decMax (w : Nat) : Except Reject Instr :=
  if bits w 6 0 == 15 && bits w 30 25 == 1 then
    .ok (.max (flag w 31) (field 3 w 22) (field 5 w 17) (field 5 w 12) (field 5 w 7))
  else .error .reservedField

/-- ADDI (R226). -/
def decAddi (w : Nat) : Except Reject Instr :=
  if bits w 30 25 == 2 then
    .ok (.addi (flag w 31) (field 3 w 22) (field 5 w 17) (field 5 w 12) (field 12 w 0))
  else .error .reservedField

/-- ANDI (R226). -/
def decAndi (w : Nat) : Except Reject Instr :=
  if bits w 30 25 == 3 then
    .ok (.andi (flag w 31) (field 3 w 22) (field 5 w 17) (field 5 w 12) (field 12 w 0))
  else .error .reservedField

/-- ORI (R226). -/
def decOri (w : Nat) : Except Reject Instr :=
  if bits w 30 25 == 4 then
    .ok (.ori (flag w 31) (field 3 w 22) (field 5 w 17) (field 5 w 12) (field 12 w 0))
  else .error .reservedField

/-- XORI (R226). -/
def decXori (w : Nat) : Except Reject Instr :=
  if bits w 30 25 == 5 then
    .ok (.xori (flag w 31) (field 3 w 22) (field 5 w 17) (field 5 w 12) (field 12 w 0))
  else .error .reservedField

/-- SHLI (R226). -/
def decShli (w : Nat) : Except Reject Instr :=
  if bits w 11 6 == 0 && bits w 30 25 == 6 then
    .ok (.shli (flag w 31) (field 3 w 22) (field 5 w 17) (field 5 w 12) (field 6 w 0))
  else .error .reservedField

/-- SHRI (R226). -/
def decShri (w : Nat) : Except Reject Instr :=
  if bits w 11 6 == 0 && bits w 30 25 == 7 then
    .ok (.shri (flag w 31) (field 3 w 22) (field 5 w 17) (field 5 w 12) (field 6 w 0))
  else .error .reservedField

/-- SRAI (R226). -/
def decSrai (w : Nat) : Except Reject Instr :=
  if bits w 11 6 == 0 && bits w 30 25 == 8 then
    .ok (.srai (flag w 31) (field 3 w 22) (field 5 w 17) (field 5 w 12) (field 6 w 0))
  else .error .reservedField

/-- SLTI (R226). -/
def decSlti (w : Nat) : Except Reject Instr :=
  if bits w 30 25 == 9 then
    .ok (.slti (flag w 31) (field 3 w 22) (field 5 w 17) (field 5 w 12) (field 12 w 0))
  else .error .reservedField

/-- LUI (R227). -/
def decLui (w : Nat) : Except Reject Instr :=
  if bits w 30 25 == 10 then
    .ok (.lui (flag w 31) (field 3 w 22) (field 5 w 17) (field 17 w 0))
  else .error .reservedField

/-- LDC (R227). -/
def decLdc (w : Nat) : Except Reject Instr :=
  if bits w 30 25 == 11 then
    .ok (.ldc (flag w 31) (field 3 w 22) (field 5 w 17) (field 17 w 0))
  else .error .reservedField

/-- FADD (R228). -/
def decFadd (w : Nat) : Except Reject Instr :=
  if bits w 6 3 == 0 && bits w 30 25 == 16 then
    match Rm.ofCode (bits w 2 0) with
    | some r => .ok (.fadd (flag w 31) (field 3 w 22) (field 5 w 17) (field 5 w 12) (field 5 w 7) r)
    | _ => .error .badCode
  else .error .reservedField

/-- FSUB (R228). -/
def decFsub (w : Nat) : Except Reject Instr :=
  if bits w 6 3 == 1 && bits w 30 25 == 16 then
    match Rm.ofCode (bits w 2 0) with
    | some r => .ok (.fsub (flag w 31) (field 3 w 22) (field 5 w 17) (field 5 w 12) (field 5 w 7) r)
    | _ => .error .badCode
  else .error .reservedField

/-- FMUL (R228). -/
def decFmul (w : Nat) : Except Reject Instr :=
  if bits w 6 3 == 2 && bits w 30 25 == 16 then
    match Rm.ofCode (bits w 2 0) with
    | some r => .ok (.fmul (flag w 31) (field 3 w 22) (field 5 w 17) (field 5 w 12) (field 5 w 7) r)
    | _ => .error .badCode
  else .error .reservedField

/-- FDIV (R228). -/
def decFdiv (w : Nat) : Except Reject Instr :=
  if bits w 6 3 == 3 && bits w 30 25 == 16 then
    match Rm.ofCode (bits w 2 0) with
    | some r => .ok (.fdiv (flag w 31) (field 3 w 22) (field 5 w 17) (field 5 w 12) (field 5 w 7) r)
    | _ => .error .badCode
  else .error .reservedField

/-- FSQRT (R228). -/
def decFsqrt (w : Nat) : Except Reject Instr :=
  if bits w 11 3 == 4 && bits w 30 25 == 16 then
    match Rm.ofCode (bits w 2 0) with
    | some r => .ok (.fsqrt (flag w 31) (field 3 w 22) (field 5 w 17) (field 5 w 12) r)
    | _ => .error .badCode
  else .error .reservedField

/-- FMIN (R228). -/
def decFmin (w : Nat) : Except Reject Instr :=
  if bits w 6 0 == 40 && bits w 30 25 == 16 then
    .ok (.fmin (flag w 31) (field 3 w 22) (field 5 w 17) (field 5 w 12) (field 5 w 7))
  else .error .reservedField

/-- FMAX (R228). -/
def decFmax (w : Nat) : Except Reject Instr :=
  if bits w 6 0 == 48 && bits w 30 25 == 16 then
    .ok (.fmax (flag w 31) (field 3 w 22) (field 5 w 17) (field 5 w 12) (field 5 w 7))
  else .error .reservedField

/-- FABS (R228). -/
def decFabs (w : Nat) : Except Reject Instr :=
  if bits w 11 0 == 56 && bits w 30 25 == 16 then
    .ok (.fabs (flag w 31) (field 3 w 22) (field 5 w 17) (field 5 w 12))
  else .error .reservedField

/-- FNEG (R228). -/
def decFneg (w : Nat) : Except Reject Instr :=
  if bits w 11 0 == 64 && bits w 30 25 == 16 then
    .ok (.fneg (flag w 31) (field 3 w 22) (field 5 w 17) (field 5 w 12))
  else .error .reservedField

/-- FCVTIF (R228). -/
def decFcvtif (w : Nat) : Except Reject Instr :=
  if bits w 11 3 == 9 && bits w 30 25 == 16 then
    match Rm.ofCode (bits w 2 0) with
    | some r => .ok (.fcvtif (flag w 31) (field 3 w 22) (field 5 w 17) (field 5 w 12) r)
    | _ => .error .badCode
  else .error .reservedField

/-- FCVTFI (R228). -/
def decFcvtfi (w : Nat) : Except Reject Instr :=
  if bits w 11 3 == 10 && bits w 30 25 == 16 then
    match Rm.ofCode (bits w 2 0) with
    | some r => .ok (.fcvtfi (flag w 31) (field 3 w 22) (field 5 w 17) (field 5 w 12) r)
    | _ => .error .badCode
  else .error .reservedField

/-- FCVTN (R228). -/
def decFcvtn (w : Nat) : Except Reject Instr :=
  if bits w 6 3 == 11 && bits w 11 11 == 0 && bits w 30 25 == 16 then
    match ElemType.ofCode (bits w 10 7), Rm.ofCode (bits w 2 0) with
    | some e, some r => .ok (.fcvtn (flag w 31) (field 3 w 22) (field 5 w 17) (field 5 w 12) e r)
    | _, _ => .error .badCode
  else .error .reservedField

/-- FCVTW (R228). -/
def decFcvtw (w : Nat) : Except Reject Instr :=
  if bits w 6 0 == 96 && bits w 11 11 == 0 && bits w 30 25 == 16 then
    match ElemType.ofCode (bits w 10 7) with
    | some e => .ok (.fcvtw (flag w 31) (field 3 w 22) (field 5 w 17) (field 5 w 12) e)
    | _ => .error .badCode
  else .error .reservedField

/-- FCMP (R228). -/
def decFcmp (w : Nat) : Except Reject Instr :=
  if bits w 6 0 == 104 && bits w 30 25 == 16 then
    .ok (.fcmp (flag w 31) (field 3 w 22) (field 5 w 17) (field 5 w 12) (field 5 w 7))
  else .error .reservedField

/-- FSIGR (R228). -/
def decFsigr (w : Nat) : Except Reject Instr :=
  if bits w 11 0 == 112 && bits w 30 25 == 16 then
    .ok (.fsigr (flag w 31) (field 3 w 22) (field 5 w 17) (field 5 w 12))
  else .error .reservedField

/-- FSIGW (R228). -/
def decFsigw (w : Nat) : Except Reject Instr :=
  if bits w 6 0 == 120 && bits w 30 25 == 16 then
    .ok (.fsigw (flag w 31) (field 3 w 22) (field 5 w 17) (field 5 w 12) (field 5 w 7))
  else .error .reservedField

/-- FMA (R229). -/
def decFma (w : Nat) : Except Reject Instr :=
  if bits w 30 25 == 17 then
    match Rm.ofCode (bits w 1 0) with
    | some r => .ok (.fma (flag w 31) (field 3 w 22) (field 5 w 17) (field 5 w 12) (field 5 w 7) (field 5 w 2) r)
    | _ => .error .badCode
  else .error .reservedField

/-- FMS (R229). -/
def decFms (w : Nat) : Except Reject Instr :=
  if bits w 30 25 == 18 then
    match Rm.ofCode (bits w 1 0) with
    | some r => .ok (.fms (flag w 31) (field 3 w 22) (field 5 w 17) (field 5 w 12) (field 5 w 7) (field 5 w 2) r)
    | _ => .error .badCode
  else .error .reservedField

/-- LDB (R230). -/
def decLdb (w : Nat) : Except Reject Instr :=
  if bits w 30 25 == 24 then
    .ok (.ldb (flag w 31) (field 3 w 22) (field 5 w 17) (field 5 w 12) (field 12 w 0))
  else .error .reservedField

/-- LDH (R230). -/
def decLdh (w : Nat) : Except Reject Instr :=
  if bits w 30 25 == 25 then
    .ok (.ldh (flag w 31) (field 3 w 22) (field 5 w 17) (field 5 w 12) (field 12 w 0))
  else .error .reservedField

/-- LDW (R230). -/
def decLdw (w : Nat) : Except Reject Instr :=
  if bits w 30 25 == 26 then
    .ok (.ldw (flag w 31) (field 3 w 22) (field 5 w 17) (field 5 w 12) (field 12 w 0))
  else .error .reservedField

/-- LDD (R230). -/
def decLdd (w : Nat) : Except Reject Instr :=
  if bits w 30 25 == 27 then
    .ok (.ldd (flag w 31) (field 3 w 22) (field 5 w 17) (field 5 w 12) (field 12 w 0))
  else .error .reservedField

/-- LDWT (R230). -/
def decLdwt (w : Nat) : Except Reject Instr :=
  if bits w 30 25 == 28 then
    .ok (.ldwt (flag w 31) (field 3 w 22) (field 5 w 17) (field 5 w 12) (field 12 w 0))
  else .error .reservedField

/-- STB (R230). -/
def decStb (w : Nat) : Except Reject Instr :=
  if bits w 31 25 == 32 then
    .ok (.stb (field 3 w 22) (field 5 w 17) (field 5 w 12) (field 12 w 0))
  else .error .reservedField

/-- STH (R230). -/
def decSth (w : Nat) : Except Reject Instr :=
  if bits w 31 25 == 33 then
    .ok (.sth (field 3 w 22) (field 5 w 17) (field 5 w 12) (field 12 w 0))
  else .error .reservedField

/-- STW (R230). -/
def decStw (w : Nat) : Except Reject Instr :=
  if bits w 31 25 == 34 then
    .ok (.stw (field 3 w 22) (field 5 w 17) (field 5 w 12) (field 12 w 0))
  else .error .reservedField

/-- STD (R230). -/
def decStd (w : Nat) : Except Reject Instr :=
  if bits w 31 25 == 35 then
    .ok (.std (field 3 w 22) (field 5 w 17) (field 5 w 12) (field 12 w 0))
  else .error .reservedField

/-- STWT (R230). -/
def decStwt (w : Nat) : Except Reject Instr :=
  if bits w 31 25 == 36 then
    .ok (.stwt (field 3 w 22) (field 5 w 17) (field 5 w 12) (field 12 w 0))
  else .error .reservedField

/-- S_AMO (R231). -/
def decSAmo (w : Nat) : Except Reject Instr :=
  if bits w 31 25 == 38 then
    match Aop.ofCode (bits w 6 3), Scope.ofCode (bits w 2 1) with
    | some o, some s => .ok (.sAmo (field 3 w 22) (field 5 w 17) (field 5 w 12) (field 5 w 7) o s (flag w 0))
    | _, _ => .error .badCode
  else .error .reservedField

/-- BEQ (R232). -/
def decBeq (w : Nat) : Except Reject Instr :=
  if bits w 31 25 == 40 then
    .ok (.beq (field 3 w 22) (field 5 w 17) (field 5 w 12) (field 12 w 0))
  else .error .reservedField

/-- BNE (R232). -/
def decBne (w : Nat) : Except Reject Instr :=
  if bits w 31 25 == 41 then
    .ok (.bne (field 3 w 22) (field 5 w 17) (field 5 w 12) (field 12 w 0))
  else .error .reservedField

/-- BLT (R232). -/
def decBlt (w : Nat) : Except Reject Instr :=
  if bits w 31 25 == 42 then
    .ok (.blt (field 3 w 22) (field 5 w 17) (field 5 w 12) (field 12 w 0))
  else .error .reservedField

/-- BGE (R232). -/
def decBge (w : Nat) : Except Reject Instr :=
  if bits w 31 25 == 43 then
    .ok (.bge (field 3 w 22) (field 5 w 17) (field 5 w 12) (field 12 w 0))
  else .error .reservedField

/-- BLTU (R232). -/
def decBltu (w : Nat) : Except Reject Instr :=
  if bits w 31 25 == 44 then
    .ok (.bltu (field 3 w 22) (field 5 w 17) (field 5 w 12) (field 12 w 0))
  else .error .reservedField

/-- BGEU (R232). -/
def decBgeu (w : Nat) : Except Reject Instr :=
  if bits w 31 25 == 45 then
    .ok (.bgeu (field 3 w 22) (field 5 w 17) (field 5 w 12) (field 12 w 0))
  else .error .reservedField

/-- S_BSIG (R232). -/
def decSBsig (w : Nat) : Except Reject Instr :=
  if bits w 31 25 == 46 then
    .ok (.sBsig (field 3 w 22) (field 5 w 17) (field 5 w 12) (field 12 w 0))
  else .error .reservedField

/-- JAL (R232). -/
def decJal (w : Nat) : Except Reject Instr :=
  if bits w 31 25 == 47 then
    .ok (.jal (field 3 w 22) (field 5 w 17) (field 17 w 0))
  else .error .reservedField

/-- JALR (R232). -/
def decJalr (w : Nat) : Except Reject Instr :=
  if bits w 31 25 == 48 then
    .ok (.jalr (field 3 w 22) (field 5 w 17) (field 5 w 12) (field 12 w 0))
  else .error .reservedField

/-- EWR (R233). -/
def decEwr (w : Nat) : Except Reject Instr :=
  if bits w 21 17 == 0 && bits w 31 25 == 49 then
    match Eng.ofCode (bits w 11 10) with
    | some g => .ok (.ewr (field 3 w 22) (field 5 w 12) g (field 10 w 0))
    | _ => .error .badCode
  else .error .reservedField

/-- ERD (R233). -/
def decErd (w : Nat) : Except Reject Instr :=
  if bits w 16 12 == 0 && bits w 31 25 == 50 then
    match Eng.ofCode (bits w 11 10) with
    | some g => .ok (.erd (field 3 w 22) (field 5 w 17) g (field 10 w 0))
    | _ => .error .badCode
  else .error .reservedField

/-- ENGO (R233). -/
def decEngo (w : Nat) : Except Reject Instr :=
  if bits w 9 0 == 0 && bits w 21 12 == 0 && bits w 31 25 == 51 then
    match Eng.ofCode (bits w 11 10) with
    | some g => .ok (.engo (field 3 w 22) g)
    | _ => .error .badCode
  else .error .reservedField

/-- FPUSH (R234). -/
def decFpush (w : Nat) : Except Reject Instr :=
  if bits w 11 0 == 0 && bits w 21 17 == 0 && bits w 31 25 == 52 then
    .ok (.fpush (field 3 w 22) (field 5 w 12))
  else .error .reservedField

/-- SHAPE (R235). -/
def decShape (w : Nat) : Except Reject Instr :=
  if bits w 11 0 == 0 && bits w 31 25 == 53 then
    .ok (.shape (field 3 w 22) (field 5 w 17) (field 5 w 12))
  else .error .reservedField

/-- S_TSEND (R236). -/
def decSTsend (w : Nat) : Except Reject Instr :=
  if bits w 16 8 == 0 && bits w 21 20 == 0 && bits w 31 25 == 54 then
    .ok (.sTsend (field 3 w 22) (field 3 w 17) (field 8 w 0))
  else .error .reservedField

/-- S_TWAIT (R236). -/
def decSTwait (w : Nat) : Except Reject Instr :=
  if bits w 16 8 == 0 && bits w 21 20 == 0 && bits w 31 25 == 55 then
    .ok (.sTwait (field 3 w 22) (field 3 w 17) (field 8 w 0))
  else .error .reservedField

/-- S_WAITP (R236). -/
def decSWaitp (w : Nat) : Except Reject Instr :=
  if bits w 21 3 == 0 && bits w 31 25 == 56 then
    .ok (.sWaitp (field 3 w 22) (field 3 w 0))
  else .error .reservedField

/-- S_MARK (R236). -/
def decSMark (w : Nat) : Except Reject Instr :=
  if bits w 21 8 == 0 && bits w 31 25 == 57 then
    .ok (.sMark (field 3 w 22) (field 8 w 0))
  else .error .reservedField

/-- S_BAR (R236). -/
def decSBar (w : Nat) : Except Reject Instr :=
  if bits w 21 6 == 0 && bits w 31 25 == 58 then
    match BarOp.ofCode (bits w 5 4) with
    | some o => .ok (.sBar (field 3 w 22) o (field 4 w 0))
    | _ => .error .badCode
  else .error .reservedField

/-- S_FENCE (R236). -/
def decSFence (w : Nat) : Except Reject Instr :=
  if bits w 21 4 == 0 && bits w 31 25 == 59 then
    match Scope.ofCode (bits w 3 2), FenceKind.ofCode (bits w 1 0) with
    | some s, some k => .ok (.sFence (field 3 w 22) s k)
    | _, _ => .error .badCode
  else .error .reservedField

/-- S_SYS_TRAP (R237). -/
def decSSysTrap (w : Nat) : Except Reject Instr :=
  if bits w 21 0 == 0 && bits w 31 25 == 60 then
    .ok (.sSysTrap (field 3 w 22))
  else .error .reservedField

/-- S_SYS_TRET (R237). -/
def decSSysTret (w : Nat) : Except Reject Instr :=
  if bits w 21 0 == 1 && bits w 31 25 == 60 then
    .ok (.sSysTret (field 3 w 22))
  else .error .reservedField

/-- S_SYS_CRR (R237). -/
def decSSysCrr (w : Nat) : Except Reject Instr :=
  if bits w 6 0 == 2 && bits w 31 25 == 60 then
    .ok (.sSysCrr (field 3 w 22) (field 5 w 17) (field 10 w 7))
  else .error .reservedField

/-- S_SYS_CRW (R237). -/
def decSSysCrw (w : Nat) : Except Reject Instr :=
  if bits w 6 0 == 3 && bits w 31 25 == 60 then
    .ok (.sSysCrw (field 3 w 22) (field 5 w 17) (field 10 w 7))
  else .error .reservedField

/-- SYS_TLBINV (R58). -/
def decSysTlbinv (w : Nat) : Except Reject Instr :=
  if bits w 6 0 == 4 && bits w 21 17 == 0 && bits w 31 25 == 60 then
    .ok (.sysTlbinv (field 3 w 22) (field 5 w 12) (field 5 w 7))
  else .error .reservedField

/-- SYS_HALT (R237). -/
def decSysHalt (w : Nat) : Except Reject Instr :=
  if bits w 21 0 == 5 && bits w 31 25 == 60 then
    .ok (.sysHalt (field 3 w 22))
  else .error .reservedField

/-- SYS_WFE (R237). -/
def decSysWfe (w : Nat) : Except Reject Instr :=
  if bits w 21 0 == 6 && bits w 31 25 == 60 then
    .ok (.sysWfe (field 3 w 22))
  else .error .reservedField

/-- S_SYS_TIME (R237). -/
def decSSysTime (w : Nat) : Except Reject Instr :=
  if bits w 16 0 == 7 && bits w 31 25 == 60 then
    .ok (.sSysTime (field 3 w 22) (field 5 w 17))
  else .error .reservedField

/-- SYS_LNPOP (R339). -/
def decSysLnpop (w : Nat) : Except Reject Instr :=
  if bits w 11 0 == 64 && bits w 31 25 == 60 then
    .ok (.sysLnpop (field 3 w 22) (field 5 w 17) (field 5 w 12))
  else .error .reservedField

/-- SYS_LNRET (R339). -/
def decSysLnret (w : Nat) : Except Reject Instr :=
  if bits w 11 0 == 65 && bits w 21 17 == 0 && bits w 31 25 == 60 then
    .ok (.sysLnret (field 3 w 22) (field 5 w 12))
  else .error .reservedField

/-- SYS_NSTART (R344). -/
def decSysNstart (w : Nat) : Except Reject Instr :=
  if bits w 6 0 == 66 && bits w 21 17 == 0 && bits w 31 25 == 60 then
    .ok (.sysNstart (field 3 w 22) (field 5 w 12) (field 5 w 7))
  else .error .reservedField

/-- SYS_NSTOP (R339). -/
def decSysNstop (w : Nat) : Except Reject Instr :=
  if bits w 11 0 == 67 && bits w 21 17 == 0 && bits w 31 25 == 60 then
    .ok (.sysNstop (field 3 w 22) (field 5 w 12))
  else .error .reservedField

/-- SYS_CMAPW (R383). -/
def decSysCmapw (w : Nat) : Except Reject Instr :=
  if bits w 6 0 == 68 && bits w 21 17 == 0 && bits w 31 25 == 60 then
    .ok (.sysCmapw (field 3 w 22) (field 5 w 12) (field 5 w 7))
  else .error .reservedField

/-- SYS_SMAPW (R383). -/
def decSysSmapw (w : Nat) : Except Reject Instr :=
  if bits w 6 0 == 69 && bits w 21 17 == 0 && bits w 31 25 == 60 then
    .ok (.sysSmapw (field 3 w 22) (field 5 w 12) (field 5 w 7))
  else .error .reservedField

/-- SYS_MAPFENCE (R368). -/
def decSysMapfence (w : Nat) : Except Reject Instr :=
  if bits w 21 0 == 70 && bits w 31 25 == 60 then
    .ok (.sysMapfence (field 3 w 22))
  else .error .reservedField

/-- SYS_PTBASE (R383). -/
def decSysPtbase (w : Nat) : Except Reject Instr :=
  if bits w 11 0 == 71 && bits w 21 17 == 0 && bits w 31 25 == 60 then
    .ok (.sysPtbase (field 3 w 22) (field 5 w 12))
  else .error .reservedField

/-- CPY (R84). -/
def decCpy (w : Nat) : Except Reject Instr :=
  if bits w 9 0 == 0 && bits w 31 27 == 1 then
    match Scope.ofCode (bits w 17 16) with
    | some s => .ok (.cpy (field 4 w 23) (field 3 w 20) (flag w 19) (flag w 18) s (flag w 15) (flag w 14) (flag w 13) (field 3 w 10))
    | _ => .error .badCode
  else .error .reservedField

/-- DLOAD (R85). -/
def decDload (w : Nat) : Except Reject Instr :=
  if bits w 22 16 == 0 && bits w 31 27 == 2 then
    .ok (.dload (field 4 w 23) (field 16 w 0))
  else .error .reservedField

/-- C_TSEND (R86). -/
def decCTsend (w : Nat) : Except Reject Instr :=
  if bits w 15 0 == 0 && bits w 31 27 == 3 then
    .ok (.cTsend (field 3 w 24) (field 8 w 16))
  else .error .reservedField

/-- C_TWAIT (R86). -/
def decCTwait (w : Nat) : Except Reject Instr :=
  if bits w 15 0 == 0 && bits w 31 27 == 4 then
    .ok (.cTwait (field 3 w 24) (field 8 w 16))
  else .error .reservedField

/-- C_WAITP (R87). -/
def decCWaitp (w : Nat) : Except Reject Instr :=
  if bits w 23 0 == 0 && bits w 31 27 == 5 then
    .ok (.cWaitp (field 3 w 24))
  else .error .reservedField

/-- LSET (R88). -/
def decLset (w : Nat) : Except Reject Instr :=
  if bits w 24 16 == 0 && bits w 31 27 == 6 then
    .ok (.lset (field 2 w 25) (field 16 w 0))
  else .error .reservedField

/-- LBR (R88). -/
def decLbr (w : Nat) : Except Reject Instr :=
  if bits w 24 16 == 0 && bits w 31 27 == 7 then
    .ok (.lbr (field 2 w 25) (field 16 w 0))
  else .error .reservedField

/-- C_JMP (R88). -/
def decCJmp (w : Nat) : Except Reject Instr :=
  if bits w 31 27 == 8 then
    .ok (.cJmp (field 27 w 0))
  else .error .reservedField

/-- C_MARK (R89). -/
def decCMark (w : Nat) : Except Reject Instr :=
  if bits w 18 0 == 0 && bits w 31 27 == 9 then
    .ok (.cMark (field 8 w 19))
  else .error .reservedField

/-- CFENCE (R90). -/
def decCfence (w : Nat) : Except Reject Instr :=
  if bits w 31 0 == 1342177280 then
    .ok (.cfence)
  else .error .reservedField

/-- C_HALT (R90). -/
def decCHalt (w : Nat) : Except Reject Instr :=
  if bits w 31 0 == 1476395008 then
    .ok (.cHalt)
  else .error .reservedField

/-- VADD (R240). -/
def decVadd (w : Nat) : Except Reject Instr :=
  if bits w 29 24 == 1 && bits w 31 31 == 0 then
    match Rm.ofCode (bits w 2 0) with
    | some r => .ok (.vadd (flag w 30) (field 3 w 21) (field 5 w 16) (field 5 w 11) (field 5 w 6) (field 3 w 3) r)
    | _ => .error .badCode
  else .error .reservedField

/-- VSUB (R240). -/
def decVsub (w : Nat) : Except Reject Instr :=
  if bits w 29 24 == 2 && bits w 31 31 == 0 then
    match Rm.ofCode (bits w 2 0) with
    | some r => .ok (.vsub (flag w 30) (field 3 w 21) (field 5 w 16) (field 5 w 11) (field 5 w 6) (field 3 w 3) r)
    | _ => .error .badCode
  else .error .reservedField

/-- VMUL (R240). -/
def decVmul (w : Nat) : Except Reject Instr :=
  if bits w 29 24 == 3 && bits w 31 31 == 0 then
    match Rm.ofCode (bits w 2 0) with
    | some r => .ok (.vmul (flag w 30) (field 3 w 21) (field 5 w 16) (field 5 w 11) (field 5 w 6) (field 3 w 3) r)
    | _ => .error .badCode
  else .error .reservedField

/-- VFMA (R240). -/
def decVfma (w : Nat) : Except Reject Instr :=
  if bits w 29 24 == 4 && bits w 31 31 == 0 then
    match Rm.ofCode (bits w 2 0) with
    | some r => .ok (.vfma (flag w 30) (field 3 w 21) (field 5 w 16) (field 5 w 11) (field 5 w 6) (field 3 w 3) r)
    | _ => .error .badCode
  else .error .reservedField

/-- VFMS (R240). -/
def decVfms (w : Nat) : Except Reject Instr :=
  if bits w 29 24 == 5 && bits w 31 31 == 0 then
    match Rm.ofCode (bits w 2 0) with
    | some r => .ok (.vfms (flag w 30) (field 3 w 21) (field 5 w 16) (field 5 w 11) (field 5 w 6) (field 3 w 3) r)
    | _ => .error .badCode
  else .error .reservedField

/-- VMIN (R240). -/
def decVmin (w : Nat) : Except Reject Instr :=
  if bits w 2 0 == 0 && bits w 29 24 == 6 && bits w 31 31 == 0 then
    .ok (.vmin (flag w 30) (field 3 w 21) (field 5 w 16) (field 5 w 11) (field 5 w 6) (field 3 w 3))
  else .error .reservedField

/-- VMAX (R240). -/
def decVmax (w : Nat) : Except Reject Instr :=
  if bits w 2 0 == 0 && bits w 29 24 == 7 && bits w 31 31 == 0 then
    .ok (.vmax (flag w 30) (field 3 w 21) (field 5 w 16) (field 5 w 11) (field 5 w 6) (field 3 w 3))
  else .error .reservedField

/-- VABS (R240). -/
def decVabs (w : Nat) : Except Reject Instr :=
  if bits w 2 0 == 0 && bits w 10 6 == 0 && bits w 29 24 == 8 && bits w 31 31 == 0 then
    .ok (.vabs (flag w 30) (field 3 w 21) (field 5 w 16) (field 5 w 11) (field 3 w 3))
  else .error .reservedField

/-- VNEG (R240). -/
def decVneg (w : Nat) : Except Reject Instr :=
  if bits w 2 0 == 0 && bits w 10 6 == 0 && bits w 29 24 == 9 && bits w 31 31 == 0 then
    .ok (.vneg (flag w 30) (field 3 w 21) (field 5 w 16) (field 5 w 11) (field 3 w 3))
  else .error .reservedField

/-- VRCP (R246). -/
def decVrcp (w : Nat) : Except Reject Instr :=
  if bits w 2 0 == 0 && bits w 10 6 == 0 && bits w 29 24 == 10 && bits w 31 31 == 0 then
    .ok (.vrcp (flag w 30) (field 3 w 21) (field 5 w 16) (field 5 w 11) (field 3 w 3))
  else .error .reservedField

/-- VRSQ (R247). -/
def decVrsq (w : Nat) : Except Reject Instr :=
  if bits w 2 0 == 0 && bits w 10 6 == 0 && bits w 29 24 == 11 && bits w 31 31 == 0 then
    .ok (.vrsq (flag w 30) (field 3 w 21) (field 5 w 16) (field 5 w 11) (field 3 w 3))
  else .error .reservedField

/-- VEXP2 (R248). -/
def decVexp2 (w : Nat) : Except Reject Instr :=
  if bits w 2 0 == 0 && bits w 10 6 == 0 && bits w 29 24 == 12 && bits w 31 31 == 0 then
    .ok (.vexp2 (flag w 30) (field 3 w 21) (field 5 w 16) (field 5 w 11) (field 3 w 3))
  else .error .reservedField

/-- VLOG2 (R248). -/
def decVlog2 (w : Nat) : Except Reject Instr :=
  if bits w 2 0 == 0 && bits w 10 6 == 0 && bits w 29 24 == 13 && bits w 31 31 == 0 then
    .ok (.vlog2 (flag w 30) (field 3 w 21) (field 5 w 16) (field 5 w 11) (field 3 w 3))
  else .error .reservedField

/-- VIADD (R241). -/
def decViadd (w : Nat) : Except Reject Instr :=
  if bits w 2 0 == 0 && bits w 29 24 == 16 && bits w 31 31 == 0 then
    .ok (.viadd (flag w 30) (field 3 w 21) (field 5 w 16) (field 5 w 11) (field 5 w 6) (field 3 w 3))
  else .error .reservedField

/-- VISUB (R241). -/
def decVisub (w : Nat) : Except Reject Instr :=
  if bits w 2 0 == 0 && bits w 29 24 == 17 && bits w 31 31 == 0 then
    .ok (.visub (flag w 30) (field 3 w 21) (field 5 w 16) (field 5 w 11) (field 5 w 6) (field 3 w 3))
  else .error .reservedField

/-- VIMUL (R241). -/
def decVimul (w : Nat) : Except Reject Instr :=
  if bits w 2 0 == 0 && bits w 29 24 == 18 && bits w 31 31 == 0 then
    .ok (.vimul (flag w 30) (field 3 w 21) (field 5 w 16) (field 5 w 11) (field 5 w 6) (field 3 w 3))
  else .error .reservedField

/-- VAND (R241). -/
def decVand (w : Nat) : Except Reject Instr :=
  if bits w 2 0 == 0 && bits w 29 24 == 19 && bits w 31 31 == 0 then
    .ok (.vand (flag w 30) (field 3 w 21) (field 5 w 16) (field 5 w 11) (field 5 w 6) (field 3 w 3))
  else .error .reservedField

/-- VOR (R241). -/
def decVor (w : Nat) : Except Reject Instr :=
  if bits w 2 0 == 0 && bits w 29 24 == 20 && bits w 31 31 == 0 then
    .ok (.vor (flag w 30) (field 3 w 21) (field 5 w 16) (field 5 w 11) (field 5 w 6) (field 3 w 3))
  else .error .reservedField

/-- VXOR (R241). -/
def decVxor (w : Nat) : Except Reject Instr :=
  if bits w 2 0 == 0 && bits w 29 24 == 21 && bits w 31 31 == 0 then
    .ok (.vxor (flag w 30) (field 3 w 21) (field 5 w 16) (field 5 w 11) (field 5 w 6) (field 3 w 3))
  else .error .reservedField

/-- VSHL (R241). -/
def decVshl (w : Nat) : Except Reject Instr :=
  if bits w 2 0 == 0 && bits w 29 24 == 22 && bits w 31 31 == 0 then
    .ok (.vshl (flag w 30) (field 3 w 21) (field 5 w 16) (field 5 w 11) (field 5 w 6) (field 3 w 3))
  else .error .reservedField

/-- VSHR (R241). -/
def decVshr (w : Nat) : Except Reject Instr :=
  if bits w 2 0 == 0 && bits w 29 24 == 23 && bits w 31 31 == 0 then
    .ok (.vshr (flag w 30) (field 3 w 21) (field 5 w 16) (field 5 w 11) (field 5 w 6) (field 3 w 3))
  else .error .reservedField

/-- VSRA (R241). -/
def decVsra (w : Nat) : Except Reject Instr :=
  if bits w 2 0 == 0 && bits w 29 24 == 24 && bits w 31 31 == 0 then
    .ok (.vsra (flag w 30) (field 3 w 21) (field 5 w 16) (field 5 w 11) (field 5 w 6) (field 3 w 3))
  else .error .reservedField

/-- VCMP (R242). -/
def decVcmp (w : Nat) : Except Reject Instr :=
  if bits w 20 19 == 0 && bits w 29 24 == 25 && bits w 31 31 == 0 then
    match VCond.ofCode (bits w 2 0) with
    | some c => .ok (.vcmp (flag w 30) (field 3 w 21) (field 3 w 16) (field 5 w 11) (field 5 w 6) (field 3 w 3) c)
    | _ => .error .badCode
  else .error .reservedField

/-- VSEL (R242). -/
def decVsel (w : Nat) : Except Reject Instr :=
  if bits w 2 0 == 0 && bits w 29 24 == 26 && bits w 31 31 == 0 then
    .ok (.vsel (flag w 30) (field 3 w 21) (field 5 w 16) (field 5 w 11) (field 5 w 6) (field 3 w 3))
  else .error .reservedField

/-- VCVT (R243). -/
def decVcvt (w : Nat) : Except Reject Instr :=
  if bits w 10 10 == 0 && bits w 29 24 == 27 && bits w 31 31 == 0 then
    match ElemType.ofCode (bits w 9 6), Rm.ofCode (bits w 2 0) with
    | some e, some r => .ok (.vcvt (flag w 30) (field 3 w 21) (field 5 w 16) (field 5 w 11) e (field 3 w 3) r)
    | _, _ => .error .badCode
  else .error .reservedField

/-- VEFB (R244). -/
def decVefb (w : Nat) : Except Reject Instr :=
  if bits w 29 24 == 28 && bits w 31 31 == 0 then
    match Rm.ofCode (bits w 2 0) with
    | some r => .ok (.vefb (flag w 30) (field 3 w 21) (field 5 w 16) (field 5 w 11) (field 5 w 6) (field 3 w 3) r)
    | _ => .error .badCode
  else .error .reservedField

/-- VBCAST (R251). -/
def decVbcast (w : Nat) : Except Reject Instr :=
  if bits w 11 0 == 0 && bits w 31 24 == 29 then
    .ok (.vbcast (field 3 w 21) (field 5 w 16) (field 4 w 12))
  else .error .reservedField

/-- VMOVK (R251). -/
def decVmovk (w : Nat) : Except Reject Instr :=
  if bits w 15 11 == 0 && bits w 20 20 == 0 && bits w 31 24 == 30 then
    .ok (.vmovk (field 3 w 21) (field 4 w 16) (field 6 w 5) (field 5 w 0))
  else .error .reservedField

/-- KADDI (R251). -/
def decKaddi (w : Nat) : Except Reject Instr :=
  if bits w 20 20 == 0 && bits w 31 24 == 31 then
    .ok (.kaddi (field 3 w 21) (field 4 w 16) (field 4 w 12) (field 12 w 0))
  else .error .reservedField

/-- VLD (R252). -/
def decVld (w : Nat) : Except Reject Instr :=
  if bits w 31 24 == 32 then
    match ElemType.ofCode (bits w 3 0) with
    | some e => .ok (.vld (field 3 w 21) (field 5 w 16) (field 4 w 12) (field 8 w 4) e)
    | _ => .error .badCode
  else .error .reservedField

/-- VST (R252). -/
def decVst (w : Nat) : Except Reject Instr :=
  if bits w 31 24 == 33 then
    match ElemType.ofCode (bits w 3 0) with
    | some e => .ok (.vst (field 3 w 21) (field 5 w 16) (field 4 w 12) (field 8 w 4) e)
    | _ => .error .badCode
  else .error .reservedField

/-- VLDG (R253). -/
def decVldg (w : Nat) : Except Reject Instr :=
  if bits w 2 0 == 0 && bits w 31 24 == 34 then
    match ElemType.ofCode (bits w 6 3) with
    | some e => .ok (.vldg (field 3 w 21) (field 5 w 16) (field 5 w 11) (field 4 w 7) e)
    | _ => .error .badCode
  else .error .reservedField

/-- VSTS (R253). -/
def decVsts (w : Nat) : Except Reject Instr :=
  if bits w 2 0 == 0 && bits w 31 24 == 35 then
    match ElemType.ofCode (bits w 6 3) with
    | some e => .ok (.vsts (field 3 w 21) (field 5 w 16) (field 5 w 11) (field 4 w 7) e)
    | _ => .error .badCode
  else .error .reservedField

/-- VSTT (R254). -/
def decVstt (w : Nat) : Except Reject Instr :=
  if bits w 31 24 == 36 then
    match ElemType.ofCode (bits w 3 0) with
    | some e => .ok (.vstt (field 3 w 21) (field 5 w 16) (field 4 w 12) (field 8 w 4) e)
    | _ => .error .badCode
  else .error .reservedField

/-- VLDT (R254). -/
def decVldt (w : Nat) : Except Reject Instr :=
  if bits w 31 24 == 37 then
    match ElemType.ofCode (bits w 3 0) with
    | some e => .ok (.vldt (field 3 w 21) (field 5 w 16) (field 4 w 12) (field 8 w 4) e)
    | _ => .error .badCode
  else .error .reservedField

/-- VRED (R249). -/
def decVred (w : Nat) : Except Reject Instr :=
  if bits w 10 6 == 0 && bits w 31 24 == 38 then
    match RedOp.ofCode (bits w 2 0) with
    | some f => .ok (.vred (field 3 w 21) (field 5 w 16) (field 5 w 11) (field 3 w 3) f)
    | _ => .error .badCode
  else .error .reservedField

/-- VPERM (R242). -/
def decVperm (w : Nat) : Except Reject Instr :=
  if bits w 2 0 == 0 && bits w 31 24 == 39 then
    .ok (.vperm (field 3 w 21) (field 5 w 16) (field 5 w 11) (field 5 w 6) (field 3 w 3))
  else .error .reservedField

/-- VSIG_READ (R250). -/
def decVsigRead (w : Nat) : Except Reject Instr :=
  if bits w 2 0 == 0 && bits w 10 6 == 0 && bits w 31 24 == 40 then
    .ok (.vsigRead (field 3 w 21) (field 5 w 16) (field 5 w 11) (field 3 w 3))
  else .error .reservedField

/-- VSIG_WRITE (R250). -/
def decVsigWrite (w : Nat) : Except Reject Instr :=
  if bits w 2 0 == 1 && bits w 31 24 == 40 then
    .ok (.vsigWrite (field 3 w 21) (field 5 w 16) (field 5 w 11) (field 5 w 6) (field 3 w 3))
  else .error .reservedField

/-- VSIG_MINTAG (R250). -/
def decVsigMintag (w : Nat) : Except Reject Instr :=
  if bits w 2 0 == 2 && bits w 10 6 == 0 && bits w 31 24 == 40 then
    .ok (.vsigMintag (field 3 w 21) (field 5 w 16) (field 5 w 11) (field 3 w 3))
  else .error .reservedField

/-- VSSIG (R250). -/
def decVssig (w : Nat) : Except Reject Instr :=
  if bits w 2 0 == 0 && bits w 31 24 == 41 then
    .ok (.vssig (field 3 w 21) (field 5 w 16) (field 5 w 11) (field 5 w 6) (field 3 w 3))
  else .error .reservedField

/-- VBR (R255). -/
def decVbr (w : Nat) : Except Reject Instr :=
  if bits w 20 20 == 0 && bits w 31 24 == 42 then
    match Cond.ofCode (bits w 15 12) with
    | some c => .ok (.vbr (field 3 w 21) (field 4 w 16) c (field 12 w 0))
    | _ => .error .badCode
  else .error .reservedField

/-- VJMP (R255). -/
def decVjmp (w : Nat) : Except Reject Instr :=
  if bits w 31 24 == 43 then
    .ok (.vjmp (field 3 w 21) (field 21 w 0))
  else .error .reservedField

/-- VLOOP (R255). -/
def decVloop (w : Nat) : Except Reject Instr :=
  if bits w 20 20 == 0 && bits w 31 24 == 44 then
    .ok (.vloop (field 3 w 21) (field 4 w 16) (field 16 w 0))
  else .error .reservedField

/-- EPOUT (R259). -/
def decEpout (w : Nat) : Except Reject Instr :=
  if bits w 5 0 == 0 && bits w 10 10 == 0 && bits w 20 16 == 0 && bits w 31 24 == 45 then
    match ElemType.ofCode (bits w 9 6) with
    | some e => .ok (.epout (field 3 w 21) (field 5 w 11) e)
    | _ => .error .badCode
  else .error .reservedField

/-- EPIRET (R260). -/
def decEpiret (w : Nat) : Except Reject Instr :=
  if bits w 20 0 == 0 && bits w 31 24 == 46 then
    .ok (.epiret (field 3 w 21))
  else .error .reservedField

/-- V_WAITP (R256). -/
def decVWaitp (w : Nat) : Except Reject Instr :=
  if bits w 20 3 == 0 && bits w 31 24 == 48 then
    .ok (.vWaitp (field 3 w 21) (field 3 w 0))
  else .error .reservedField

/-- V_TSEND (R256). -/
def decVTsend (w : Nat) : Except Reject Instr :=
  if bits w 7 3 == 0 && bits w 20 16 == 0 && bits w 31 24 == 49 then
    .ok (.vTsend (field 3 w 21) (field 8 w 8) (field 3 w 0))
  else .error .reservedField

/-- V_TWAIT (R256). -/
def decVTwait (w : Nat) : Except Reject Instr :=
  if bits w 7 3 == 0 && bits w 20 16 == 0 && bits w 31 24 == 50 then
    .ok (.vTwait (field 3 w 21) (field 8 w 8) (field 3 w 0))
  else .error .reservedField

/-- V_MARK (R256). -/
def decVMark (w : Nat) : Except Reject Instr :=
  if bits w 7 0 == 0 && bits w 20 16 == 0 && bits w 31 24 == 51 then
    .ok (.vMark (field 3 w 21) (field 8 w 8))
  else .error .reservedField

/-- VSYS_TRAP (R257). -/
def decVsysTrap (w : Nat) : Except Reject Instr :=
  if bits w 20 0 == 0 && bits w 31 24 == 52 then
    .ok (.vsysTrap (field 3 w 21))
  else .error .reservedField

/-- VSYS_TRET (R257). -/
def decVsysTret (w : Nat) : Except Reject Instr :=
  if bits w 20 0 == 1 && bits w 31 24 == 52 then
    .ok (.vsysTret (field 3 w 21))
  else .error .reservedField

/-- VSYS_CRR (R257). -/
def decVsysCrr (w : Nat) : Except Reject Instr :=
  if bits w 5 0 == 2 && bits w 20 20 == 0 && bits w 31 24 == 52 then
    .ok (.vsysCrr (field 3 w 21) (field 4 w 16) (field 10 w 6))
  else .error .reservedField

/-- VSYS_CRW (R257). -/
def decVsysCrw (w : Nat) : Except Reject Instr :=
  if bits w 5 0 == 3 && bits w 20 20 == 0 && bits w 31 24 == 52 then
    .ok (.vsysCrw (field 3 w 21) (field 4 w 16) (field 10 w 6))
  else .error .reservedField

/-- VSYS_TIME (R257). -/
def decVsysTime (w : Nat) : Except Reject Instr :=
  if bits w 15 0 == 4 && bits w 20 20 == 0 && bits w 31 24 == 52 then
    .ok (.vsysTime (field 3 w 21) (field 4 w 16))
  else .error .reservedField

/-- MNOP (R32). -/
def decMnop (w : Nat) : Except Reject Instr :=
  if bits w 21 0 == 0 && bits w 31 25 == 64 then
    .ok (.mnop (field 3 w 22))
  else .error .reservedField

/-- MMA (R285). -/
def decMma (w : Nat) : Except Reject Instr :=
  if bits w 5 0 == 0 && bits w 13 10 == 0 && bits w 31 25 == 65 then
    .ok (.mma (field 3 w 22) (field 4 w 18) (field 4 w 14) (flag w 9) (flag w 8) (flag w 7) (flag w 6))
  else .error .reservedField

/-- MMAC (R285). -/
def decMmac (w : Nat) : Except Reject Instr :=
  if bits w 5 0 == 0 && bits w 13 10 == 0 && bits w 31 25 == 66 then
    .ok (.mmac (field 3 w 22) (field 4 w 18) (field 4 w 14) (flag w 9) (flag w 8) (flag w 7) (flag w 6))
  else .error .reservedField

/-- MMAK (R288). -/
def decMmak (w : Nat) : Except Reject Instr :=
  if bits w 5 0 == 0 && bits w 7 7 == 0 && bits w 13 10 == 0 && bits w 31 25 == 67 then
    .ok (.mmak (field 3 w 22) (field 4 w 18) (field 4 w 14) (flag w 9) (flag w 8) (flag w 6))
  else .error .reservedField

/-- MZERO (R285). -/
def decMzero (w : Nat) : Except Reject Instr :=
  if bits w 8 0 == 0 && bits w 21 10 == 0 && bits w 31 25 == 68 then
    .ok (.mzero (field 3 w 22) (flag w 9))
  else .error .reservedField

/-- MDRAIN (R285). -/
def decMdrain (w : Nat) : Except Reject Instr :=
  if bits w 5 0 == 0 && bits w 8 7 == 0 && bits w 21 14 == 0 && bits w 31 25 == 69 then
    .ok (.mdrain (field 3 w 22) (field 4 w 10) (flag w 9) (flag w 6))
  else .error .reservedField

/-- MLDACC (R290). -/
def decMldacc (w : Nat) : Except Reject Instr :=
  if bits w 5 0 == 0 && bits w 8 7 == 0 && bits w 17 10 == 0 && bits w 31 25 == 70 then
    .ok (.mldacc (field 3 w 22) (field 4 w 18) (flag w 9) (flag w 6))
  else .error .reservedField

/-- MSYNC (R285). -/
def decMsync (w : Nat) : Except Reject Instr :=
  if bits w 21 0 == 0 && bits w 31 25 == 71 then
    .ok (.msync (field 3 w 22))
  else .error .reservedField

/-- The first row that fits; a misfit of the last row is its own answer. -/
def orElse (a b : Except Reject Instr) : Except Reject Instr :=
  match a with
  | .error .reservedField => b
  | r => r

/-- The L opcode map (R20). -/
def rowsL (w : Nat) : Except Reject Instr :=
  match bits w 30 25 with
  | 1 => decLda w
  | 2 => decSta w
  | 3 => decAdda w
  | 4 => decSuba w
  | 5 => decMula w
  | 6 => decMaca w
  | 7 => decMina w
  | 8 => decMaxa w
  | 9 => decLoga w
  | 10 => decShfa w
  | 11 => decCvta w
  | 12 => decHred w
  | 13 => decCmpa w
  | 14 => orElse (decSigaRead w) (orElse (decSigaWrite w) (decSigaMintag w))
  | 15 => orElse (decImmaSet w) (orElse (decImmaAddi w) (decImmaLane0 w))
  | 16 => decPset w
  | 17 => decPldc w
  | 18 => decPadd w
  | 19 => decPstr w
  | 20 => decPld w
  | 21 => decPst w
  | 22 => orElse (decPaccGet w) (orElse (decPaccPut w) (orElse (decPaccAdd w) (decPaccAddw w)))
  | 23 => orElse (decPcrdAbs w) (orElse (decPcrdMyxy w) (orElse (decPcrdGlob w) (decPcrdHome w)))
  | 24 => decBr w
  | 25 => decBpc w
  | 26 => decLBsig w
  | 27 => decCall w
  | 28 => decLJmp w
  | 29 => decRetp w
  | 32 => decGath w
  | 33 => decScat w
  | 34 => decScatw w
  | 35 => decDedup w
  | 36 => decBucket w
  | 37 => decUcinc w
  | 38 => decRowadd w
  | 39 => decRowscl w
  | 40 => decRowcvt w
  | 41 => decRowdot w
  | 42 => decLAmo w
  | 43 => decAmov w
  | 44 => decLFence w
  | 45 => decLBar w
  | 46 => decLMark w
  | 47 => decTepoch w
  | 48 => decSend w
  | 49 => decSenda w
  | 50 => decReply w
  | 51 => decPut w
  | 52 => decHend w
  | 53 => decCommit w
  | 54 => orElse (decHctlMask w) (orElse (decHctlUnmask w) (orElse (decHctlPrio w) (decHctlBind w)))
  | 55 => decWaitc w
  | 56 => decLWaitp w
  | 57 => decWaitt w
  | 58 => decCopy w
  | 59 => decSpawn w
  | 60 => decJoin w
  | 61 => decTend w
  | 62 => orElse (decWlistPush w) (decWlistPop w)
  | 63 => orElse (decLSysTrap w) (orElse (decLSysTret w) (orElse (decLSysCrr w) (orElse (decLSysCrw w) (orElse (decLSysTime w) (decSysYield w)))))
  | _ => .error .unassignedOpcode

/-- The S opcode map (R23, R24). -/
def rowsS (w : Nat) : Except Reject Instr :=
  match bits w 30 25 with
  | 1 => orElse (decAdd w) (orElse (decSub w) (orElse (decAnd w) (orElse (decOr w) (orElse (decXor w) (orElse (decShl w) (orElse (decShr w) (orElse (decSra w) (orElse (decMul w) (orElse (decMulh w) (orElse (decDiv w) (orElse (decRem w) (orElse (decSlt w) (orElse (decSltu w) (orElse (decMin w) (decMax w)))))))))))))))
  | 2 => decAddi w
  | 3 => decAndi w
  | 4 => decOri w
  | 5 => decXori w
  | 6 => decShli w
  | 7 => decShri w
  | 8 => decSrai w
  | 9 => decSlti w
  | 10 => decLui w
  | 11 => decLdc w
  | 16 => orElse (decFadd w) (orElse (decFsub w) (orElse (decFmul w) (orElse (decFdiv w) (orElse (decFsqrt w) (orElse (decFmin w) (orElse (decFmax w) (orElse (decFabs w) (orElse (decFneg w) (orElse (decFcvtif w) (orElse (decFcvtfi w) (orElse (decFcvtn w) (orElse (decFcvtw w) (orElse (decFcmp w) (orElse (decFsigr w) (decFsigw w)))))))))))))))
  | 17 => decFma w
  | 18 => decFms w
  | 24 => decLdb w
  | 25 => decLdh w
  | 26 => decLdw w
  | 27 => decLdd w
  | 28 => decLdwt w
  | 32 => decStb w
  | 33 => decSth w
  | 34 => decStw w
  | 35 => decStd w
  | 36 => decStwt w
  | 38 => decSAmo w
  | 40 => decBeq w
  | 41 => decBne w
  | 42 => decBlt w
  | 43 => decBge w
  | 44 => decBltu w
  | 45 => decBgeu w
  | 46 => decSBsig w
  | 47 => decJal w
  | 48 => decJalr w
  | 49 => decEwr w
  | 50 => decErd w
  | 51 => decEngo w
  | 52 => decFpush w
  | 53 => decShape w
  | 54 => decSTsend w
  | 55 => decSTwait w
  | 56 => decSWaitp w
  | 57 => decSMark w
  | 58 => decSBar w
  | 59 => decSFence w
  | 60 => orElse (decSSysTrap w) (orElse (decSSysTret w) (orElse (decSSysCrr w) (orElse (decSSysCrw w) (orElse (decSysTlbinv w) (orElse (decSysHalt w) (orElse (decSysWfe w) (orElse (decSSysTime w) (orElse (decSysLnpop w) (orElse (decSysLnret w) (orElse (decSysNstart w) (orElse (decSysNstop w) (orElse (decSysCmapw w) (orElse (decSysSmapw w) (orElse (decSysMapfence w) (decSysPtbase w)))))))))))))))
  | _ => .error .unassignedOpcode

/-- The C opcode map (R26). -/
def rowsC (w : Nat) : Except Reject Instr :=
  match bits w 31 27 with
  | 1 => decCpy w
  | 2 => decDload w
  | 3 => decCTsend w
  | 4 => decCTwait w
  | 5 => decCWaitp w
  | 6 => decLset w
  | 7 => decLbr w
  | 8 => decCJmp w
  | 9 => decCMark w
  | 10 => decCfence w
  | 11 => decCHalt w
  | _ => .error .unassignedOpcode

/-- The V opcode map (R29). -/
def rowsV (w : Nat) : Except Reject Instr :=
  match bits w 29 24 with
  | 1 => decVadd w
  | 2 => decVsub w
  | 3 => decVmul w
  | 4 => decVfma w
  | 5 => decVfms w
  | 6 => decVmin w
  | 7 => decVmax w
  | 8 => decVabs w
  | 9 => decVneg w
  | 10 => decVrcp w
  | 11 => decVrsq w
  | 12 => decVexp2 w
  | 13 => decVlog2 w
  | 16 => decViadd w
  | 17 => decVisub w
  | 18 => decVimul w
  | 19 => decVand w
  | 20 => decVor w
  | 21 => decVxor w
  | 22 => decVshl w
  | 23 => decVshr w
  | 24 => decVsra w
  | 25 => decVcmp w
  | 26 => decVsel w
  | 27 => decVcvt w
  | 28 => decVefb w
  | 29 => decVbcast w
  | 30 => decVmovk w
  | 31 => decKaddi w
  | 32 => decVld w
  | 33 => decVst w
  | 34 => decVldg w
  | 35 => decVsts w
  | 36 => decVstt w
  | 37 => decVldt w
  | 38 => decVred w
  | 39 => decVperm w
  | 40 => orElse (decVsigRead w) (orElse (decVsigWrite w) (decVsigMintag w))
  | 41 => decVssig w
  | 42 => decVbr w
  | 43 => decVjmp w
  | 44 => decVloop w
  | 45 => decEpout w
  | 46 => decEpiret w
  | 48 => decVWaitp w
  | 49 => decVTsend w
  | 50 => decVTwait w
  | 51 => decVMark w
  | 52 => orElse (decVsysTrap w) (orElse (decVsysTret w) (orElse (decVsysCrr w) (orElse (decVsysCrw w) (decVsysTime w))))
  | _ => .error .unassignedOpcode

/-- The M opcode map (R32). -/
def rowsM (w : Nat) : Except Reject Instr :=
  match bits w 29 25 with
  | 0 => decMnop w
  | 1 => decMma w
  | 2 => decMmac w
  | 3 => decMmak w
  | 4 => decMzero w
  | 5 => decMdrain w
  | 6 => decMldacc w
  | 7 => decMsync w
  | _ => .error .unassignedOpcode

/-- The rows of one stream (R13). -/
def rowsOf (st : Stream) (w : Nat) : Except Reject Instr :=
  match st with
  | .lookup => rowsL w
  | .scalar => rowsS w
  | .copy => rowsC w
  | .compute => if flag w 31 then rowsM w else rowsV w

/-- Decode one word of a stream (R14): NOP, all ones, opcode, fields, codes, field rules. -/
def decodeWord (st : Stream) (w : Nat) : Except Reject Instr :=
  if w = 0 then .ok .nop
  else if w = 0xFFFFFFFF then .error .allOnes
  else match rowsOf st w with
    | .ok i => if i.wellFormed then .ok i else .error .illFormed
    | .error r => .error r

/-- Decode the first word of a byte list, and give the rest: words are little-endian (R13). -/
def decodeBytes (st : Stream) (bs : List Byte) : Except Reject (Instr × List Byte) :=
  match bs with
  | b0 :: b1 :: b2 :: b3 :: rest =>
    match decodeWord st (leNat [b0, b1, b2, b3]) with
    | .ok i => .ok (i, rest)
    | .error r => .error r
  | _ => .error .unassignedOpcode

/-! ## The encoder -/

/-- A word from its fixed bits and its fields, each with its lowest bit. -/
def pack (m : Nat) (fs : List (Nat × Nat)) : Nat :=
  fs.foldl (fun w f => w + f.1 * 2 ^ f.2) m

/-- The word of an instruction, from the same encoding tables (R18 to R32); an event has none. -/
def encode : Instr → Option Nat
  | .nop => some (pack 0x0 [])
  | .lda z e a => some (pack 0x2000000 [(bitOf z, 31), (e.code, 17), (a.code, 12)])
  | .sta z e a => some (pack 0x4000000 [(bitOf z, 31), (e.code, 17), (a.code, 12)])
  | .adda z e a b r => some (pack 0x6000000 [(bitOf z, 31), (e.code, 17), (a.code, 12), (b.code, 7), (r.code, 0)])
  | .suba z e a b r => some (pack 0x8000000 [(bitOf z, 31), (e.code, 17), (a.code, 12), (b.code, 7), (r.code, 0)])
  | .mula z e a b r => some (pack 0xA000000 [(bitOf z, 31), (e.code, 17), (a.code, 12), (b.code, 7), (r.code, 0)])
  | .maca z e a b r => some (pack 0xC000000 [(bitOf z, 31), (e.code, 17), (a.code, 12), (b.code, 7), (r.code, 0)])
  | .mina z e a b => some (pack 0xE000000 [(bitOf z, 31), (e.code, 17), (a.code, 12), (b.code, 7)])
  | .maxa z e a b => some (pack 0x10000000 [(bitOf z, 31), (e.code, 17), (a.code, 12), (b.code, 7)])
  | .loga z f e a b => some (pack 0x12000000 [(bitOf z, 31), (f.code, 21), (e.code, 17), (a.code, 12), (b.code, 7)])
  | .shfa z f e a b => some (pack 0x14000000 [(bitOf z, 31), (f.code, 21), (e.code, 17), (a.code, 12), (b.code, 7)])
  | .cvta z s e a r => some (pack 0x16000000 [(bitOf z, 31), (s.code, 21), (e.code, 17), (a.code, 12), (r.code, 0)])
  | .hred z f e a r => some (pack 0x18000000 [(bitOf z, 31), (f.code, 21), (e.code, 17), (a.code, 12), (r.code, 0)])
  | .cmpa z e a b => some (pack 0x1A000000 [(bitOf z, 31), (e.code, 17), (a.code, 12), (b.code, 7)])
  | .sigaRead z e a => some (pack 0x1C000000 [(bitOf z, 31), (e.code, 17), (a.code, 12)])
  | .sigaWrite z e a b => some (pack 0x1C200000 [(bitOf z, 31), (e.code, 17), (a.code, 12), (b.code, 7)])
  | .sigaMintag z e a => some (pack 0x1C400000 [(bitOf z, 31), (e.code, 17), (a.code, 12)])
  | .immaSet z e i => some (pack 0x1E000000 [(bitOf z, 31), (e.code, 17), (i.toNat, 0)])
  | .immaAddi z e i => some (pack 0x1E200000 [(bitOf z, 31), (e.code, 17), (i.toNat, 0)])
  | .immaLane0 z e i => some (pack 0x1E400000 [(bitOf z, 31), (e.code, 17), (i.toNat, 0)])
  | .pset z d i => some (pack 0x20000000 [(bitOf z, 31), (d.toNat, 22), (i.toNat, 0)])
  | .pldc z d i => some (pack 0x22000000 [(bitOf z, 31), (d.toNat, 22), (i.toNat, 0)])
  | .padd z d s i => some (pack 0x24000000 [(bitOf z, 31), (d.toNat, 22), (s.toNat, 19), (i.toNat, 0)])
  | .pstr z d i => some (pack 0x26000000 [(bitOf z, 31), (d.toNat, 22), (i.toNat, 0)])
  | .pld z d s i => some (pack 0x28000000 [(bitOf z, 31), (d.toNat, 22), (s.toNat, 19), (i.toNat, 0)])
  | .pst z d s i => some (pack 0x2A000000 [(bitOf z, 31), (d.toNat, 22), (s.toNat, 19), (i.toNat, 0)])
  | .paccGet z d n => some (pack 0x2C000000 [(bitOf z, 31), (d.toNat, 22), (n.toNat, 0)])
  | .paccPut z d n => some (pack 0x2C020000 [(bitOf z, 31), (d.toNat, 22), (n.toNat, 0)])
  | .paccAdd z d n => some (pack 0x2C040000 [(bitOf z, 31), (d.toNat, 22), (n.toNat, 0)])
  | .paccAddw z d n => some (pack 0x2C060000 [(bitOf z, 31), (d.toNat, 22), (n.toNat, 0)])
  | .pcrdAbs z d s => some (pack 0x2E000000 [(bitOf z, 31), (d.toNat, 22), (s.toNat, 19)])
  | .pcrdMyxy z d => some (pack 0x2E020000 [(bitOf z, 31), (d.toNat, 22)])
  | .pcrdGlob z d s => some (pack 0x2E040000 [(bitOf z, 31), (d.toNat, 22), (s.toNat, 19)])
  | .pcrdHome z d s => some (pack 0x2E060000 [(bitOf z, 31), (d.toNat, 22), (s.toNat, 19)])
  | .br c o => some (pack 0x30000000 [(c.code, 21), (o.toNat, 0)])
  | .bpc c a b o => some (pack 0x32000000 [(c.code, 21), (a.toNat, 18), (b.toNat, 15), (o.toNat, 0)])
  | .lBsig h e o => some (pack 0x34000000 [(h.toNat, 20), (e.code, 16), (o.toNat, 0)])
  | .call o => some (pack 0x36000000 [(o.toNat, 0)])
  | .lJmp o => some (pack 0x38000000 [(o.toNat, 0)])
  | .retp => some (pack 0x3A000000 [])
  | .gath t a b c v k e => some (pack 0x40000000 [(t.toNat, 21), (a.toNat, 18), (b.toNat, 15), (c.toNat, 12), (bitOf v, 11), (k.toNat, 8), (e.code, 4)])
  | .scat t a b c x k e => some (pack 0x42000000 [(t.toNat, 21), (a.toNat, 18), (b.toNat, 15), (c.toNat, 12), (bitOf x, 11), (k.toNat, 8), (e.code, 4)])
  | .scatw t a b c x k e => some (pack 0x44000000 [(t.toNat, 21), (a.toNat, 18), (b.toNat, 15), (c.toNat, 12), (bitOf x, 11), (k.toNat, 8), (e.code, 4)])
  | .dedup a b c v => some (pack 0x46000000 [(a.toNat, 18), (b.toNat, 15), (c.toNat, 12), (bitOf v, 8)])
  | .bucket a b c => some (pack 0x48000000 [(a.toNat, 18), (b.toNat, 15), (c.toNat, 12)])
  | .ucinc t a b => some (pack 0x4A000000 [(t.toNat, 21), (a.toNat, 18), (b.toNat, 15)])
  | .rowadd z t a b c n r e => some (pack 0x4C000000 [(bitOf z, 31), (t.toNat, 21), (a.toNat, 18), (b.toNat, 15), (c.toNat, 12), (bitOf n, 11), (r.code, 8), (e.code, 4)])
  | .rowscl z t a b c r e => some (pack 0x4E000000 [(bitOf z, 31), (t.toNat, 21), (a.toNat, 18), (b.toNat, 15), (c.toNat, 12), (r.code, 8), (e.code, 4)])
  | .rowcvt z t a b c r e => some (pack 0x50000000 [(bitOf z, 31), (t.toNat, 21), (a.toNat, 18), (b.toNat, 15), (c.toNat, 12), (r.code, 8), (e.code, 4)])
  | .rowdot z t a b c r e => some (pack 0x52000000 [(bitOf z, 31), (t.toNat, 21), (a.toNat, 18), (b.toNat, 15), (c.toNat, 12), (r.code, 8), (e.code, 4)])
  | .lAmo o s e a q l => some (pack 0x54000000 [(o.code, 21), (s.code, 19), (e.code, 15), (a.toNat, 12), (bitOf q, 11), (bitOf l, 10)])
  | .amov o s e a q l => some (pack 0x56000000 [(o.code, 21), (s.code, 19), (e.code, 15), (a.toNat, 12), (bitOf q, 11), (bitOf l, 10)])
  | .lFence f s => some (pack 0x58000000 [(f.code, 22), (s.code, 20)])
  | .lBar f l => some (pack 0x5A000000 [(f.code, 22), (l.toNat, 16)])
  | .lMark m => some (pack 0x5C000000 [(m.toNat, 8)])
  | .tepoch t => some (pack 0x5E000000 [(t.toNat, 16)])
  | .send c a b n l => some (pack 0x60000000 [(c.toNat, 19), (a.toNat, 16), (b.toNat, 13), (n.toNat, 8), (bitOf l, 2)])
  | .senda c a b l => some (pack 0x62000000 [(c.toNat, 19), (a.toNat, 16), (b.toNat, 13), (bitOf l, 2)])
  | .reply b n l => some (pack 0x64000008 [(b.toNat, 13), (n.toNat, 8), (bitOf l, 2)])
  | .put k c a b n x l => some (pack 0x66000000 [(bitOf k, 22), (c.toNat, 19), (a.toNat, 16), (b.toNat, 13), (n.toNat, 8), (x.toNat, 4), (bitOf l, 2)])
  | .hend => some (pack 0x68000000 [])
  | .commit => some (pack 0x6A000000 [])
  | .hctlMask c => some (pack 0x6C000000 [(c.toNat, 0)])
  | .hctlUnmask c => some (pack 0x6C100000 [(c.toNat, 0)])
  | .hctlPrio p c => some (pack 0x6C200000 [(p.toNat, 6), (c.toNat, 0)])
  | .hctlBind n c => some (pack 0x6C300000 [(n.toNat, 6), (c.toNat, 0)])
  | .waitc k n => some (pack 0x6E000000 [(k.toNat, 20), (n.toNat, 0)])
  | .lWaitp s => some (pack 0x70000000 [(s.toNat, 19)])
  | .waitt n => some (pack 0x72000000 [(n.toNat, 0)])
  | .copy a k n s l q c => some (pack 0x74000000 [(a.toNat, 18), (k.toNat, 15), (bitOf n, 11), (bitOf s, 10), (bitOf l, 9), (bitOf q, 8), (c.code, 4)])
  | .spawn b o => some (pack 0x76000000 [(b.toNat, 22), (o.toNat, 0)])
  | .join b o => some (pack 0x78000000 [(b.toNat, 22), (o.toNat, 0)])
  | .tend => some (pack 0x7A000000 [])
  | .wlistPush a => some (pack 0x7C000000 [(a.toNat, 18)])
  | .wlistPop a => some (pack 0x7C000100 [(a.toNat, 18)])
  | .lSysTrap c => some (pack 0x7E000000 [(c.toNat, 0)])
  | .lSysTret => some (pack 0x7E100000 [])
  | .lSysCrr n r => some (pack 0x7E200000 [(n.toNat, 10), (r.toNat, 0)])
  | .lSysCrw n r => some (pack 0x7E300000 [(n.toNat, 10), (r.toNat, 0)])
  | .lSysTime s n => some (pack 0x7E400000 [(bitOf s, 3), (n.toNat, 0)])
  | .sysYield n => some (pack 0x7E500000 [(n.toNat, 0)])
  | .add z w d a b => some (pack 0x2000000 [(bitOf z, 31), (w.toNat, 22), (d.toNat, 17), (a.toNat, 12), (b.toNat, 7)])
  | .sub z w d a b => some (pack 0x2000001 [(bitOf z, 31), (w.toNat, 22), (d.toNat, 17), (a.toNat, 12), (b.toNat, 7)])
  | .and z w d a b => some (pack 0x2000002 [(bitOf z, 31), (w.toNat, 22), (d.toNat, 17), (a.toNat, 12), (b.toNat, 7)])
  | .or z w d a b => some (pack 0x2000003 [(bitOf z, 31), (w.toNat, 22), (d.toNat, 17), (a.toNat, 12), (b.toNat, 7)])
  | .xor z w d a b => some (pack 0x2000004 [(bitOf z, 31), (w.toNat, 22), (d.toNat, 17), (a.toNat, 12), (b.toNat, 7)])
  | .shl z w d a b => some (pack 0x2000005 [(bitOf z, 31), (w.toNat, 22), (d.toNat, 17), (a.toNat, 12), (b.toNat, 7)])
  | .shr z w d a b => some (pack 0x2000006 [(bitOf z, 31), (w.toNat, 22), (d.toNat, 17), (a.toNat, 12), (b.toNat, 7)])
  | .sra z w d a b => some (pack 0x2000007 [(bitOf z, 31), (w.toNat, 22), (d.toNat, 17), (a.toNat, 12), (b.toNat, 7)])
  | .mul z w d a b => some (pack 0x2000008 [(bitOf z, 31), (w.toNat, 22), (d.toNat, 17), (a.toNat, 12), (b.toNat, 7)])
  | .mulh z w d a b => some (pack 0x2000009 [(bitOf z, 31), (w.toNat, 22), (d.toNat, 17), (a.toNat, 12), (b.toNat, 7)])
  | .div z w d a b => some (pack 0x200000A [(bitOf z, 31), (w.toNat, 22), (d.toNat, 17), (a.toNat, 12), (b.toNat, 7)])
  | .rem z w d a b => some (pack 0x200000B [(bitOf z, 31), (w.toNat, 22), (d.toNat, 17), (a.toNat, 12), (b.toNat, 7)])
  | .slt z w d a b => some (pack 0x200000C [(bitOf z, 31), (w.toNat, 22), (d.toNat, 17), (a.toNat, 12), (b.toNat, 7)])
  | .sltu z w d a b => some (pack 0x200000D [(bitOf z, 31), (w.toNat, 22), (d.toNat, 17), (a.toNat, 12), (b.toNat, 7)])
  | .min z w d a b => some (pack 0x200000E [(bitOf z, 31), (w.toNat, 22), (d.toNat, 17), (a.toNat, 12), (b.toNat, 7)])
  | .max z w d a b => some (pack 0x200000F [(bitOf z, 31), (w.toNat, 22), (d.toNat, 17), (a.toNat, 12), (b.toNat, 7)])
  | .addi z w d a i => some (pack 0x4000000 [(bitOf z, 31), (w.toNat, 22), (d.toNat, 17), (a.toNat, 12), (i.toNat, 0)])
  | .andi z w d a i => some (pack 0x6000000 [(bitOf z, 31), (w.toNat, 22), (d.toNat, 17), (a.toNat, 12), (i.toNat, 0)])
  | .ori z w d a i => some (pack 0x8000000 [(bitOf z, 31), (w.toNat, 22), (d.toNat, 17), (a.toNat, 12), (i.toNat, 0)])
  | .xori z w d a i => some (pack 0xA000000 [(bitOf z, 31), (w.toNat, 22), (d.toNat, 17), (a.toNat, 12), (i.toNat, 0)])
  | .shli z w d a c => some (pack 0xC000000 [(bitOf z, 31), (w.toNat, 22), (d.toNat, 17), (a.toNat, 12), (c.toNat, 0)])
  | .shri z w d a c => some (pack 0xE000000 [(bitOf z, 31), (w.toNat, 22), (d.toNat, 17), (a.toNat, 12), (c.toNat, 0)])
  | .srai z w d a c => some (pack 0x10000000 [(bitOf z, 31), (w.toNat, 22), (d.toNat, 17), (a.toNat, 12), (c.toNat, 0)])
  | .slti z w d a i => some (pack 0x12000000 [(bitOf z, 31), (w.toNat, 22), (d.toNat, 17), (a.toNat, 12), (i.toNat, 0)])
  | .lui z w d i => some (pack 0x14000000 [(bitOf z, 31), (w.toNat, 22), (d.toNat, 17), (i.toNat, 0)])
  | .ldc z w d i => some (pack 0x16000000 [(bitOf z, 31), (w.toNat, 22), (d.toNat, 17), (i.toNat, 0)])
  | .fadd z w d a b r => some (pack 0x20000000 [(bitOf z, 31), (w.toNat, 22), (d.toNat, 17), (a.toNat, 12), (b.toNat, 7), (r.code, 0)])
  | .fsub z w d a b r => some (pack 0x20000008 [(bitOf z, 31), (w.toNat, 22), (d.toNat, 17), (a.toNat, 12), (b.toNat, 7), (r.code, 0)])
  | .fmul z w d a b r => some (pack 0x20000010 [(bitOf z, 31), (w.toNat, 22), (d.toNat, 17), (a.toNat, 12), (b.toNat, 7), (r.code, 0)])
  | .fdiv z w d a b r => some (pack 0x20000018 [(bitOf z, 31), (w.toNat, 22), (d.toNat, 17), (a.toNat, 12), (b.toNat, 7), (r.code, 0)])
  | .fsqrt z w d a r => some (pack 0x20000020 [(bitOf z, 31), (w.toNat, 22), (d.toNat, 17), (a.toNat, 12), (r.code, 0)])
  | .fmin z w d a b => some (pack 0x20000028 [(bitOf z, 31), (w.toNat, 22), (d.toNat, 17), (a.toNat, 12), (b.toNat, 7)])
  | .fmax z w d a b => some (pack 0x20000030 [(bitOf z, 31), (w.toNat, 22), (d.toNat, 17), (a.toNat, 12), (b.toNat, 7)])
  | .fabs z w d a => some (pack 0x20000038 [(bitOf z, 31), (w.toNat, 22), (d.toNat, 17), (a.toNat, 12)])
  | .fneg z w d a => some (pack 0x20000040 [(bitOf z, 31), (w.toNat, 22), (d.toNat, 17), (a.toNat, 12)])
  | .fcvtif z w d a r => some (pack 0x20000048 [(bitOf z, 31), (w.toNat, 22), (d.toNat, 17), (a.toNat, 12), (r.code, 0)])
  | .fcvtfi z w d a r => some (pack 0x20000050 [(bitOf z, 31), (w.toNat, 22), (d.toNat, 17), (a.toNat, 12), (r.code, 0)])
  | .fcvtn z w d a e r => some (pack 0x20000058 [(bitOf z, 31), (w.toNat, 22), (d.toNat, 17), (a.toNat, 12), (e.code, 7), (r.code, 0)])
  | .fcvtw z w d a e => some (pack 0x20000060 [(bitOf z, 31), (w.toNat, 22), (d.toNat, 17), (a.toNat, 12), (e.code, 7)])
  | .fcmp z w d a b => some (pack 0x20000068 [(bitOf z, 31), (w.toNat, 22), (d.toNat, 17), (a.toNat, 12), (b.toNat, 7)])
  | .fsigr z w d a => some (pack 0x20000070 [(bitOf z, 31), (w.toNat, 22), (d.toNat, 17), (a.toNat, 12)])
  | .fsigw z w d a b => some (pack 0x20000078 [(bitOf z, 31), (w.toNat, 22), (d.toNat, 17), (a.toNat, 12), (b.toNat, 7)])
  | .fma z w d a b c r => some (pack 0x22000000 [(bitOf z, 31), (w.toNat, 22), (d.toNat, 17), (a.toNat, 12), (b.toNat, 7), (c.toNat, 2), (r.code, 0)])
  | .fms z w d a b c r => some (pack 0x24000000 [(bitOf z, 31), (w.toNat, 22), (d.toNat, 17), (a.toNat, 12), (b.toNat, 7), (c.toNat, 2), (r.code, 0)])
  | .ldb z w d a i => some (pack 0x30000000 [(bitOf z, 31), (w.toNat, 22), (d.toNat, 17), (a.toNat, 12), (i.toNat, 0)])
  | .ldh z w d a i => some (pack 0x32000000 [(bitOf z, 31), (w.toNat, 22), (d.toNat, 17), (a.toNat, 12), (i.toNat, 0)])
  | .ldw z w d a i => some (pack 0x34000000 [(bitOf z, 31), (w.toNat, 22), (d.toNat, 17), (a.toNat, 12), (i.toNat, 0)])
  | .ldd z w d a i => some (pack 0x36000000 [(bitOf z, 31), (w.toNat, 22), (d.toNat, 17), (a.toNat, 12), (i.toNat, 0)])
  | .ldwt z w d a i => some (pack 0x38000000 [(bitOf z, 31), (w.toNat, 22), (d.toNat, 17), (a.toNat, 12), (i.toNat, 0)])
  | .stb w b a i => some (pack 0x40000000 [(w.toNat, 22), (b.toNat, 17), (a.toNat, 12), (i.toNat, 0)])
  | .sth w b a i => some (pack 0x42000000 [(w.toNat, 22), (b.toNat, 17), (a.toNat, 12), (i.toNat, 0)])
  | .stw w b a i => some (pack 0x44000000 [(w.toNat, 22), (b.toNat, 17), (a.toNat, 12), (i.toNat, 0)])
  | .std w b a i => some (pack 0x46000000 [(w.toNat, 22), (b.toNat, 17), (a.toNat, 12), (i.toNat, 0)])
  | .stwt w b a i => some (pack 0x48000000 [(w.toNat, 22), (b.toNat, 17), (a.toNat, 12), (i.toNat, 0)])
  | .sAmo w d a b o s x => some (pack 0x4C000000 [(w.toNat, 22), (d.toNat, 17), (a.toNat, 12), (b.toNat, 7), (o.code, 3), (s.code, 1), (bitOf x, 0)])
  | .beq w a b o => some (pack 0x50000000 [(w.toNat, 22), (a.toNat, 17), (b.toNat, 12), (o.toNat, 0)])
  | .bne w a b o => some (pack 0x52000000 [(w.toNat, 22), (a.toNat, 17), (b.toNat, 12), (o.toNat, 0)])
  | .blt w a b o => some (pack 0x54000000 [(w.toNat, 22), (a.toNat, 17), (b.toNat, 12), (o.toNat, 0)])
  | .bge w a b o => some (pack 0x56000000 [(w.toNat, 22), (a.toNat, 17), (b.toNat, 12), (o.toNat, 0)])
  | .bltu w a b o => some (pack 0x58000000 [(w.toNat, 22), (a.toNat, 17), (b.toNat, 12), (o.toNat, 0)])
  | .bgeu w a b o => some (pack 0x5A000000 [(w.toNat, 22), (a.toNat, 17), (b.toNat, 12), (o.toNat, 0)])
  | .sBsig w a h o => some (pack 0x5C000000 [(w.toNat, 22), (a.toNat, 17), (h.toNat, 12), (o.toNat, 0)])
  | .jal w d o => some (pack 0x5E000000 [(w.toNat, 22), (d.toNat, 17), (o.toNat, 0)])
  | .jalr w d a i => some (pack 0x60000000 [(w.toNat, 22), (d.toNat, 17), (a.toNat, 12), (i.toNat, 0)])
  | .ewr w a g r => some (pack 0x62000000 [(w.toNat, 22), (a.toNat, 12), (g.code, 10), (r.toNat, 0)])
  | .erd w d g r => some (pack 0x64000000 [(w.toNat, 22), (d.toNat, 17), (g.code, 10), (r.toNat, 0)])
  | .engo w g => some (pack 0x66000000 [(w.toNat, 22), (g.code, 10)])
  | .fpush w a => some (pack 0x68000000 [(w.toNat, 22), (a.toNat, 12)])
  | .shape w d a => some (pack 0x6A000000 [(w.toNat, 22), (d.toNat, 17), (a.toNat, 12)])
  | .sTsend w q n => some (pack 0x6C000000 [(w.toNat, 22), (q.toNat, 17), (n.toNat, 0)])
  | .sTwait w q n => some (pack 0x6E000000 [(w.toNat, 22), (q.toNat, 17), (n.toNat, 0)])
  | .sWaitp w p => some (pack 0x70000000 [(w.toNat, 22), (p.toNat, 0)])
  | .sMark w m => some (pack 0x72000000 [(w.toNat, 22), (m.toNat, 0)])
  | .sBar w o l => some (pack 0x74000000 [(w.toNat, 22), (o.code, 4), (l.toNat, 0)])
  | .sFence w s k => some (pack 0x76000000 [(w.toNat, 22), (s.code, 2), (k.code, 0)])
  | .sSysTrap w => some (pack 0x78000000 [(w.toNat, 22)])
  | .sSysTret w => some (pack 0x78000001 [(w.toNat, 22)])
  | .sSysCrr w d r => some (pack 0x78000002 [(w.toNat, 22), (d.toNat, 17), (r.toNat, 7)])
  | .sSysCrw w d r => some (pack 0x78000003 [(w.toNat, 22), (d.toNat, 17), (r.toNat, 7)])
  | .sysTlbinv w a b => some (pack 0x78000004 [(w.toNat, 22), (a.toNat, 12), (b.toNat, 7)])
  | .sysHalt w => some (pack 0x78000005 [(w.toNat, 22)])
  | .sysWfe w => some (pack 0x78000006 [(w.toNat, 22)])
  | .sSysTime w d => some (pack 0x78000007 [(w.toNat, 22), (d.toNat, 17)])
  | .sysLnpop w d a => some (pack 0x78000040 [(w.toNat, 22), (d.toNat, 17), (a.toNat, 12)])
  | .sysLnret w a => some (pack 0x78000041 [(w.toNat, 22), (a.toNat, 12)])
  | .sysNstart w a b => some (pack 0x78000042 [(w.toNat, 22), (a.toNat, 12), (b.toNat, 7)])
  | .sysNstop w a => some (pack 0x78000043 [(w.toNat, 22), (a.toNat, 12)])
  | .sysCmapw w a b => some (pack 0x78000044 [(w.toNat, 22), (a.toNat, 12), (b.toNat, 7)])
  | .sysSmapw w a b => some (pack 0x78000045 [(w.toNat, 22), (a.toNat, 12), (b.toNat, 7)])
  | .sysMapfence w => some (pack 0x78000046 [(w.toNat, 22)])
  | .sysPtbase w a => some (pack 0x78000047 [(w.toNat, 22), (a.toNat, 12)])
  | .cpy d w q l s f p t k => some (pack 0x8000000 [(d.toNat, 23), (w.toNat, 20), (bitOf q, 19), (bitOf l, 18), (s.code, 16), (bitOf f, 15), (bitOf p, 14), (bitOf t, 13), (k.toNat, 10)])
  | .dload d i => some (pack 0x10000000 [(d.toNat, 23), (i.toNat, 0)])
  | .cTsend q n => some (pack 0x18000000 [(q.toNat, 24), (n.toNat, 16)])
  | .cTwait q n => some (pack 0x20000000 [(q.toNat, 24), (n.toNat, 16)])
  | .cWaitp w => some (pack 0x28000000 [(w.toNat, 24)])
  | .lset l c => some (pack 0x30000000 [(l.toNat, 25), (c.toNat, 0)])
  | .lbr l o => some (pack 0x38000000 [(l.toNat, 25), (o.toNat, 0)])
  | .cJmp o => some (pack 0x40000000 [(o.toNat, 0)])
  | .cMark m => some (pack 0x48000000 [(m.toNat, 19)])
  | .cfence => some (pack 0x50000000 [])
  | .cHalt => some (pack 0x58000000 [])
  | .vadd z w d a b m r => some (pack 0x1000000 [(bitOf z, 30), (w.toNat, 21), (d.toNat, 16), (a.toNat, 11), (b.toNat, 6), (m.toNat, 3), (r.code, 0)])
  | .vsub z w d a b m r => some (pack 0x2000000 [(bitOf z, 30), (w.toNat, 21), (d.toNat, 16), (a.toNat, 11), (b.toNat, 6), (m.toNat, 3), (r.code, 0)])
  | .vmul z w d a b m r => some (pack 0x3000000 [(bitOf z, 30), (w.toNat, 21), (d.toNat, 16), (a.toNat, 11), (b.toNat, 6), (m.toNat, 3), (r.code, 0)])
  | .vfma z w d a b m r => some (pack 0x4000000 [(bitOf z, 30), (w.toNat, 21), (d.toNat, 16), (a.toNat, 11), (b.toNat, 6), (m.toNat, 3), (r.code, 0)])
  | .vfms z w d a b m r => some (pack 0x5000000 [(bitOf z, 30), (w.toNat, 21), (d.toNat, 16), (a.toNat, 11), (b.toNat, 6), (m.toNat, 3), (r.code, 0)])
  | .vmin z w d a b m => some (pack 0x6000000 [(bitOf z, 30), (w.toNat, 21), (d.toNat, 16), (a.toNat, 11), (b.toNat, 6), (m.toNat, 3)])
  | .vmax z w d a b m => some (pack 0x7000000 [(bitOf z, 30), (w.toNat, 21), (d.toNat, 16), (a.toNat, 11), (b.toNat, 6), (m.toNat, 3)])
  | .vabs z w d a m => some (pack 0x8000000 [(bitOf z, 30), (w.toNat, 21), (d.toNat, 16), (a.toNat, 11), (m.toNat, 3)])
  | .vneg z w d a m => some (pack 0x9000000 [(bitOf z, 30), (w.toNat, 21), (d.toNat, 16), (a.toNat, 11), (m.toNat, 3)])
  | .vrcp z w d a m => some (pack 0xA000000 [(bitOf z, 30), (w.toNat, 21), (d.toNat, 16), (a.toNat, 11), (m.toNat, 3)])
  | .vrsq z w d a m => some (pack 0xB000000 [(bitOf z, 30), (w.toNat, 21), (d.toNat, 16), (a.toNat, 11), (m.toNat, 3)])
  | .vexp2 z w d a m => some (pack 0xC000000 [(bitOf z, 30), (w.toNat, 21), (d.toNat, 16), (a.toNat, 11), (m.toNat, 3)])
  | .vlog2 z w d a m => some (pack 0xD000000 [(bitOf z, 30), (w.toNat, 21), (d.toNat, 16), (a.toNat, 11), (m.toNat, 3)])
  | .viadd z w d a b m => some (pack 0x10000000 [(bitOf z, 30), (w.toNat, 21), (d.toNat, 16), (a.toNat, 11), (b.toNat, 6), (m.toNat, 3)])
  | .visub z w d a b m => some (pack 0x11000000 [(bitOf z, 30), (w.toNat, 21), (d.toNat, 16), (a.toNat, 11), (b.toNat, 6), (m.toNat, 3)])
  | .vimul z w d a b m => some (pack 0x12000000 [(bitOf z, 30), (w.toNat, 21), (d.toNat, 16), (a.toNat, 11), (b.toNat, 6), (m.toNat, 3)])
  | .vand z w d a b m => some (pack 0x13000000 [(bitOf z, 30), (w.toNat, 21), (d.toNat, 16), (a.toNat, 11), (b.toNat, 6), (m.toNat, 3)])
  | .vor z w d a b m => some (pack 0x14000000 [(bitOf z, 30), (w.toNat, 21), (d.toNat, 16), (a.toNat, 11), (b.toNat, 6), (m.toNat, 3)])
  | .vxor z w d a b m => some (pack 0x15000000 [(bitOf z, 30), (w.toNat, 21), (d.toNat, 16), (a.toNat, 11), (b.toNat, 6), (m.toNat, 3)])
  | .vshl z w d a b m => some (pack 0x16000000 [(bitOf z, 30), (w.toNat, 21), (d.toNat, 16), (a.toNat, 11), (b.toNat, 6), (m.toNat, 3)])
  | .vshr z w d a b m => some (pack 0x17000000 [(bitOf z, 30), (w.toNat, 21), (d.toNat, 16), (a.toNat, 11), (b.toNat, 6), (m.toNat, 3)])
  | .vsra z w d a b m => some (pack 0x18000000 [(bitOf z, 30), (w.toNat, 21), (d.toNat, 16), (a.toNat, 11), (b.toNat, 6), (m.toNat, 3)])
  | .vcmp z w d a b m c => some (pack 0x19000000 [(bitOf z, 30), (w.toNat, 21), (d.toNat, 16), (a.toNat, 11), (b.toNat, 6), (m.toNat, 3), (c.code, 0)])
  | .vsel z w d a b m => some (pack 0x1A000000 [(bitOf z, 30), (w.toNat, 21), (d.toNat, 16), (a.toNat, 11), (b.toNat, 6), (m.toNat, 3)])
  | .vcvt z w d a e m r => some (pack 0x1B000000 [(bitOf z, 30), (w.toNat, 21), (d.toNat, 16), (a.toNat, 11), (e.code, 6), (m.toNat, 3), (r.code, 0)])
  | .vefb z w d a b m r => some (pack 0x1C000000 [(bitOf z, 30), (w.toNat, 21), (d.toNat, 16), (a.toNat, 11), (b.toNat, 6), (m.toNat, 3), (r.code, 0)])
  | .vbcast w d k => some (pack 0x1D000000 [(w.toNat, 21), (d.toNat, 16), (k.toNat, 12)])
  | .vmovk w d l a => some (pack 0x1E000000 [(w.toNat, 21), (d.toNat, 16), (l.toNat, 5), (a.toNat, 0)])
  | .kaddi w d a i => some (pack 0x1F000000 [(w.toNat, 21), (d.toNat, 16), (a.toNat, 12), (i.toNat, 0)])
  | .vld w d k i e => some (pack 0x20000000 [(w.toNat, 21), (d.toNat, 16), (k.toNat, 12), (i.toNat, 4), (e.code, 0)])
  | .vst w d k i e => some (pack 0x21000000 [(w.toNat, 21), (d.toNat, 16), (k.toNat, 12), (i.toNat, 4), (e.code, 0)])
  | .vldg w d a k e => some (pack 0x22000000 [(w.toNat, 21), (d.toNat, 16), (a.toNat, 11), (k.toNat, 7), (e.code, 3)])
  | .vsts w d a k e => some (pack 0x23000000 [(w.toNat, 21), (d.toNat, 16), (a.toNat, 11), (k.toNat, 7), (e.code, 3)])
  | .vstt w d k i e => some (pack 0x24000000 [(w.toNat, 21), (d.toNat, 16), (k.toNat, 12), (i.toNat, 4), (e.code, 0)])
  | .vldt w d k i e => some (pack 0x25000000 [(w.toNat, 21), (d.toNat, 16), (k.toNat, 12), (i.toNat, 4), (e.code, 0)])
  | .vred w d a m f => some (pack 0x26000000 [(w.toNat, 21), (d.toNat, 16), (a.toNat, 11), (m.toNat, 3), (f.code, 0)])
  | .vperm w d a b m => some (pack 0x27000000 [(w.toNat, 21), (d.toNat, 16), (a.toNat, 11), (b.toNat, 6), (m.toNat, 3)])
  | .vsigRead w d a m => some (pack 0x28000000 [(w.toNat, 21), (d.toNat, 16), (a.toNat, 11), (m.toNat, 3)])
  | .vsigWrite w d a b m => some (pack 0x28000001 [(w.toNat, 21), (d.toNat, 16), (a.toNat, 11), (b.toNat, 6), (m.toNat, 3)])
  | .vsigMintag w d a m => some (pack 0x28000002 [(w.toNat, 21), (d.toNat, 16), (a.toNat, 11), (m.toNat, 3)])
  | .vssig w d a b m => some (pack 0x29000000 [(w.toNat, 21), (d.toNat, 16), (a.toNat, 11), (b.toNat, 6), (m.toNat, 3)])
  | .vbr w k c o => some (pack 0x2A000000 [(w.toNat, 21), (k.toNat, 16), (c.code, 12), (o.toNat, 0)])
  | .vjmp w o => some (pack 0x2B000000 [(w.toNat, 21), (o.toNat, 0)])
  | .vloop w k o => some (pack 0x2C000000 [(w.toNat, 21), (k.toNat, 16), (o.toNat, 0)])
  | .epout w a e => some (pack 0x2D000000 [(w.toNat, 21), (a.toNat, 11), (e.code, 6)])
  | .epiret w => some (pack 0x2E000000 [(w.toNat, 21)])
  | .vWaitp w p => some (pack 0x30000000 [(w.toNat, 21), (p.toNat, 0)])
  | .vTsend w n q => some (pack 0x31000000 [(w.toNat, 21), (n.toNat, 8), (q.toNat, 0)])
  | .vTwait w n q => some (pack 0x32000000 [(w.toNat, 21), (n.toNat, 8), (q.toNat, 0)])
  | .vMark w m => some (pack 0x33000000 [(w.toNat, 21), (m.toNat, 8)])
  | .vsysTrap w => some (pack 0x34000000 [(w.toNat, 21)])
  | .vsysTret w => some (pack 0x34000001 [(w.toNat, 21)])
  | .vsysCrr w d r => some (pack 0x34000002 [(w.toNat, 21), (d.toNat, 16), (r.toNat, 6)])
  | .vsysCrw w k r => some (pack 0x34000003 [(w.toNat, 21), (k.toNat, 16), (r.toNat, 6)])
  | .vsysTime w d => some (pack 0x34000004 [(w.toNat, 21), (d.toNat, 16)])
  | .mnop w => some (pack 0x80000000 [(w.toNat, 22)])
  | .mma w a b n s k v => some (pack 0x82000000 [(w.toNat, 22), (a.toNat, 18), (b.toNat, 14), (bitOf n, 9), (bitOf s, 8), (bitOf k, 7), (bitOf v, 6)])
  | .mmac w a b n s k v => some (pack 0x84000000 [(w.toNat, 22), (a.toNat, 18), (b.toNat, 14), (bitOf n, 9), (bitOf s, 8), (bitOf k, 7), (bitOf v, 6)])
  | .mmak w a b n s v => some (pack 0x86000000 [(w.toNat, 22), (a.toNat, 18), (b.toNat, 14), (bitOf n, 9), (bitOf s, 8), (bitOf v, 6)])
  | .mzero w n => some (pack 0x88000000 [(w.toNat, 22), (bitOf n, 9)])
  | .mdrain w c n v => some (pack 0x8A000000 [(w.toNat, 22), (c.toNat, 10), (bitOf n, 9), (bitOf v, 6)])
  | .mldacc w a n v => some (pack 0x8C000000 [(w.toNat, 22), (a.toNat, 18), (bitOf n, 9), (bitOf v, 6)])
  | .msync w => some (pack 0x8E000000 [(w.toNat, 22)])
  | .messageArrival => none
  | .handlerBind => none
  | .epriAging => none
  | .niRetry => none
  | .accessPerform => none
  | .rowRequestService => none
  | .rowOperationService => none
  | .rowLanding => none
  | .putLanding => none
  | .useCounterIncrement => none
  | .pageWalk => none
  | .fscmd => none
  | .lanternAccess => none
  | .cmemEvictionResume => none
  | .cmgrant => none
  | .smquery => none
  | .nresume => none
  | .registerWrite => none
  | .copyBurst => none
  | .copyComplete => none
  | .tblrdyRead => none
  | .dloadFillComplete => none
  | .promiseExpiry => none
  | .waitpComplete => none
  | .tokenWaitComplete => none
  | .waitcComplete => none
  | .waittExpiry => none
  | .cfenceComplete => none
  | .msyncComplete => none
  | .wfeWake => none
  | .epochAdvance => none
  | .variableResultLanding => none
  | .transformComplete => none
  | .condenserComplete => none
  | .mergeComplete => none
  | .matrixArbiterAccept => none
  | .matrixCommandStart => none
  | .matrixCommandComplete => none
  | .epilogueStart => none
  | .drainRowRelease => none
  | .watchdogExpiry => none
  | .phaseEnd => none
  | .bundleRelease => none
  | .markerRetire => none
  | .belfryHop => none
  | .stealAttempt => none
  | .taskMigration => none
  | .levellingInterval => none
  | .carryGranuleFill => none
  | .nodePlacement => none
  | .branchNode => none
  | .barrierNodePoll => none
  | .endNode => none
  | .scrubStep => none
  | .launch => none
  | .memwr => none
  | .memrd => none
  | .rddata => none
  | .ack => none
  | .nack => none
  | .window => none
  | .completionRetransmit => none
  | .ptpMessage => none
  | .rowreq => none
  | .rowdata => none
  | .rowacc => none
  | .fabricMemrd => none
  | .fabricMemwr => none
  | .atomic => none
  | .msg => none
  | .fabricAck => none
  | .fabricNack => none
  | .fabricRetransmit => none
  | .sensor => none
  | .log => none
  | .fwupdate => none
  | .identity => none
  | .attest => none
  | .sensorSample => none
  | .powerGating => none
  | .moduleReset => none
  | .unassignedOpcode => none
  | .softError => none
  | .supervisorRestart => none
  | .hostPortLinkChange => none
  | .powerLoss => none
  | .ordelUnrecognisedRequest => none

/-- The stream whose units run an instruction; events belong to none. NOP is in every stream. -/
def Instr.stream : Instr → Option Stream
  | .nop => some .lookup
  | .lda _ _ _ => some .lookup
  | .sta _ _ _ => some .lookup
  | .adda _ _ _ _ _ => some .lookup
  | .suba _ _ _ _ _ => some .lookup
  | .mula _ _ _ _ _ => some .lookup
  | .maca _ _ _ _ _ => some .lookup
  | .mina _ _ _ _ => some .lookup
  | .maxa _ _ _ _ => some .lookup
  | .loga _ _ _ _ _ => some .lookup
  | .shfa _ _ _ _ _ => some .lookup
  | .cvta _ _ _ _ _ => some .lookup
  | .hred _ _ _ _ _ => some .lookup
  | .cmpa _ _ _ _ => some .lookup
  | .sigaRead _ _ _ => some .lookup
  | .sigaWrite _ _ _ _ => some .lookup
  | .sigaMintag _ _ _ => some .lookup
  | .immaSet _ _ _ => some .lookup
  | .immaAddi _ _ _ => some .lookup
  | .immaLane0 _ _ _ => some .lookup
  | .pset _ _ _ => some .lookup
  | .pldc _ _ _ => some .lookup
  | .padd _ _ _ _ => some .lookup
  | .pstr _ _ _ => some .lookup
  | .pld _ _ _ _ => some .lookup
  | .pst _ _ _ _ => some .lookup
  | .paccGet _ _ _ => some .lookup
  | .paccPut _ _ _ => some .lookup
  | .paccAdd _ _ _ => some .lookup
  | .paccAddw _ _ _ => some .lookup
  | .pcrdAbs _ _ _ => some .lookup
  | .pcrdMyxy _ _ => some .lookup
  | .pcrdGlob _ _ _ => some .lookup
  | .pcrdHome _ _ _ => some .lookup
  | .br _ _ => some .lookup
  | .bpc _ _ _ _ => some .lookup
  | .lBsig _ _ _ => some .lookup
  | .call _ => some .lookup
  | .lJmp _ => some .lookup
  | .retp => some .lookup
  | .gath _ _ _ _ _ _ _ => some .lookup
  | .scat _ _ _ _ _ _ _ => some .lookup
  | .scatw _ _ _ _ _ _ _ => some .lookup
  | .dedup _ _ _ _ => some .lookup
  | .bucket _ _ _ => some .lookup
  | .ucinc _ _ _ => some .lookup
  | .rowadd _ _ _ _ _ _ _ _ => some .lookup
  | .rowscl _ _ _ _ _ _ _ => some .lookup
  | .rowcvt _ _ _ _ _ _ _ => some .lookup
  | .rowdot _ _ _ _ _ _ _ => some .lookup
  | .lAmo _ _ _ _ _ _ => some .lookup
  | .amov _ _ _ _ _ _ => some .lookup
  | .lFence _ _ => some .lookup
  | .lBar _ _ => some .lookup
  | .lMark _ => some .lookup
  | .tepoch _ => some .lookup
  | .send _ _ _ _ _ => some .lookup
  | .senda _ _ _ _ => some .lookup
  | .reply _ _ _ => some .lookup
  | .put _ _ _ _ _ _ _ => some .lookup
  | .hend => some .lookup
  | .commit => some .lookup
  | .hctlMask _ => some .lookup
  | .hctlUnmask _ => some .lookup
  | .hctlPrio _ _ => some .lookup
  | .hctlBind _ _ => some .lookup
  | .waitc _ _ => some .lookup
  | .lWaitp _ => some .lookup
  | .waitt _ => some .lookup
  | .copy _ _ _ _ _ _ _ => some .lookup
  | .spawn _ _ => some .lookup
  | .join _ _ => some .lookup
  | .tend => some .lookup
  | .wlistPush _ => some .lookup
  | .wlistPop _ => some .lookup
  | .lSysTrap _ => some .lookup
  | .lSysTret => some .lookup
  | .lSysCrr _ _ => some .lookup
  | .lSysCrw _ _ => some .lookup
  | .lSysTime _ _ => some .lookup
  | .sysYield _ => some .lookup
  | .add _ _ _ _ _ => some .scalar
  | .sub _ _ _ _ _ => some .scalar
  | .and _ _ _ _ _ => some .scalar
  | .or _ _ _ _ _ => some .scalar
  | .xor _ _ _ _ _ => some .scalar
  | .shl _ _ _ _ _ => some .scalar
  | .shr _ _ _ _ _ => some .scalar
  | .sra _ _ _ _ _ => some .scalar
  | .mul _ _ _ _ _ => some .scalar
  | .mulh _ _ _ _ _ => some .scalar
  | .div _ _ _ _ _ => some .scalar
  | .rem _ _ _ _ _ => some .scalar
  | .slt _ _ _ _ _ => some .scalar
  | .sltu _ _ _ _ _ => some .scalar
  | .min _ _ _ _ _ => some .scalar
  | .max _ _ _ _ _ => some .scalar
  | .addi _ _ _ _ _ => some .scalar
  | .andi _ _ _ _ _ => some .scalar
  | .ori _ _ _ _ _ => some .scalar
  | .xori _ _ _ _ _ => some .scalar
  | .shli _ _ _ _ _ => some .scalar
  | .shri _ _ _ _ _ => some .scalar
  | .srai _ _ _ _ _ => some .scalar
  | .slti _ _ _ _ _ => some .scalar
  | .lui _ _ _ _ => some .scalar
  | .ldc _ _ _ _ => some .scalar
  | .fadd _ _ _ _ _ _ => some .scalar
  | .fsub _ _ _ _ _ _ => some .scalar
  | .fmul _ _ _ _ _ _ => some .scalar
  | .fdiv _ _ _ _ _ _ => some .scalar
  | .fsqrt _ _ _ _ _ => some .scalar
  | .fmin _ _ _ _ _ => some .scalar
  | .fmax _ _ _ _ _ => some .scalar
  | .fabs _ _ _ _ => some .scalar
  | .fneg _ _ _ _ => some .scalar
  | .fcvtif _ _ _ _ _ => some .scalar
  | .fcvtfi _ _ _ _ _ => some .scalar
  | .fcvtn _ _ _ _ _ _ => some .scalar
  | .fcvtw _ _ _ _ _ => some .scalar
  | .fcmp _ _ _ _ _ => some .scalar
  | .fsigr _ _ _ _ => some .scalar
  | .fsigw _ _ _ _ _ => some .scalar
  | .fma _ _ _ _ _ _ _ => some .scalar
  | .fms _ _ _ _ _ _ _ => some .scalar
  | .ldb _ _ _ _ _ => some .scalar
  | .ldh _ _ _ _ _ => some .scalar
  | .ldw _ _ _ _ _ => some .scalar
  | .ldd _ _ _ _ _ => some .scalar
  | .ldwt _ _ _ _ _ => some .scalar
  | .stb _ _ _ _ => some .scalar
  | .sth _ _ _ _ => some .scalar
  | .stw _ _ _ _ => some .scalar
  | .std _ _ _ _ => some .scalar
  | .stwt _ _ _ _ => some .scalar
  | .sAmo _ _ _ _ _ _ _ => some .scalar
  | .beq _ _ _ _ => some .scalar
  | .bne _ _ _ _ => some .scalar
  | .blt _ _ _ _ => some .scalar
  | .bge _ _ _ _ => some .scalar
  | .bltu _ _ _ _ => some .scalar
  | .bgeu _ _ _ _ => some .scalar
  | .sBsig _ _ _ _ => some .scalar
  | .jal _ _ _ => some .scalar
  | .jalr _ _ _ _ => some .scalar
  | .ewr _ _ _ _ => some .scalar
  | .erd _ _ _ _ => some .scalar
  | .engo _ _ => some .scalar
  | .fpush _ _ => some .scalar
  | .shape _ _ _ => some .scalar
  | .sTsend _ _ _ => some .scalar
  | .sTwait _ _ _ => some .scalar
  | .sWaitp _ _ => some .scalar
  | .sMark _ _ => some .scalar
  | .sBar _ _ _ => some .scalar
  | .sFence _ _ _ => some .scalar
  | .sSysTrap _ => some .scalar
  | .sSysTret _ => some .scalar
  | .sSysCrr _ _ _ => some .scalar
  | .sSysCrw _ _ _ => some .scalar
  | .sysTlbinv _ _ _ => some .scalar
  | .sysHalt _ => some .scalar
  | .sysWfe _ => some .scalar
  | .sSysTime _ _ => some .scalar
  | .sysLnpop _ _ _ => some .scalar
  | .sysLnret _ _ => some .scalar
  | .sysNstart _ _ _ => some .scalar
  | .sysNstop _ _ => some .scalar
  | .sysCmapw _ _ _ => some .scalar
  | .sysSmapw _ _ _ => some .scalar
  | .sysMapfence _ => some .scalar
  | .sysPtbase _ _ => some .scalar
  | .cpy _ _ _ _ _ _ _ _ _ => some .copy
  | .dload _ _ => some .copy
  | .cTsend _ _ => some .copy
  | .cTwait _ _ => some .copy
  | .cWaitp _ => some .copy
  | .lset _ _ => some .copy
  | .lbr _ _ => some .copy
  | .cJmp _ => some .copy
  | .cMark _ => some .copy
  | .cfence => some .copy
  | .cHalt => some .copy
  | .vadd _ _ _ _ _ _ _ => some .compute
  | .vsub _ _ _ _ _ _ _ => some .compute
  | .vmul _ _ _ _ _ _ _ => some .compute
  | .vfma _ _ _ _ _ _ _ => some .compute
  | .vfms _ _ _ _ _ _ _ => some .compute
  | .vmin _ _ _ _ _ _ => some .compute
  | .vmax _ _ _ _ _ _ => some .compute
  | .vabs _ _ _ _ _ => some .compute
  | .vneg _ _ _ _ _ => some .compute
  | .vrcp _ _ _ _ _ => some .compute
  | .vrsq _ _ _ _ _ => some .compute
  | .vexp2 _ _ _ _ _ => some .compute
  | .vlog2 _ _ _ _ _ => some .compute
  | .viadd _ _ _ _ _ _ => some .compute
  | .visub _ _ _ _ _ _ => some .compute
  | .vimul _ _ _ _ _ _ => some .compute
  | .vand _ _ _ _ _ _ => some .compute
  | .vor _ _ _ _ _ _ => some .compute
  | .vxor _ _ _ _ _ _ => some .compute
  | .vshl _ _ _ _ _ _ => some .compute
  | .vshr _ _ _ _ _ _ => some .compute
  | .vsra _ _ _ _ _ _ => some .compute
  | .vcmp _ _ _ _ _ _ _ => some .compute
  | .vsel _ _ _ _ _ _ => some .compute
  | .vcvt _ _ _ _ _ _ _ => some .compute
  | .vefb _ _ _ _ _ _ _ => some .compute
  | .vbcast _ _ _ => some .compute
  | .vmovk _ _ _ _ => some .compute
  | .kaddi _ _ _ _ => some .compute
  | .vld _ _ _ _ _ => some .compute
  | .vst _ _ _ _ _ => some .compute
  | .vldg _ _ _ _ _ => some .compute
  | .vsts _ _ _ _ _ => some .compute
  | .vstt _ _ _ _ _ => some .compute
  | .vldt _ _ _ _ _ => some .compute
  | .vred _ _ _ _ _ => some .compute
  | .vperm _ _ _ _ _ => some .compute
  | .vsigRead _ _ _ _ => some .compute
  | .vsigWrite _ _ _ _ _ => some .compute
  | .vsigMintag _ _ _ _ => some .compute
  | .vssig _ _ _ _ _ => some .compute
  | .vbr _ _ _ _ => some .compute
  | .vjmp _ _ => some .compute
  | .vloop _ _ _ => some .compute
  | .epout _ _ _ => some .compute
  | .epiret _ => some .compute
  | .vWaitp _ _ => some .compute
  | .vTsend _ _ _ => some .compute
  | .vTwait _ _ _ => some .compute
  | .vMark _ _ => some .compute
  | .vsysTrap _ => some .compute
  | .vsysTret _ => some .compute
  | .vsysCrr _ _ _ => some .compute
  | .vsysCrw _ _ _ => some .compute
  | .vsysTime _ _ => some .compute
  | .mnop _ => some .compute
  | .mma _ _ _ _ _ _ _ => some .compute
  | .mmac _ _ _ _ _ _ _ => some .compute
  | .mmak _ _ _ _ _ _ => some .compute
  | .mzero _ _ => some .compute
  | .mdrain _ _ _ _ => some .compute
  | .mldacc _ _ _ _ => some .compute
  | .msync _ => some .compute
  | .messageArrival => none
  | .handlerBind => none
  | .epriAging => none
  | .niRetry => none
  | .accessPerform => none
  | .rowRequestService => none
  | .rowOperationService => none
  | .rowLanding => none
  | .putLanding => none
  | .useCounterIncrement => none
  | .pageWalk => none
  | .fscmd => none
  | .lanternAccess => none
  | .cmemEvictionResume => none
  | .cmgrant => none
  | .smquery => none
  | .nresume => none
  | .registerWrite => none
  | .copyBurst => none
  | .copyComplete => none
  | .tblrdyRead => none
  | .dloadFillComplete => none
  | .promiseExpiry => none
  | .waitpComplete => none
  | .tokenWaitComplete => none
  | .waitcComplete => none
  | .waittExpiry => none
  | .cfenceComplete => none
  | .msyncComplete => none
  | .wfeWake => none
  | .epochAdvance => none
  | .variableResultLanding => none
  | .transformComplete => none
  | .condenserComplete => none
  | .mergeComplete => none
  | .matrixArbiterAccept => none
  | .matrixCommandStart => none
  | .matrixCommandComplete => none
  | .epilogueStart => none
  | .drainRowRelease => none
  | .watchdogExpiry => none
  | .phaseEnd => none
  | .bundleRelease => none
  | .markerRetire => none
  | .belfryHop => none
  | .stealAttempt => none
  | .taskMigration => none
  | .levellingInterval => none
  | .carryGranuleFill => none
  | .nodePlacement => none
  | .branchNode => none
  | .barrierNodePoll => none
  | .endNode => none
  | .scrubStep => none
  | .launch => none
  | .memwr => none
  | .memrd => none
  | .rddata => none
  | .ack => none
  | .nack => none
  | .window => none
  | .completionRetransmit => none
  | .ptpMessage => none
  | .rowreq => none
  | .rowdata => none
  | .rowacc => none
  | .fabricMemrd => none
  | .fabricMemwr => none
  | .atomic => none
  | .msg => none
  | .fabricAck => none
  | .fabricNack => none
  | .fabricRetransmit => none
  | .sensor => none
  | .log => none
  | .fwupdate => none
  | .identity => none
  | .attest => none
  | .sensorSample => none
  | .powerGating => none
  | .moduleReset => none
  | .unassignedOpcode => none
  | .softError => none
  | .supervisorRestart => none
  | .hostPortLinkChange => none
  | .powerLoss => none
  | .ordelUnrecognisedRequest => none

/-- The stream the table's word is read for when no unit says: the first of scalar, lookup, compute, copy that takes it.
Words of different streams overlap (R13), so this order is the model's choice (DESIGN CHOICE, log 2). -/
def tableStream (w : Nat) : Option Stream :=
  let takes (st : Stream) : Bool := match decodeWord st w with
    | .ok _ => true
    | .error _ => false
  if takes .scalar then some .scalar
  else if takes .lookup then some .lookup
  else if takes .compute then some .compute
  else if takes .copy then some .copy
  else none

/-- The instruction that the decoder reads from a table word (bit 0 the least significant bit of the word). -/
def decodeTableWord (nbits w : Nat) : Option Instr :=
  match tableStream (w % 2 ^ nbits) with
  | some st => match decodeWord st (w % 2 ^ nbits) with
    | .ok i => some i
    | .error _ => none
  | none => none

end Sys2Proof
end

