-- ==== Sys2Proof/Machine/Numeric.lean ====
section
/-! DEFINITION. Number formats (R115 to R121), exact arithmetic, one rounding (R122 to R124), the stochastic generator
(R126) and significance tags (R128 to R131). A value is computed exactly and rounded once. -/

namespace Sys2Proof.Machine

/-- The six sticky flags (R125). -/
abbrev Flags := BitVec 6
def fInvalid : Flags := 1
def fDivZero : Flags := 2
def fOverflow : Flags := 4
def fUnderflow : Flags := 8
def fInexact : Flags := 16
def fSaturate : Flags := 32

/-- An exact value: NaN, an infinity, or (-1)^neg * n / d * 2^e with d positive; n = 0 is a signed zero. -/
inductive Num where
  | nan
  | inf (neg : Bool)
  | fin (neg : Bool) (n d : Nat) (e : Int)
deriving DecidableEq, Repr

/-- A signed zero and an integer as exact values. -/
def Num.zero (neg : Bool) : Num := .fin neg 0 1 0
def Num.ofInt (i : Int) : Num := .fin (decide (i < 0)) i.natAbs 1 0

def Num.isNan : Num → Bool
  | .nan => true
  | _ => false
def Num.isInf : Num → Bool
  | .inf _ => true
  | _ => false
def Num.isZero : Num → Bool
  | .fin _ n _ _ => n == 0
  | _ => false
def Num.isFinite : Num → Bool
  | .fin .. => true
  | _ => false
def Num.isNeg : Num → Bool
  | .inf s => s
  | .fin s _ _ _ => s
  | .nan => false
def Num.negate : Num → Num
  | .inf s => .inf !s
  | .fin s n d e => .fin (!s) n d e
  | .nan => .nan
def Num.abs : Num → Num
  | .inf _ => .inf false
  | .fin _ n d e => .fin false n d e
  | .nan => .nan
/-- Scaling by a power of two is exact (R118). -/
def Num.scale (k : Int) : Num → Num
  | .fin s n d e => .fin s n d (e + k)
  | x => x

/-- 2^k for a nonnegative k, and 1 otherwise. -/
def pow2 (k : Int) : Nat := 2 ^ k.toNat

/-- floor(log2 (n / d)) for n, d positive. -/
def log2q (n d : Nat) : Int :=
  let k : Int := (Nat.log2 n : Int) - Nat.log2 d
  if n * pow2 (-k) < d * pow2 k then k - 1 else k

/-- Exp(v) of R130: floor(log2 |v|), for a nonzero finite value. -/
def Num.exp : Num → Int
  | .fin _ n d e => log2q n d + e
  | _ => 0

/-- Compare two exact finite magnitudes n/d * 2^e. -/
def magLt (n1 d1 : Nat) (e1 : Int) (n2 d2 : Nat) (e2 : Int) : Bool :=
  decide (n1 * d2 * pow2 (e1 - e2) < n2 * d1 * pow2 (e2 - e1))

/-- a < b on ordered values, +0 = -0. -/
def Num.lt : Num → Num → Bool
  | .nan, _ | _, .nan => false
  | .inf s, .inf t => s && !t
  | .inf s, .fin .. => s
  | .fin .., .inf t => !t
  | .fin s n d e, .fin t m c f =>
    if n == 0 && m == 0 then false
    else if n == 0 then !t
    else if m == 0 then s
    else if s != t then s
    else if s then magLt m c f n d e else magLt n d e m c f

/-- Equality of ordered values, +0 = -0. -/
def Num.eqv (a b : Num) : Bool :=
  !a.isNan && !b.isNan && !a.lt b && !b.lt a

/-! ## Element types -/

/-- Layout of a floating type: exponent and fraction widths and bias (R115). -/
structure Fmt where
  eb : Nat
  mb : Nat
  bias : Nat

def ElemType.fmt : ElemType → Fmt
  | .bf16 => ⟨8, 7, 127⟩
  | .fp16 => ⟨5, 10, 15⟩
  | .e4m3 => ⟨4, 3, 7⟩
  | .e5m2 => ⟨5, 2, 15⟩
  | .fp4 => ⟨2, 1, 1⟩
  | _ => ⟨8, 23, 127⟩

/-- Element width in bits (R70, R33). -/
def ElemType.bits : ElemType → Nat
  | .fp32 | .int32 => 32
  | .bf16 | .fp16 | .int16 => 16
  | .fp4 | .int4 => 4
  | .cb3 => 3
  | _ => 8

/-- Element width in whole bytes (4-bit types count as 1 for alignment, R71). -/
def ElemType.size (e : ElemType) : Nat := max 1 (ElemType.bits e / 8)

/-- A floating type. -/
def ElemType.isFloat : ElemType → Bool
  | .fp32 | .bf16 | .fp16 | .e4m3 | .e5m2 | .m8 | .fp4 => true
  | _ => false

/-- M8's fields (R119): marker position, exponent-field and fraction widths, base. -/
def m8Row : Nat → Nat × Nat × Int
  | 0 => (1, 4, 0)
  | 1 => (2, 2, 2)
  | 2 => (2, 1, 6)
  | 3 => (2, 0, 10)
  | 4 => (1, 0, 14)
  | _ => (0, 0, 16)

/-- Significand, fraction width and exponent of a nonzero M8 magnitude code: value sig / 2^f * 2^E (R119). -/
def m8Mag (m : Nat) : Nat × Nat × Int :=
  let p := 6 - Nat.log2 m
  if p = 6 then (1, 0, -18)
  else
    let (xw, f, base) := m8Row p
    let d := bits m (5 - p) (5 - p)
    let x := if xw = 0 then 0 else bits m (4 - p) (5 - p - xw)
    let fr := if f = 0 then 0 else bits m (f - 1) 0
    (2 ^ f + fr, f, if d = 1 then base + x else -1 - base - x)

/-- The value of an M8 code (R119). -/
def m8Value (c : Nat) : Num :=
  let m := c % 128
  if c = 0x80 then .nan
  else if m = 0 then .zero false
  else
    let (s, f, e) := m8Mag m
    .fin (decide (c ≥ 128)) s 1 (e - f)

/-- The value of a code of a type (R115, R117, R119). -/
def decodeNum (et : ElemType) (c : Nat) : Num :=
  match et with
  | .m8 => m8Value (c % 256)
  | .int32 => .ofInt (sext 32 c)
  | .int16 => .ofInt (sext 16 c)
  | .int8 => .ofInt (sext 8 c)
  | .int4 => .ofInt (sext 4 c)
  | .uint8 => .ofInt (c % 256)
  | .cb3 => .ofInt (c % 8)
  | et =>
    let f := ElemType.fmt et
    let neg := decide (bits c (f.eb + f.mb) (f.eb + f.mb) = 1)
    let ex := bits c (f.eb + f.mb - 1) f.mb
    let mn := bits c (f.mb - 1) 0
    let top := 2 ^ f.eb - 1
    let special := match et with
      | .fp4 => false
      | .e4m3 => ex == top && mn == 7
      | _ => ex == top
    if special then (if mn = 0 then .inf neg else .nan)
    else if ex = 0 then .fin neg mn 1 (1 - (f.bias : Int) - f.mb)
    else .fin neg (2 ^ f.mb + mn) 1 ((ex : Int) - f.bias - f.mb)

/-- The canonical NaN of a floating type (R116). -/
def canonicalNan : ElemType → Nat
  | .fp32 => 0x7FC00000
  | .bf16 => 0x7FC0
  | .fp16 => 0x7E00
  | .e4m3 => 0x7F
  | .e5m2 => 0x7E
  | .m8 => 0x80
  | _ => 0

/-! ## Rounding -/

/-- One step of a generator (R126): 16 shifts of the Galois register. -/
def lfsrShift (s : W32) : W32 :=
  if s.getLsbD 0 then (s >>> 1) ^^^ 0x80200003 else s >>> 1
def lfsrIter : Nat → W32 → W32
  | 0, s => s
  | n + 1, s => lfsrIter n (lfsrShift s)
def lfsrStep (s : W32) : W32 := lfsrIter 16 s

/-- Round up from lo to hi (R122): the remainder `rem` of `den`, the parity of lo, the sign, SR's r. -/
def roundUp (rm : Rm) (neg odd : Bool) (rem den r : Nat) : Bool :=
  match rm with
  | .rne => decide (2 * rem > den) || (decide (2 * rem = den) && odd)
  | .rtz => false
  | .rup => !neg && decide (rem ≠ 0)
  | .rdn => neg && decide (rem ≠ 0)
  | .rna => decide (2 * rem ≥ den) && decide (rem ≠ 0)
  | .sr => decide (rem ≠ 0) && decide (rem * 65536 + r * den ≥ 65536 * den)

/-- Quotient and remainder of n/d * 2^e in units of 2^q: (quotient, remainder, divisor). -/
def inUnits (n d : Nat) (e q : Int) : Nat × Nat × Nat :=
  let a := n * pow2 (e - q)
  let b := d * pow2 (q - e)
  (a / b, a % b, b)

/-- Sign bit of a type placed. -/
def withSign (et : ElemType) (neg : Bool) (c : Nat) : Nat :=
  if neg then c + 2 ^ (ElemType.bits et - 1) else c

/-- The largest finite code of a floating type (R115). -/
def maxFinite : ElemType → Nat
  | .fp32 => 0x7F7FFFFF
  | .bf16 => 0x7F7F
  | .fp16 => 0x7BFF
  | .e4m3 => 0x7E
  | .e5m2 => 0x7B
  | .fp4 => 7
  | _ => 3

/-- The infinity code of FP32, BF16, FP16, E5M2. -/
def infCode : ElemType → Nat
  | .fp32 => 0x7F800000
  | .bf16 => 0x7F80
  | .fp16 => 0x7C00
  | _ => 0x7C

/-- E4M3, FP4 and M8 saturate (R123). -/
def ElemType.saturates : ElemType → Bool
  | .e4m3 | .fp4 | .m8 => true
  | _ => false

/-- Round a nonzero finite magnitude into a type other than M8 (R122, R123). -/
def roundFin (et : ElemType) (rm : Rm) (r : Nat) (neg : Bool) (n d : Nat) (e : Int) : Nat × Flags :=
  let f := ElemType.fmt et
  let emin : Int := 1 - f.bias
  let x := log2q n d + e
  let q := max x emin - f.mb
  let (lo, rem, den) := inUnits n d e q
  let m := if roundUp rm neg (lo % 2 == 1) rem den r then lo + 1 else lo
  let c := (q - (emin - f.mb)).toNat * 2 ^ f.mb + m
  let inexact := rem != 0
  let beyond := if ElemType.saturates et
    then decide (c > maxFinite et) || (decide (lo + (q - (emin - f.mb)).toNat * 2 ^ f.mb = maxFinite et) && inexact)
    else decide (c > maxFinite et)
  if beyond then
    if ElemType.saturates et then (withSign et neg (maxFinite et), fSaturate ||| fInexact)
    else
      let toInf := match rm with
        | .rtz => false
        | .rup => !neg
        | .rdn => neg
        | _ => true
      (withSign et neg (if toInf then infCode et else maxFinite et), fOverflow ||| fInexact)
  else
    let tinyBound : Int := if et = .fp4 then -1 else emin
    let tiny := decide (x < tinyBound)
    (withSign et neg c, if inexact then (if tiny then fInexact ||| fUnderflow else fInexact) else 0)

/-- The M8 magnitude codes in rising order of value, +0 first (R120). -/
def m8Below (n d : Nat) (e : Int) : Nat :=
  (List.range 127).foldl (fun best k =>
    let c := k + 1
    let (s, f, ex) := m8Mag c
    if magLt n d e s 1 (ex - f) then best
    else if best = 0 then c
    else
      let (bs, bf, bx) := m8Mag best
      if magLt bs 1 (bx - bf) s 1 (ex - f) then c else best) 0

/-- The least M8 magnitude code above a value, 0 when none is. -/
def m8Above (n d : Nat) (e : Int) : Nat :=
  (List.range 127).foldl (fun best k =>
    let c := k + 1
    let (s, f, ex) := m8Mag c
    if !magLt n d e s 1 (ex - f) then best
    else if best = 0 then c
    else
      let (bs, bf, bx) := m8Mag best
      if magLt s 1 (ex - f) bs 1 (bx - bf) then c else best) 0

/-- Round a nonzero finite magnitude into M8 (R121). -/
def roundM8 (rm : Rm) (r : Nat) (neg : Bool) (n d : Nat) (e : Int) : Nat × Flags :=
  let sgn (m : Nat) : Nat := if m = 0 then 0 else if neg then m + 128 else m
  if magLt 1 1 16 n d e then (sgn 3, fSaturate ||| fInexact)
  else if magLt n d e 1 1 (-18) then
    let m := match rm with
      | .rtz => 0
      | .rup => if neg then 0 else 1
      | .rdn => if neg then 1 else 0
      | _ => if magLt n d e 1 1 (-19) then 0 else 1
    (sgn m, fInexact ||| fUnderflow)
  else
    let lo := m8Below n d e
    let (ls, lf, le) := m8Mag lo
    if !magLt ls 1 (le - lf) n d e then (sgn lo, 0)
    else
      let hi := m8Above n d e
      let (hs, hf, he) := m8Mag hi
      -- all three in units of 2^-40 over the denominator d
      let un (m : Nat) (x : Int) : Nat := m * pow2 (x + 40)
      let a := n * pow2 (e + 400) 
      let l := un ls (le - lf) * d * pow2 360
      let h := un hs (he - hf) * d * pow2 360
      let rem := a - l
      let gap := h - l
      let up := match rm with
        | .rne =>
          if 2 * rem > gap then true
          else if 2 * rem < gap then false
          else if lo % 2 ≠ hi % 2 then decide (hi % 2 = 0) else true
        | m => roundUp m neg false rem gap r
      (sgn (if up then hi else lo), fInexact)

/-- Round into an integer type of `w` bits (R123). -/
def roundInt (lo hi : Int) (w : Nat) (rm : Rm) (r : Nat) (x : Num) : Nat × Flags :=
  match x with
  | .nan => (0, fInvalid)
  | .inf neg => (wrapN w (if neg then lo else hi), fSaturate)
  | .fin neg n d e =>
    let (q, rem, den) := inUnits n d e 0
    let m := if roundUp rm neg (q % 2 == 1) rem den r then q + 1 else q
    let v : Int := if neg then -(m : Int) else m
    if v < lo then (wrapN w lo, fSaturate ||| fInexact)
    else if v > hi then (wrapN w hi, fSaturate ||| fInexact)
    else (wrapN w v, if rem = 0 then 0 else fInexact)

/-- Bounds of an integer type (R117). -/
def intBounds : ElemType → Int × Int
  | .int32 => (-2147483648, 2147483647)
  | .int16 => (-32768, 32767)
  | .int8 => (-128, 127)
  | .int4 => (-8, 7)
  | .uint8 => (0, 255)
  | _ => (0, 7)

/-- RoundTo(type, x, mode) of R122 and R123: the code and the flags; `r` is SR's 16-bit value. -/
def roundTo (et : ElemType) (rm : Rm) (r : Nat) (x : Num) : Nat × Flags :=
  if !ElemType.isFloat et then
    let (lo, hi) := intBounds et
    roundInt lo hi (ElemType.bits et) rm r x
  else match x with
    | .nan => (canonicalNan et, if et = .fp4 then fInvalid else 0)
    | .inf neg =>
      if ElemType.saturates et then
        (if et = .m8 then (if neg then 0x83 else 0x03) else withSign et neg (maxFinite et), fSaturate)
      else (withSign et neg (infCode et), 0)
    | .fin neg n d e =>
      if n = 0 then (if et = .m8 then 0 else withSign et neg 0, 0)
      else if et = .m8 then roundM8 rm r neg n d e
      else roundFin et rm r neg n d e

/-- Rounding with a generator: SR steps it once, whatever the value (R126). -/
def roundSr (et : ElemType) (rm : Rm) (g : W32) (x : Num) : Nat × Flags × W32 :=
  if rm = .sr then
    let g' := lfsrStep g
    let (c, f) := roundTo et rm (g'.toNat % 65536) x
    (c, f, g')
  else
    let (c, f) := roundTo et rm 0 x
    (c, f, g)

/-! ## Exact arithmetic -/

/-- Exact sum (R116, R124): an exact zero is +0, in RDN -0; like-signed zeros keep their sign. -/
def exactAdd (rm : Rm) (a b : Num) : Num × Flags :=
  match a, b with
  | .nan, _ | _, .nan => (.nan, 0)
  | .inf s, .inf t => if s = t then (.inf s, 0) else (.nan, fInvalid)
  | .inf s, .fin .. => (.inf s, 0)
  | .fin .., .inf t => (.inf t, 0)
  | .fin s n d e, .fin t m c f =>
    if n = 0 && m = 0 then (.zero (if s = t then s else rm == .rdn), 0)
    else
      let g := min e f
      let x : Int := (n * c * pow2 (e - g) : Nat)
      let y : Int := (m * d * pow2 (f - g) : Nat)
      let v := (if s then -x else x) + (if t then -y else y)
      if v = 0 then (.zero (rm == .rdn), 0)
      else (.fin (decide (v < 0)) v.natAbs (d * c) g, 0)

/-- Exact product (R124). -/
def exactMul (a b : Num) : Num × Flags :=
  match a, b with
  | .nan, _ | _, .nan => (.nan, 0)
  | .inf s, .inf t => (.inf (s != t), 0)
  | .inf s, .fin t m _ _ => if m = 0 then (.nan, fInvalid) else (.inf (s != t), 0)
  | .fin s n _ _, .inf t => if n = 0 then (.nan, fInvalid) else (.inf (s != t), 0)
  | .fin s n d e, .fin t m c f => (.fin (s != t) (n * m) (d * c) (e + f), 0)

/-- Exact quotient (R124). -/
def exactDiv (a b : Num) : Num × Flags :=
  match a, b with
  | .nan, _ | _, .nan => (.nan, 0)
  | .inf _, .inf _ => (.nan, fInvalid)
  | .inf s, .fin t _ _ _ => (.inf (s != t), 0)
  | .fin s _ _ _, .inf t => (.zero (s != t), 0)
  | .fin s n d e, .fin t m c f =>
    if m = 0 then (if n = 0 then (.nan, fInvalid) else (.inf (s != t), fDivZero))
    else (.fin (s != t) (n * c) (d * m) (e - f), 0)

/-- Integer square root by bits: the largest root below 2^k. -/
def isqrt : Nat → Nat → Nat → Nat
  | 0, _, acc => acc
  | k + 1, n, acc =>
    let c := acc + 2 ^ k
    isqrt k n (if c * c ≤ n then c else acc)

/-- Square root with a sticky last bit: below the least rounding step of FP32 it tells only exact from inexact. -/
def exactSqrt (a : Num) : Num × Flags :=
  match a with
  | .nan => (.nan, 0)
  | .inf s => if s then (.nan, fInvalid) else (.inf false, 0)
  | .fin s n d e =>
    if n = 0 then (.zero s, 0)
    else if s then (.nan, fInvalid)
    else
      -- the operand has d = 1; scale by an even power so that the root has over 70 bits
      let sh : Nat := if e % 2 = 0 then 160 else 161
      let v := n * 2 ^ sh / d
      let root := isqrt 100 v 0
      let sticky := if root * root = v then 0 else 1
      (.fin false (2 * root + sticky) 1 ((e - sh) / 2 - 1), 0)

/-- Fused a * b + c (R229): 0 times infinity is INVALID even beside a NaN addend. -/
def exactFma (rm : Rm) (a b c : Num) : Num × Flags :=
  let (p, f) := exactMul a b
  let (s, g) := exactAdd rm p c
  (s, f ||| g)

/-- Lesser or greater (R160): -0 is less than +0, a NaN operand gives NaN. `true` picks a. -/
def picksFirst (isMax : Bool) (a b : Num) : Bool :=
  let less := a.lt b || (a.isZero && b.isZero && a.isNeg && !b.isNeg)
  let more := b.lt a || (a.isZero && b.isZero && b.isNeg && !a.isNeg)
  if isMax then !less else !more

/-! ## Significance tags -/

/-- Precision P of a type and code (R128). -/
def precision (et : ElemType) (code : Nat) : Nat :=
  match et with
  | .fp16 => 11
  | .bf16 => 8
  | .e4m3 => 4
  | .e5m2 => 3
  | .fp4 => 2
  | .m8 => if code % 128 = 0 then 5 else (m8Mag (code % 128)).2.1 + 1
  | .fp32 => 24
  | _ => 31

/-- A tag as an instruction of that precision reads it (R128). -/
def readTag (p : Nat) (t : Tag) : Nat := min t.toNat p

/-- SubLimit of R130. -/
def subLimit (et : ElemType) (res : Num) (t : Nat) : Nat :=
  let f := ElemType.fmt et
  let emin : Int := 1 - f.bias
  if !res.isZero && res.isFinite && decide (res.exp < emin)
  then min t (res.exp - (emin - f.mb) + 1).toNat else t

/-- AddTag of R130: operands with tag and precision, the rounded result and its type. -/
def addTag (et : ElemType) (a : Num) (ta pa : Nat) (b : Num) (tb pb : Nat) (res : Num) : Nat :=
  let pr := precision et 0
  if res.isInf || res.isNan then 0
  else if res.isZero then (if ta = pa && tb = pb then pr else 0)
  else if (a.isZero && ta < pa) || (b.isZero && tb < pb) then 0
  else if a.isInf || b.isInf then 0   -- Exp of an infinity lies above every result's
  else
    let ra : Int := a.exp - ta
    let rb : Int := b.exp - tb
    let refpos := if a.isZero then rb else if b.isZero then ra else max ra rb
    subLimit et res (min (res.exp - refpos).toNat pr)

/-- MulTag of R130. -/
def mulTag (et : ElemType) (a : Num) (ta pa : Nat) (b : Num) (tb pb : Nat) (res : Num) : Nat :=
  let pr := precision et 0
  if res.isInf || res.isNan then 0
  else if (a.isZero && ta = pa) || (b.isZero && tb = pb) then pr
  else
    let t := min ta tb
    let t := if ta < pa && tb < pb then t - 1 else t
    subLimit et res (min t pr)

/-- MulTag of an exact product, which is no rounded value of a type: SubLimit does not touch it (R130). -/
def exactMulTag (et : ElemType) (a : Num) (ta pa : Nat) (b : Num) (tb pb : Nat) : Nat :=
  let pr := precision et 0
  let p := (exactMul a b).1
  if p.isInf || p.isNan then 0
  else if (a.isZero && ta = pa) || (b.isZero && tb = pb) then pr
  else
    let t := min ta tb
    min (if ta < pa && tb < pb then t - 1 else t) pr

/-- FMA's tag: MulTag for the exact product, then AddTag (R130). AddTag's Pa for the product is the result type's P (DESIGN CHOICE,
log 106). -/
def fmaTag (et : ElemType) (a : Num) (ta pa : Nat) (b : Num) (tb pb : Nat) (c : Num) (tc pc : Nat) (res : Num) : Nat :=
  let p := (exactMul a b).1
  let tp := exactMulTag et a ta pa b tb pb
  addTag et p tp (precision et 0) c tc pc res

/-- Square root and function rule of R130. -/
def funTag (ta pa : Nat) (res : Num) : Nat :=
  if res.isInf || res.isNan then 0 else if ta = pa then ta else ta - 1

/-- A result with its code, tag and flags. -/
structure Res where
  code : Nat
  tag : Nat
  flags : Flags
  sr : W32
deriving DecidableEq, Repr

/-- An operand: value, tag as read, precision. -/
structure Opd where
  val : Num
  tag : Nat
  p : Nat

/-- An operand from a code and a tag. -/
def opd (et : ElemType) (code : Nat) (t : Tag) : Opd :=
  let p := precision et code
  ⟨decodeNum et code, readTag p t, p⟩

/-- Finish an operation: round once, then tag the delivered value. -/
def finish (et : ElemType) (rm : Rm) (sr : W32) (x : Num × Flags) (tag : Num → Nat) : Res :=
  let (c, f, g) := roundSr et rm sr x.1
  ⟨c, tag (decodeNum et c), x.2 ||| f, g⟩

def fpAdd (et : ElemType) (rm : Rm) (sr : W32) (a b : Opd) : Res :=
  finish et rm sr (exactAdd rm a.val b.val) (addTag et a.val a.tag a.p b.val b.tag b.p)
def fpSub (et : ElemType) (rm : Rm) (sr : W32) (a b : Opd) : Res :=
  finish et rm sr (exactAdd rm a.val b.val.negate) (addTag et a.val a.tag a.p b.val.negate b.tag b.p)
def fpMul (et : ElemType) (rm : Rm) (sr : W32) (a b : Opd) : Res :=
  finish et rm sr (exactMul a.val b.val) (mulTag et a.val a.tag a.p b.val b.tag b.p)
def fpDiv (et : ElemType) (rm : Rm) (sr : W32) (a b : Opd) : Res :=
  finish et rm sr (exactDiv a.val b.val) (mulTag et a.val a.tag a.p b.val b.tag b.p)
/-- a * b + c, or a * b - c. -/
def fpFma (et : ElemType) (rm : Rm) (sr : W32) (sub : Bool) (a b c : Opd) : Res :=
  let cv := if sub then c.val.negate else c.val
  finish et rm sr (exactFma rm a.val b.val cv) (fmaTag et a.val a.tag a.p b.val b.tag b.p cv c.tag c.p)
def fpSqrt (et : ElemType) (rm : Rm) (sr : W32) (a : Opd) : Res :=
  finish et rm sr (exactSqrt a.val) (funTag a.tag a.p)
/-- MIN and MAX deliver an operand; a NaN gives the canonical NaN with tag 0. Of two equal operands the first is delivered, with its tag
(DESIGN CHOICE, log 139). -/
def fpMinMax (isMax : Bool) (et : ElemType) (ca cb : Nat) (a b : Opd) : Nat × Nat :=
  if a.val.isNan || b.val.isNan then (canonicalNan et, 0)
  else if picksFirst isMax a.val b.val then (ca, a.tag) else (cb, b.tag)

/-- Conversion by R74 and R123, with the tag of R130: same-type codes are unchanged. -/
def convert (dst src : ElemType) (rm : Rm) (sr : W32) (code : Nat) (t : Tag) : Res :=
  if dst = src then
    let res := decodeNum dst code
    ⟨code % 2 ^ ElemType.bits src,
      if !ElemType.isFloat dst then 31 else if res.isInf || res.isNan then 0 else readTag (precision src code) t, 0, sr⟩
  else
    let (c, f, g) := roundSr dst rm sr (decodeNum src code)
    let res := decodeNum dst c
    let tag := if !ElemType.isFloat dst then 31
      else if res.isInf || res.isNan then 0
      else if !ElemType.isFloat src then precision dst c
      else min (readTag (precision src code) t) (precision dst c)
    ⟨c, tag, f, g⟩

/-- Exact widening to FP32 (R116): a NaN becomes canonical. -/
def widen (src : ElemType) (code : Nat) : Nat :=
  if src = .fp32 then code % 2 ^ 32 else (roundTo .fp32 .rne 0 (decodeNum src code)).1

end Sys2Proof.Machine
end

