-- ==== Sys2Proof/Config.lean ====
section
/-! DEFINITION. What this device fixes (SV-FJ1) and the free values: opaque constants no proof can evaluate. -/

namespace Sys2Proof.Config

/-- Logical lookup cores, clusters and contexts per core (R6, R138). -/
def cores : Nat := 1024
def clusters : Nat := 64
def contexts : Nat := 16

/-- The device's own number on the row fabric. The spec gives none: free (DESIGN CHOICE, log 3). -/
opaque deviceNumber : BitVec 16

/-- Bytes the spec leaves open (a supervisor store, a certificate): free by a counter (DESIGN CHOICE, log 4). -/
opaque freeByte : Nat → Byte

/-- The readings of Ordel's sample `n`: every temperature, voltage and current (R401): free (DESIGN CHOICE, log 5). -/
opaque sensors : Nat → List Byte

/-- Module power and the hottest die's temperature, as Ordel derives them from a sample set (R401, R406): free (DESIGN CHOICE, log 5). -/
opaque modulePower : List Byte → Nat
opaque hottestDie : List Byte → Nat
def power (n : Nat) : Nat := modulePower (sensors n)
def dieTemp (n : Nat) : Nat := hottestDie (sensors n)

/-- The supervisor firmware that Ordel loads and measures (R405): free (DESIGN CHOICE, log 7). -/
opaque supFirmware : List Byte

/-- SHA-384 of a byte list (R404 names it, the manual does not define it): uninterpreted (DESIGN CHOICE, log 6). -/
opaque sha384 : List Byte → List Byte

/-- Ed25519 and ML-DSA-65 verification of an image under the vendor keys (R403): uninterpreted (DESIGN CHOICE, log 6). -/
opaque verifyEd25519 : List Byte → List Byte → Bool
opaque verifyMlDsa : List Byte → List Byte → Bool

/-- The two device signatures over a report (R404): uninterpreted (DESIGN CHOICE, log 6). -/
opaque signEd25519 : List Byte → List Byte
opaque signMlDsa : List Byte → List Byte

/-- Public keys and certificates that IDENTITY returns (R404): uninterpreted (DESIGN CHOICE, log 6). -/
opaque identity : List Byte

/-- Part number and stepping bytes of the attestation report (R404), SV-FJ1 B0 (R1): free layout (DESIGN CHOICE, log 6). -/
opaque partBytes : List Byte

/-- Whether the firmware image in a slot starts when tried (R403): free (DESIGN CHOICE, log 6). -/
opaque imageStarts : Nat → Nat → Bool

end Sys2Proof.Config
end

