-- ==== Sys2Proof/Machine/State.lean ====
section
/-! DEFINITION. The whole state of an SV-FJ1 module as plain data, and the machine right after reset (R405).
Units that a run has not touched are absent from a table and read as their reset record. -/

namespace Sys2Proof.Machine

/-! ## Names of units, causes and places -/

/-- The causes of R357. -/
inductive Cause where
  | illegal | priv | align | xlateMiss | xlatePerm | space | poison | promiseMissed | sendqFull | sigThreshold
  | shadow | fqUnderflow | domain | tokenOverflow | checkMismatch | voteFail | pairMismatch | matrixCheck
  | staleMap | dequeOverflow | trap | descriptor | watchdog | barrier
deriving DecidableEq, Repr

/-- The 8-bit code of a cause (R357). -/
def Cause.code : Cause → Nat
  | .illegal => 0x01 | .priv => 0x03 | .align => 0x04 | .xlateMiss => 0x05 | .xlatePerm => 0x06 | .space => 0x07
  | .poison => 0x08 | .promiseMissed => 0x09 | .sendqFull => 0x0A | .sigThreshold => 0x0B | .shadow => 0x0C
  | .fqUnderflow => 0x0D | .domain => 0x0E | .tokenOverflow => 0x0F | .checkMismatch => 0x10 | .voteFail => 0x11
  | .pairMismatch => 0x12 | .matrixCheck => 0x13 | .staleMap => 0x14 | .dequeOverflow => 0x15 | .trap => 0x16
  | .descriptor => 0x17 | .watchdog => 0x18 | .barrier => 0x19

/-- The recoverable causes (R357). -/
def Cause.recoverable : Cause → Bool
  | .promiseMissed | .sendqFull | .sigThreshold | .trap => true
  | _ => false

/-- Where an access is performed (R314): a location after resolution and translation. -/
inductive Place where
  | tile (core off : Nat)
  | scratch (cl off : Nat)
  | cmem (cl off : Nat)
  | hbm (pha : Nat)           -- home in bits 39:30, PCOFF in 29:0 (R49)
  | reg (core cl off : Nat)   -- ENGREG: the target core, its cluster, the offset (R416)
  | peer (dev addr : Nat)
  | host (addr : Nat)
deriving DecidableEq, Repr

/-- A unit's wait (R141, R363): `none` runs; the `retry` kinds re-issue the word; the others sleep until their event. -/
inductive Wait where
  | none
  | retry                       -- a stall that changes no state: the word issues again
  | refused (home id : Nat)     -- a read or atomic that a home has refused: its network interface retries it (R61, R328)
  | parked                      -- behind a frame or CMEM_FULL (R60, R111): replay re-issues
  | reply (id : Nat)            -- a read of another device's or the host's memory
  | token (q n : Nat)           -- TWAIT
  | promise (w : Nat)           -- WAITP on a slot
  | stat (addr : W64)           -- lookup WAITP on a STAT
  | counter (k n : Nat)         -- WAITC
  | untilTime (t : Nat)         -- WAITT
  | fence (halt : Bool)         -- CFENCE, HALT, falling off a load or store stream (R17)
  | msync (ids : List Nat)      -- MSYNC
  | wfe
  | epoch (tbl : Nat)           -- TEPOCH
  | barrier (slot : Nat)        -- BAR WAIT
  | carry (hi : Bool)           -- an absent carry granule: g4 to g7, or g0 to g3 (R372)
  | sending (q n : Nat)         -- a TSEND that has reserved its tokens and waits for its release (R86)
deriving DecidableEq, Repr

/-! ## Small records -/

/-- Z, N, C, V (R138). -/
structure Cond4 where
  z : Bool := false
  n : Bool := false
  c : Bool := false
  v : Bool := false
deriving DecidableEq, Repr

/-- A 64-bit address with a 19-bit signed stride (R138). -/
structure Ptr where
  addr : W64 := 0
  stride : BitVec 19 := 0
deriving DecidableEq, Repr

/-- A 32-bit lane with its tag (R128). -/
structure Lane where
  val : W32 := 0
  tag : Tag := 31
deriving DecidableEq, Repr

/-- A 64-bit scalar register with its tag (R209). -/
structure SReg where
  val : W64 := 0
  tag : Tag := 31
deriving DecidableEq, Repr

/-- The trap registers of R359. -/
structure TrapRegs where
  code : BitVec 20 := 0
  src : BitVec 4 := 0
  intrap : Bool := false
  cause : BitVec 8 := 0
  pc : W32 := 0
  addr : W64 := 0
  seq : BitVec 8 := 0
  save : BitVec 49 := 0
deriving DecidableEq, Repr

/-- What completions have set in a sticky register at a TIME: a W1C write of that clk leaves it set (R125). -/
structure Raised where
  bits : BitVec 6 := 0
  time : Nat := 0
deriving DecidableEq, Repr

/-- The numeric control registers of R137. -/
structure NumRegs where
  fflags : BitVec 6 := 0
  sigen : Bool := false
  thr : BitVec 5 := 0
  tagbase : BitVec 49 := 0
  sr : W32 := 1
  raised : Raised := {}
deriving DecidableEq, Repr

/-- A PUT's landing data (R148, R185). -/
structure PutInfo where
  parts : List (Place × Nat)   -- where the transformed bytes go, one part to a page
  name : W64 := 0
  xf : Nat := 0
  counter : Option Nat := none
  done : Nat := 0              -- words or granules written, by bit
  mtype : Nat := 0             -- the strictest MTYPE of its pages (R324)
  dvas : List Nat := []        -- the DVAs of its parts (R58)
deriving DecidableEq, Repr

/-- A task entry of a deque (R194): PC, argument, spawner; `cont` marks a continuation (R196). -/
structure Task where
  pc : W32
  arg : W64
  spawner : Nat
  cont : Bool := false
  victim : Option (Nat × BitVec 16) := none
deriving DecidableEq, Repr

/-- A message (R142, R180 to R186). -/
structure Message where
  id : Nat := 0                -- place among all work queued on the device (R352)
  chan : Nat := 0
  tag : BitVec 16 := 0
  srcDev : BitVec 16 := 0
  srcCore : Nat := 0
  srcCtx : Nat := 0
  dstDev : BitVec 16 := 0
  dstCore : Nat := 0
  payload : List Byte := []
  vn1 : Bool := false
  rq : Bool := false
  reply : Nat := 0
  rel : Bool := false
  put : Option PutInfo := none
  rollbacks : Nat := 0
  forwarded : Bool := false
  poisoned : Bool := false
  refused : Bool := false      -- waits for its network interface's retry (R61, R149)
  answers : Bool := false      -- a reply that came by the fabric: it holds a reservation (R149)
  task : Option Task := none   -- a task's activation (R194)
deriving DecidableEq, Repr

/-- Whose packet an access of a port serves: a host datagram's source, or a fabric packet's device; the port, its number. -/
structure PortReq where
  dev : Option (BitVec 16)     -- none: the host
  port : Nat
  seq : Nat
  ack : Bool := true           -- its sender asks for an acknowledgement
  who : Nat := 0               -- a host packet's source: IP address and port, as one number
  rel : Bool := false          -- a MEMWR that is a release (R391)
deriving DecidableEq, Repr

/-- A held or delayed store: the name it was made under, its place and its bytes (R147, R317). -/
structure Flight where
  who : UnitId
  name : W64
  place : Place
  bytes : List Byte
  wr : Option (Nat × ElemType) := none      -- scratchpad DOM and element type its writer supplies (R217)
  pc : W32 := 0                             -- the word that made it, and its compute number: what a late refusal reports (R396)
  seq : BitVec 8 := 0
  mtype : Nat := 0             -- MTYPE of its page (R56)
  bad : List Nat := []         -- bytes that carry poison (R82)
  cmd : Nat := 0               -- the copy command it belongs to, and the element its burst starts at (R82)
  elem : Nat := 0
  framerel : Bool := false     -- a FRAMEREL copy writes a frame in any state (R60)
  whole : Option (Bool × Bool) := none      -- Z and NF of the scratchpad block that its access writes whole (R217)
  atom : Option Scope := none  -- the write half of an atomic whose point is not the word's own (R329)
  serves : Option PortReq := none           -- the packet whose write it is part of (R316)
  port : Nat := 0              -- a write of host memory: its window's port (R392)
  id : Nat := 0                -- place among all work of the device at which its home refused it (R328)
deriving DecidableEq, Repr

/-- One held effect of an activation (R147). -/
inductive Held where
  | store (f : Flight)
  | msg (m : Message)
  | fence (kind scope : Nat)
deriving DecidableEq, Repr

/-- A running activation (R145 to R147). -/
structure Activation where
  chan : Nat
  msg : Message
  pos : Nat := 0               -- payload units consumed
  held : List Held := []
  committed : Bool := false
  replied : Bool := false
  join : Option W64 := none    -- a task's join record (R195); a continuation has none
  victim : Option (Nat × BitVec 16) := none  -- where a stolen task's forwarding entry stands, and its route tag (R349)
deriving DecidableEq, Repr

/-- Bytes that a reply delivered to a waiting word: the address asked for, and the bytes. -/
structure Delivered where
  addr : W64
  bytes : List Byte
  poison : Bool := false
deriving DecidableEq, Repr

/-- A table descriptor's words and epoch (R150). -/
structure TDesc where
  w0 : W64 := 0
  w1 : W64 := 0
  w2 : W64 := 0
  ucbase : BitVec 12 := 0
  epoch : W32 := 0
deriving DecidableEq, Repr

/-- A GATH, SCAT or SCATW that waits in its list: what it fixed at issue, its table descriptor, and the identifiers left (R173). -/
structure ListProg where
  left : Nat
  desc : TDesc
deriving DecidableEq, Repr

/-- A lookup-core context (R138). -/
structure LCtx where
  live : Bool := false
  pc : W32 := 0
  acc : BitVec 256 := 0
  accTags : List Tag := []     -- 32 fields; absent fields read 31
  p : Tab Ptr := []
  f : Cond4 := {}
  num : NumRegs := {}
  laneDone : BitVec 8 := 0
  trap : TrapRegs := {}
  act : Option Activation := none
  actCommitted : Bool := false
  wait : Wait := .none
  readyAt : Nat := 0
  markers : Nat := 0
  barSeen : Tab Nat := []      -- slot to the phase this context last arrived in, plus one
  bad : List Nat := []         -- poisoned registers (R375): 0 acc, 1 + n pointer pn
  delivered : List Delivered := []
  list : Option ListProg := none   -- a list instruction under way (R173)
  turns : Nat := 0             -- issue turns that its word with T has used (R141)
deriving DecidableEq, Repr

/-- A handler table entry (R143), with the aging count (R144). -/
structure Handler where
  valid : Bool := false
  mask : Bool := false
  pri : BitVec 3 := 0
  epri : BitVec 3 := 0
  entry : W32 := 0
  age : Nat := 0               -- TIME that the aging count runs from
deriving DecidableEq, Repr

/-- A row request or row operation on its way (R173, R174). -/
structure RowJob where
  id : Nat := 0                -- place among all work queued on the device (R352)
  acc : Nat := 0               -- the same, at acceptance by the row service unit
  isOp : Bool := false
  src : Nat := 0               -- requesting core
  srcDev : BitVec 16 := 0
  tbl : Nat := 0
  row : Nat := 0
  ctx : Nat := 0               -- requesting context
  dva : Nat := 0               -- the DVA at the device of the home
  via : Nat := 0               -- the DVA that the requester named (R58)
  mtype : Nat := 0             -- MTYPE of its page (R324)
  place : Place
  rowb : Nat := 0
  tet : Nat := 0               -- table element type code
  epoch : W32 := 0
  dest : W64 := 0              -- requester's landing address
  destOff : Nat := 0
  cvt : Option Nat := none
  counter : Option Nat := none
  set : Nat := 0               -- payload element type code
  write : Bool := false        -- SCATW
  payload : List Byte := []
  merge : Bool := false
  parts : Nat := 1
  flags : BitVec 6 := 0
  port : Option Nat := none    -- the fabric port it came by
  seq : Nat := 0               -- and its packet's number
  requesters : List (BitVec 16 × Nat) := []   -- devices and cores that a merged request asks for (R398)
  merged : Nat := 1            -- requests that a merged one stands for
  reply : Nat := 0             -- the reply channel that a ROWREQ carries (R396): nothing uses it (DESIGN CHOICE, log 134)
  refused : Bool := false      -- waits for its network interface's retry (R61)
deriving DecidableEq, Repr

/-- A row reply ready to land (R173). -/
structure RowLanding where
  job : RowJob
  bytes : List Byte
  poison : List Bool := []
  done : Nat := 0              -- granules written, by bit
deriving DecidableEq, Repr

/-- What a port's packet asks of memory (R390, R396). -/
inductive PortOp where
  | write (bytes : List Byte) (bad : List Nat := [])
  | read (len : Nat)
  | amo (op : Aop) (wide : Bool) (v c : W64)
deriving DecidableEq, Repr

/-- A host packet's access that waits for those its source sent before (R391). -/
structure HostHeld where
  src : PortReq
  dva : Nat
  op : PortOp
deriving DecidableEq, Repr

/-- An access of a port that is not yet performed in all its parts: what has come of a read, the old value of an atomic. -/
structure PortJob where
  req : PortReq
  dva : Nat
  op : PortOp
  got : List Delivered := []
  old : List Byte := []
deriving DecidableEq, Repr

/-- A parked access (R60): a waiting unit's read or atomic, a write, a row job, an outstanding scalar load, a host packet. -/
inductive Parked where
  | read (u : UnitId) (frame : Nat) (place : Place) (name : W64) (len : Nat)
  | amo (u : UnitId) (frame : Nat) (place : Place) (name : W64) (op : Aop) (wide : Bool) (v c : W64)
  | write (frame : Nat) (f : Flight)
  | row (frame : Nat) (j : RowJob)
  | load (frame : Nat) (u : UnitId) (reg : Nat) (place : Place) (len : Nat) (amo : Option (Aop × Bool × W64 × W64)) (mtype : Nat)
  | port (frame : Nat) (src : PortReq) (dva : Nat) (op : PortOp)
deriving DecidableEq, Repr

/-- A barrier slot at a core or for a cluster's dense core (R203, R353, R354). -/
structure BarSlot where
  valid : Bool := false
  dense : Bool := false
  cnt : Nat := 0
  x0 : Nat := 0
  y0 : Nat := 0
  w : Nat := 0
  h : Nat := 0
  count : Nat := 0             -- arrivals in the current phase at this core
  phase : Nat := 0             -- phases released here
  swept : Bool := false        -- this core's combined arrival has moved on
  rowIn : Bool := false        -- the arrivals from the east are here
  colIn : Bool := false        -- the arrivals from the south are here
deriving DecidableEq, Repr

/-- A cached leaf translation (R57): page base, log2 of its size, the leaf. -/
structure TlbEntry where
  page : Nat
  size : Nat
  leaf : Nat                   -- the 128-bit entry (R53)
deriving DecidableEq, Repr

/-- A marker on a queue (R352): it waits for the work of that queue numbered below it. -/
structure Marker where
  who : Option UnitId          -- none: an end-of-phase marker
  queue : Nat                  -- mask bit of R37
  cl : Nat
  id : Nat
  launch : Nat := 0
  parked : List (Nat × Parked) := []   -- plain accesses parked at the homes it looks at, as it was placed
deriving DecidableEq, Repr

/-- A logical lookup core with its home role (R138 to R155). -/
structure Core where
  ctxs : Tab LCtx := []
  channels : Tab (List Message) := []
  handlers : Tab Handler := []
  presets : Tab W64 := []      -- doubleword 16 * ch + 2n of address, 16 * ch + 2n + 1 of stride
  tdesc : Tab TDesc := []
  acks : Tab Nat := []         -- 4 * table + epoch slot to row operations not yet performed
  landing : Tab W32 := []
  useCtr : Tab (BitVec 48) := []
  niflags : BitVec 6 := 0
  raised : Raised := {}
  vn0 : List Message := []     -- claimed and sent, not yet accepted
  vn1 : List Message := []
  resv : Nat := 0              -- reply-store reservations
  reqStore : Nat := 0          -- accepted VN0 messages (R411)
  puts : List Message := []    -- accepted PUTs not yet landed
  rowReqs : List RowJob := []  -- outstanding rows of the row-request engine
  rowOps : List RowJob := []   -- row operations sent to other devices, not yet acknowledged
  rowOut : List RowJob := []   -- requests and operations on the way to their home
  rowQ : List RowJob := []     -- accepted by this core's row service unit
  landings : List RowLanding := []
  ucQ : List (Nat × Nat) := [] -- use-counter increments on the way to this core: the core that counts, the counter
  fq : List Parked := []
  frames : Tab Nat := []       -- 0 NORMAL, 1 FILLING, 2 POISONED
  retries : List Flight := []  -- refused writes (R61)
  deque : List Task := []      -- newest first; those beyond 64 stand in the spill area too
  worklist : List (List Byte) := []
  forward : List (BitVec 16 × Nat) := []
  lastVictim : Option Nat := none
  stolen : List (Nat × Task) := []   -- tasks whose footprint is being copied: victim and entry
  bar : Tab BarSlot := []
  tlb : List TlbEntry := []
  levelSent : Nat := 0         -- levelling intervals decided
  last : Nat := 15             -- the context that issued last (R141)
  slotAt : Nat := 0            -- TIME of the core's next issue slot
deriving DecidableEq, Repr

/-! ## The dense core -/

/-- A result still in flight (R222): the register, its new value, and when it lands (`none`: variable latency). -/
inductive PendDest where
  | s (r : Nat) | v (r : Nat) | e (ctx r : Nat) | k (r : Nat) | k15 | m (r : Nat) | em (ctx r : Nat)
  | t (n : Nat)                -- a half of a t register, by its control register's number: no result's
deriving DecidableEq, Repr

inductive PendVal where
  | sreg (x : SReg)
  | lanes (mask : W64) (xs : List Lane)   -- the lanes written; the others keep what they hold at landing
  | word (x : W64)
  | wait                       -- the data has not come (parked, or read elsewhere)
deriving DecidableEq, Repr

structure Pending where
  who : UnitId
  dest : PendDest
  val : PendVal
  due : Option Nat
  pc : W32 := 0
  poison : Bool := false
  seq : Option (BitVec 8) := none   -- the compute or epilogue word it is of (R360)
  kept : Bool := false         -- outstanding since before a freeze (R222)
  flags : BitVec 6 := 0        -- what the word's completion ORs into its FFLAGS (R125)
  conv : Nat := 0              -- how the bytes of a waiting load become the register (R230): 0 byte, 1 half, 2 word, 3 doubleword, 4 word and tag byte
  half : Option (List Byte) := none   -- the part of a tagged load that has come
deriving DecidableEq, Repr

/-- One of the four sequencers (R207). -/
structure Seqr where
  live : Bool := false         -- false: halted
  pc : W32 := 0
  num : NumRegs := {}
  sbchk : Bool := false
  trap : TrapRegs := {}
  wait : Wait := .none
  readyAt : Nat := 0
  latch : Bool := false
  n : Tab (BitVec 16) := []
  seq : BitVec 8 := 0          -- number of the compute word in issue (R261)
  delivered : List Delivered := []
deriving DecidableEq, Repr

/-- A descriptor register with its shadow fill (R85): 256 bytes, absent bytes zero. -/
structure DReg where
  act : List Byte := []
  poison : Bool := false
  fill : Option (List (Place × Nat × W64)) := none   -- parts still to be read: place, length, name
  id : Nat := 0                -- the fill's place among all work queued on the device
deriving DecidableEq, Repr

/-- An operand address register pair (R210). -/
structure TReg where
  base : W64 := 0
  attr : W64 := 0
deriving DecidableEq, Repr

/-- A promise slot (R77). `cmd` is the copy command it tracks. -/
structure Slot where
  valid : Bool := false
  done : Bool := false
  promise : BitVec 56 := 0
  cmd : Option Nat := none
deriving DecidableEq, Repr

/-- A sequence ring entry (R360). -/
structure RingEnt where
  seq : BitVec 8 := 0
  src : BitVec 4 := 0
  done : Bool := false
  pc : W32 := 0
deriving DecidableEq, Repr

/-- How an engine's operation ends once its writes are performed (R216, R305): its status register, and the cause that stops the
node. -/
structure EngEnd where
  status : Nat
  stop : Option (Cause × W64) := none
deriving DecidableEq, Repr

/-- An engine's register sets (R216), and what a running operation has still to do: writes that the copy engine has not yet taken
(R63), each an address and bytes with poison, and its end. -/
structure Engine where
  act : Tab W64 := []
  shadow : Tab W64 := []
  ready : Bool := false
  busy : Bool := false
  spill : List (W64 × List (Byte × Bool)) := []
  result : Option EngEnd := none
deriving DecidableEq, Repr

/-- An accumulator bank of the four engines (R262, R274, R284). Elements 64 * row + column; KSPLIT part 1 in rows 16 up. -/
structure AccBank where
  el : Tab Lane := []
  kind : Option (Nat × Nat) := none   -- ACC kind and grant MODE
  chkValid : Bool := false
  chk : Tab W32 := []                 -- check(i) at engine * 16 + row: an FP32 code, or an integer
  bound : Tab W32 := []               -- U(i), an FP32 code
  bad : List Nat := []                -- poisoned elements (R375)
deriving DecidableEq, Repr

/-- A tile command with what it captured (R279, R80). -/
structure MCmd where
  id : Nat := 0
  word : Instr
  fmt : W32 := 0
  regs : List TReg := []       -- captured t registers: operand A or output, its scale, operand B, its scale
  grant : W64 := 0
  kprime : Nat := 0
  tagbase : BitVec 49 := 0
  seq : BitVec 8 := 0
  thr : Option (BitVec 5) := none
  follow : Bool := false
  copy : Nat := 0              -- the copy command a follow-on waits for
  pc : W32 := 0
  flags : BitVec 6 := 0
  miss : Bool := false         -- a MATRIX_CHECK miss was seen
  low : Bool := false          -- a tag below THR was written
deriving DecidableEq, Repr

/-- A row in the drain buffer (R275, R289). -/
structure DrainRow where
  id : Nat := 0
  cmd : Nat
  lanes : List Lane
  row : Nat
  out : W64
  epi : Nat
  state : Nat                  -- 0 waiting for a context, 1 in a context, 2 ready for release
  bytes : List Byte := []
  tags : List Byte := []
  fmt : W32 := 0
  tagbase : BitVec 49 := 0
  et : Nat := 0
  last : Bool := false
deriving DecidableEq, Repr

/-- An epilogue context (R209, R258). -/
structure Epi where
  live : Bool := false
  pc : W32 := 0
  e : Tab (List Lane) := []
  m : Tab W64 := []
  k15 : W64 := 0
  sr : W32 := 1
  row : Nat := 0               -- identity of the row it serves
  outDone : Bool := false
  seq : BitVec 8 := 0
  readyAt : Nat := 0
  wait : Wait := .none
  delivered : List Delivered := []
deriving DecidableEq, Repr

/-- A late fault waiting for its freeze (R261, R364). -/
structure LateFault where
  cause : Cause
  addr : W64
  seq : BitVec 8
  src : Nat
  pc : W32
  resume : W32
  code : Nat := 0
deriving DecidableEq, Repr

/-- A freeze (R363): the unit whose handler runs; whether its stream had halted, and the barrier it slept at, which it takes up
again at the return. -/
structure Freeze where
  handler : UnitId
  halted : Bool := false
  barrier : Option Nat := none
deriving DecidableEq, Repr

/-- A dense core (R207 to R219). -/
structure Dense where
  sc : Seqr := { trap := { save := 0x1FFF000 } }
  ld : Seqr := {}
  st : Seqr := {}
  cp : Seqr := { trap := { save := 0x1FFF800 } }
  s : Tab SReg := []
  v : Tab (List Lane) := []
  k : Tab W64 := []
  k15 : W64 := 0
  m : Tab W64 := []
  epi : Tab Epi := []
  t : Tab TReg := []
  w : Tab Slot := []
  q : Tab Nat := []
  qres : Tab Nat := []
  fq : List W32 := []
  fqBad : List Nat := []       -- places of poisoned format words (R375)
  grant : W64 := 0
  mengok : BitVec 4 := 0xF
  vdom : BitVec 2 := 0
  bankstall : BitVec 48 := 0
  efbt : BitVec 8 := 1
  ringidx : BitVec 8 := 0
  ring : Tab RingEnt := []
  nextSeq : BitVec 8 := 0
  dload : Tab DReg := []       -- load sequencer's d0 to d15
  dstore : Tab DReg := []
  eng : Tab Engine := []
  bank0 : AccBank := {}
  bank1 : AccBank := {}
  mq : List MCmd := []
  running : List MCmd := []
  follow : List MCmd := []
  drain : List DrainRow := []
  pend : List Pending := []
  relay : List Pending := []   -- loads that have landed in a handler and land again at its return (R222)
  frozen : Option Freeze := none
  late : List LateFault := []
  vfault : Option (LateFault × Nat × Nat) := none   -- a late fault whose freeze is to come: issue groups still allowed, TIME of the last (R261, R365)
  mfault : Bool := false       -- a matrix fault's freeze or stop: queued commands do not start (R287)
  epiReads : Nat × List Nat := (0, [])   -- clk of the last epilogue issue and its reads by bank (R220)
  mxsr : Tab W32 := []         -- generators of the four engines
  epiAt : Nat := 0             -- TIME of the next epilogue issue slot (R220)
  popAt : Nat := 0             -- TIME after the last pop of the format queue (R212)
  loading : List PendDest := []   -- registers that the compute word in issue still loads (R222, R258)
  mqAt : Nat := 0              -- TIME from which the matrix arbiter may accept again (R281)
  markers : Nat := 0           -- MKOUT
  bad : List PendDest := []    -- poisoned registers (R375)
  bar : Tab BarSlot := []
  barSeen : Tab Nat := []
deriving DecidableEq, Repr

/-! ## Copy engine and cluster -/

inductive CopyState where
  | queued | running | suspended | failed
deriving DecidableEq, Repr

/-- Accesses of a copy command's issuer that were not yet performed at its acceptance (R79, R326): stores, PUTs by number, descriptor fills by number. -/
structure Earlier where
  stores : List Flight := []
  puts : List Nat := []
  fills : List Nat := []       -- DLOAD fills, by number
  rows : List Nat := []        -- row jobs, by number, that the type of its pages orders before it (R324)
deriving DecidableEq, Repr

/-- Where a copy command stood before a burst whose writes left for another device or the host (R82, R93, R96, R99). -/
structure CopyMark where
  pos : Nat
  left : Nat
  crc : W32
  sum : W64
  chunkSrc : Nat
  chunkCrc : W32
  chunkPos : Nat
  chunkSum : W64
  sr : W32                     -- its requester's generator
deriving DecidableEq, Repr

/-- An accepted copy command (R63 to R105). -/
structure CopyCmd where
  id : Nat
  desc : List Byte
  q : Nat
  issuer : UnitId
  core : Nat := 0              -- issuing coordinate (R43)
  who : Nat := 0               -- WHO of CEFAULT
  statAt : Option Nat := none  -- tile offset of the descriptor (lookup)
  slot : Option Nat := none
  acq : Bool := false
  rel : Bool := false
  scope : Nat := 0
  tok : Option Nat := none
  counter : Option Nat := none
  follow : Option MCmd := none
  promise : BitVec 56 := 0
  allow : Nat := 0
  tagbase : BitVec 49 := 0
  state : CopyState := .queued
  pos : Nat := 0               -- elements written
  left : Nat := 0              -- bytes that a promise still counts (R76, R78)
  crc : W32 := 0xFFFFFFFF
  sum : W64 := 0
  flags : BitVec 6 := 0
  tblFor : Option Nat := none  -- codebook block whose table has been read
  tbl : List Byte := []
  tblPoison : Bool := false    -- the block's table was poisoned
  srcPos : Nat := 0            -- WSTREAM source offset of the next record
  tile : List (Byte × Bool) := []   -- WSTREAM bytes of the current tile not yet written, with poison
  cache : List (Nat × List (Byte × Bool)) := []   -- the last 64 tiles (R98), newest first
  chunkSrc : Nat := 0          -- progress record (R99)
  chunkCrc : W32 := 0xFFFFFFFF
  chunkPos : Nat := 0
  chunkSum : W64 := 0
  frames : List (Nat × Nat) := []   -- HBM frames written: home, frame (FRAMEREL)
  marks : List CopyMark := []       -- restart points of bursts not yet acknowledged
  mtype : Nat := 0                  -- the strictest MTYPE of its sides (R324)
  before : Earlier := {}            -- what its acquire or release orders before it
  poisoned : Bool := false          -- it has read poison (R82)
  spill : List (Byte × Bool) := []  -- the bytes of a transform's spill write, with poison (R63)
deriving DecidableEq, Repr

/-- A copy command's completion record (R65, R82): its number, its WHO, its requester, a cause code or 0, the poison it read. The
spec gives the record no layout and no place (DESIGN CHOICE, log 97). -/
structure CopyRec where
  id : Nat
  who : Nat
  q : Nat
  cause : Nat := 0
  poison : Bool := false
deriving DecidableEq, Repr

/-- The copy engine (R63, R83, R104). -/
structure CopyEng where
  q : Tab (List CopyCmd) := []
  turn : Nat := 0              -- requester whose grants are being used
  used : Nat := 0              -- bursts granted to it this round
  last : Tab (BitVec 56) := []
  rate : W32 := 0x050B1717
  allow0 : W64 := 0x0000040000000080
  allow1 : W64 := 0x0001000000002000
  cflags : BitVec 6 := 0
  raised : Raised := {}
  fault : Tab W64 := []
  cklast : Tab W64 := []
  sr : Tab W32 := []
  records : List CopyRec := []   -- newest first
  waits : Tab Wait := []       -- MODEL: reads of requesters, fills and engines that a home has refused (R328)
  delivered : Tab (List Delivered) := [] -- bytes of other devices' memory for requester q; 4, 5: descriptor fills; 6 to 8: engines; 16 + n: the BARRIER node of launch n
deriving DecidableEq, Repr

/-- A cluster memory block's stored form (R106). -/
inductive Form where
  | zero | const | narrow16 | raw
deriving DecidableEq, Repr

/-- A parked miss (R111): the block it waits for, and the access. -/
structure MissPark where
  block : Nat
  acc : Parked
deriving DecidableEq, Repr

/-- Cluster memory and its Lantern (R106 to R112). -/
structure CMem where
  forms : Tab Form := []       -- absent: ZERO
  lantern : List (Nat × Bool) := []   -- resident blocks, most recently used first, with dirty bits
  evicting : Option Nat := none
  waiting : List Flight := []  -- whole-block copy writes that wait for sectors as victims do, oldest first (R110)
  parked : List MissPark := []   -- parked misses in arrival order
  free : Nat := 6029312
  resTgt : Nat := 262144
  res : Nat := 262144
  full : Bool := false
  bad : List (Nat × Nat × Bool) := []   -- uncorrectable sectors: block, sector (8: the map entry), whether found (R114, R377)
  soft : List (Nat × Nat) := []         -- sectors that hold a correctable error
deriving DecidableEq, Repr

/-- The stop report (R367). -/
structure StopReport where
  second : Bool := false
  intrap : Bool := false
  src : BitVec 4 := 0
  core : BitVec 10 := 0
  cause : BitVec 8 := 0
  pc : W32 := 0
  seq : BitVec 8 := 0
  addr : W64 := 0
deriving DecidableEq, Repr

/-- Reliability registers (R381). -/
structure Reliab where
  failed : BitVec 17 := 0
  failedNow : BitVec 17 := 0   -- the failed cores that the map in force leaves out (R384)
  spareUsed : Bool := false
  spareFor : BitVec 4 := 0
  denseFail : Bool := false
  engok : BitVec 4 := 0xF
  ecccorr : W32 := 0
  eccunc : W32 := 0
  callretry : W32 := 0
  votefix : BitVec 16 := 0
  rollbacks : BitVec 16 := 0
  pairmask : BitVec 8 := 0
  pairNow : BitVec 8 := 0      -- the mask in force since the node start
  snapG : Tab W64 := []
  snapEp : Tab W64 := []
deriving DecidableEq, Repr

/-- Carry registers at a node's corner cluster (R345, R372): the second list holds the absent granules' save record. -/
structure Carry where
  g : Tab W64 := []
  absentLo : Bool := false
  absentHi : Bool := false
  savePtr : W64 := 0
deriving DecidableEq, Repr

structure Cluster where
  dense : Dense := {}
  ce : CopyEng := {}
  cm : CMem := {}
  rel : Reliab := {}
  report : StopReport := {}
  carry : Carry := {}
  smq : BitVec 17 := 0
  tlb : List TlbEntry := []
deriving DecidableEq, Repr

/-! ## Launches, nodes, supervisor, host, fabric, Ordel -/

/-- The node header facts a running node uses (R341, R344). -/
structure Node where
  desc : List Byte := []       -- the 128-byte node descriptor
  image : W64 := 0
  x0 : Nat := 0
  y0 : Nat := 0
  w : Nat := 0
  h : Nat := 0
  dense : Bool := false        -- dense cores of its clusters belong to it
  streams : List (Nat × Nat × Nat × Nat) := []   -- offset, length, entry, trap vector of streams 0 to 4
  dtBase : Nat := 0
  dtCount : Nat := 0
  ctBase : Nat := 0
  ctCount : Nat := 0
  epis : List Nat := []        -- 16 epilogue entries
  gen : Nat := 0               -- map generation (R368)
  started : Nat := 0           -- unstopped clk since start, at `since`
  since : Nat := 0
  stopped : Bool := false
  ended : Bool := false        -- end-of-phase markers placed
  levelBase : Nat := 0
  map : Option (Tab (Option Nat)) := none   -- the cluster map this node still runs under (R368)
deriving DecidableEq, Repr

inductive LaunchState where
  | waiting | running | boundary | onNode | retired
deriving DecidableEq, Repr

/-- A launch (R336 to R342). -/
structure Launch where
  id : Nat
  bytes : List Byte
  queue : Nat
  arrival : Nat
  recAddr : W64
  state : LaunchState := .waiting
  index : Nat := 0
  node : Option Node := none
  epochs : Tab W32 := []
  items : Nat := 0
  g : Tab W64 := []            -- carry values between nodes
  absentLo : Bool := false
  absentHi : Bool := false
  savePtr : W64 := 0
  indexSaved : Bool := false   -- the node index, and the epochs, are still in the save record (R372)
  epochsSaved : Bool := false
  wrote : Nat := 0             -- writes of its requeue made: the save record, SAVEREC (R337, R340)
  saveAt : W64 := 0            -- where its save record goes
  sent : Option Nat := none    -- its completion record, sent and not yet acknowledged (R392)
  failCause : Option Cause := none
deriving DecidableEq, Repr

/-- A supervisor core. -/
structure Sup where
  live : Bool := true
  pc : W32 := 0
  s : Tab SReg := []
  num : NumRegs := {}
  sbchk : Bool := false
  trap : TrapRegs := {}
  wait : Wait := .none
  readyAt : Nat := 0
  latch : Bool := false
  markers : Nat := 0
  bad : List Nat := []         -- poisoned registers (R375)
  base : W64 := 0              -- where its firmware lies (DESIGN CHOICE, log 7)
  len : Nat := 0
  pend : List Pending := []
  delivered : List Delivered := []
deriving DecidableEq, Repr

/-- A host window (R392). -/
structure Window where
  isOpen : Bool := false
  base : Nat := 0
  len : Nat := 0
  r : Bool := false
  w : Bool := false
  port : Nat := 0
deriving DecidableEq, Repr

/-- A system map entry (R55): valid, R, W and the route's ports. -/
structure SysEnt where
  valid : Bool := false
  r : Bool := false
  w : Bool := false
  route : List Nat := []
deriving DecidableEq, Repr

/-- A packet the device has sent to the host (R390). -/
structure HostPkt where
  type : Nat
  seq : Nat
  addr : Nat
  aux : Nat
  payload : List Byte
  port : Nat := 0
  ackreq : Bool := false
  dest : Option Nat := none    -- the source it answers, or a notice's EVDEST; none: the host of the window or record
deriving DecidableEq, Repr

/-- What a fabric packet carries (R396). -/
inductive FabBody where
  | rowReq (j : RowJob)
  | rowData (jobs : List RowJob) (bytes : List Byte) (poison : List Bool)
  | rowAcc (j : RowJob)
  | memRd (addr len : Nat) (sc : Scope) (u : UnitId)
  | memWr (addr : Nat) (bytes : List Byte) (bad : List Nat) (sc : Scope) (u : UnitId)   -- `bad`: bytes in granules whose poison bit is set
  | atomic (addr aop : Nat) (sc : Scope) (v c : W64) (wide : Bool) (u : UnitId)
  | msg (m : Message)
  | ack (seq parts : Nat)
  | nack (seq : Nat) (reason : Nat)
  | data (seq : Nat) (bytes : List Byte) (core : Nat)
deriving DecidableEq, Repr

/-- A fabric packet (R396, R397). -/
structure FabPkt where
  id : Nat := 0
  seq : Nat
  dev : BitVec 16
  body : FabBody
  tries : Nat := 0
deriving DecidableEq, Repr

/-- A fabric port (R395, R397). -/
structure Port where
  queue : List FabPkt := []    -- sent and not yet acknowledged by the next hop
  out : List FabPkt := []      -- everything sent, newest first
  nextSeq : Nat := 0
  seen : List Nat := []        -- sequence numbers received
  down : Bool := false
deriving DecidableEq, Repr

/-- An outstanding read of another device's or the host's memory: who waits, for what. -/
structure ExtRead where
  id : Nat
  u : UnitId
  addr : W64
  len : Nat
  reg : Option Nat := none     -- a scalar load's register
  place : Place := .host 0
  amo : Option (Aop × Bool × W64 × W64) := none
  mtype : Nat := 0
  cmd : Nat := 0               -- the copy command whose burst asks
  seq : Nat := 0               -- the packet that asks
  port : Nat := 0
  serves : Option PortReq := none   -- the packet whose answer this is
deriving DecidableEq, Repr

/-- A write of another device's or the host's memory that its home has not acknowledged (R65, R320): the packet that carries it. -/
structure ExtWrite where
  f : Flight
  port : Nat
  seq : Nat
deriving DecidableEq, Repr

/-- An accepted source window of the host protocol (R391). -/
structure Source where
  who : Nat                    -- IP address and port, as one number
  seqs : List Nat              -- last 64 accepted, newest first
deriving DecidableEq, Repr

/-- An entry of Ordel's log (R402). -/
structure LogEnt where
  devns : W64
  source : Nat
  cause : Nat
  detail : Nat
deriving DecidableEq, Repr

/-- A firmware slot (R403). -/
structure Image where
  bytes : List Byte := []
  version : Nat := 0
  fails : Nat := 0
deriving DecidableEq, Repr

/-- Ordel (R400 to R406). -/
structure Ordel where
  log : List LogEnt := []      -- newest first, at most 8,192
  logLost : W32 := 0
  slot0 : Image := {}
  slot1 : Image := {}
  running : Nat := 0
  next : Nat := 0              -- slot that the next reset runs
  minVersion : Nat := 0
  sample : Nat := 0            -- number of the latest sample
  sampleNs : W64 := 0
  powerLim : Nat := 2400
  duty : Nat := 16             -- sixteenths of the issue of lookup cores and matrix engines (R406)
  shut : Bool := false
  out : List (List Byte) := [] -- answers sent, newest first
  udp : BitVec 16 := 0x5F31
deriving DecidableEq, Repr

/-- What a checker or soft error does to the next issue (R378, R379, R381): plain data chosen outside the spec's rules. -/
inductive Disturb where
  | none
  | retryAgree (n : Nat)       -- Callipers retries that agree: of the word, or of n steps of a row instruction
  | retryFail                  -- Callipers second disagreement
  | voteTwo (n : Nat)          -- two of three candidates agree, in n lanes
  | voteNone                   -- all three differ
  | pairDiff                   -- a checked pair disagrees on its next request
deriving DecidableEq, Repr

/-- One turn of the agenda: clk that pass, and what then happens. -/
inductive Act where
  | issue (u : UnitId)
  | event (i : Instr) (a : EvArg)
deriving DecidableEq, Repr

structure Turn where
  dt : Nat
  act : Act
  late : Bool := false         -- this issue's stores are performed later (ACCESS_PERFORM)
  reads : Option Nat := none   -- granules that this issue reads before others may come between (R157, R172, R316)
  further : Nat := 0           -- issue groups that come after a late fault of this issue (R261)
  disturb : Disturb := .none
deriving DecidableEq, Repr

/-- The module. -/
structure State where
  time : Nat := 0
  devns : W64 := 0
  devFrac : Nat := 0           -- the fraction of a nanosecond DEVNS has run past, in 21 millionths of the rate
  ppm : Int := 0               -- DEVNS's rate correction, parts per million (R394)
  ptpLocked : Bool := false
  ready : Bool := false        -- bring-up finished (R405)
  powered : Bool := true
  cur : UnitId := .sup 0
  agenda : List Turn := []
  lateStores : Bool := false
  quota : Option Nat := none   -- MODEL: granules the turn may still read
  got : List Delivered := []   -- MODEL: granules it has read
  further : Nat := 0           -- MODEL: issue groups after a late fault of the turn's word
  disturb : Disturb := .none
  arg : EvArg := {}            -- MODEL: what the event in progress names
  mem : List Host.Cell := []
  poison : List Nat := []      -- poisoned 32-byte granules, by granule number, rising
  soft : List Nat := []        -- granules holding a correctable error (R375, R377)
  hard : List Nat := []        -- poisoned granules whose error no access or scrub step has found (R375, R377)
  smeta : Tab (Bool × Bool × Nat) := []   -- scratchpad block metadata Z, NF, DOM (R217)
  flights : List Flight := []  -- stores issued and not yet performed
  cores : Tab Core := []
  clusters : Tab Cluster := []
  sups : Tab Sup := []
  ptRoot : W64 := 0
  missForm : Bool := false     -- the malformed indication of the latest XLATE_MISS of a walk (R54, R151)
  sysMap : Tab SysEnt := []
  sysCached : Tab SysEnt := [] -- the entries that fabric ports have cached (R55)
  windows : Tab Window := []
  launches : List Launch := []
  nextLaunch : Nat := 1
  nextId : Nat := 1            -- MODEL: numbers queued work, so that a marker knows what stands before it (R352)
  markersOut : List Marker := []
  preemptMargin : W64 := 100000
  flogBase : BitVec 48 := 0
  flogHead : W32 := 0
  flogN : W32 := 0
  flogDrop : W64 := 0
  flogUsed : Nat := 0          -- records written since FLOGN was last written
  scrubHbm : BitVec 16 := 24
  scrubSram : BitVec 16 := 60
  hostUdp : BitVec 16 := 0x5F30
  hostDrop : W64 := 0
  evDest : W64 := 0
  sources : List Source := []
  hostSeq : Nat := 0
  hostOut : List HostPkt := [] -- packets sent, newest first
  unacked : List HostPkt := []
  portJobs : List PortJob := []   -- accesses of ports under way, oldest first
  hostHeld : List HostHeld := []  -- accesses behind a release of their source, oldest first
  portUp : List Bool := [true, true]
  extReads : List ExtRead := []
  extWrites : List ExtWrite := []
  extMsgs : List (Nat × FabPkt) := []  -- messages sent to other devices, not acknowledged by the destination: port and packet
  nextExt : Nat := 0
  ports : Tab Port := []
  ordel : Ordel := {}
  cmap : Tab (Option Nat) := []        -- logical to physical cluster; absent: identity
  view : Tab (Option Nat) := []        -- MODEL: the cluster map of the turn in progress
  cmapNew : List Nat := []             -- logical clusters edited since the last MAPFENCE
  smapNew : List (Nat × Nat × Bool) := []   -- spare edits not yet in force
  gen : Nat := 0
  changed : Tab Nat := []      -- logical cluster to the generation that changed it
  fresh : Nat := 0             -- MODEL: counter of free values (DESIGN CHOICE, log 4)
deriving DecidableEq, Repr

/-- Why a step faults: nothing does. Every cause of R357 is a trap or a node stop, which are next states; safe. -/
inductive Fault where
  /-- Raised by nobody; the interface asks for the type; safe. -/
  | never
deriving DecidableEq, Repr

/-- Why a step refuses. -/
inductive Refusal where
  /-- Raised by an arm of Dispatch whose instruction has no meaning yet; safe. -/
  | notModelled (mnemonic : String)
deriving DecidableEq, Repr

/-- The machine right after reset (R405): every store zero, the supervisor cores started, PTP not yet locked, which is the last
step of bring-up; no launch, no node. -/
def State.reset : State := {}

end Sys2Proof.Machine
end

