-- ==== Sys2Proof/Machine/Ops.lean ====
section
/-! DEFINITION. Accessors of units, memory and its poison, notices and item records, and taking a trap (R357 to R367)
with its return: the shared operations that every meaning is written over. -/

namespace Sys2Proof.Machine

/-! ## Geometry (R6, R7, R108) -/

def coreX (k : Nat) : Nat := k % 64
def coreY (k : Nat) : Nat := k / 64
def coreAt (x y : Nat) : Nat := x + 64 * y
def clusterOf (k : Nat) : Nat := coreX k / 4 + 16 * (coreY k / 4)
def coreIndex (k : Nat) : Nat := coreX k % 4 + 4 * (coreY k % 4)
def coreIn (cl i : Nat) : Nat := coreAt (cl % 16 * 4 + i % 4) (cl / 16 * 4 + i / 4)
def cornerCore (cl : Nat) : Nat := coreIn cl 0
def dieOf (k : Nat) : Nat := coreX k / 16 + 4 * (coreY k / 8)

end Sys2Proof.Machine

namespace Sys2Proof
open Sys2Proof.Machine

/-- The cluster of a dense, copy or engine unit. -/
def UnitId.cl : UnitId → Nat
  | .scalar c | .load c | .store c | .compute c | .epi c _ | .copy c _ | .engine c _ | .matrix c => c
  | .ctx k _ | .home k | .ni k => clusterOf k
  | .sup _ | .port _ | .host => 0
def UnitId.isDense : UnitId → Bool
  | .scalar _ | .load _ | .store _ | .compute _ | .epi _ _ | .engine _ _ | .matrix _ => true
  | _ => false
def UnitId.isSup : UnitId → Bool
  | .sup _ => true
  | _ => false
/-- The issuing coordinate (R43). -/
def UnitId.coord : UnitId → Option Nat
  | .ctx k _ | .home k | .ni k => some k
  | .scalar c | .load c | .store c | .compute c | .epi c _ | .copy c _ | .engine c _ | .matrix c => some (cornerCore c)
  | .sup _ | .port _ | .host => none
/-- The network interface that a unit's requests leave by (R328): its lookup core's, its dense core's, its supervisor core's. -/
def UnitId.source : UnitId → Nat
  | .ctx k _ | .home k | .ni k => k
  | .sup n => 2048 + n
  | .port n => 4096 + n
  | .host => 8192
  | u => 1024 + u.cl
/-- The units that share a unit's network interface and wait there for reads and atomics of their own. -/
def UnitId.neighbours : UnitId → List UnitId
  | .ctx k _ | .ni k | .home k => (List.range 16).map (UnitId.ctx k)
  | .sup n => [.sup n]
  | .port _ | .host => []
  | u => [.scalar u.cl, .load u.cl, .store u.cl, .compute u.cl] ++ (List.range 4).map (UnitId.epi u.cl) ++
      (List.range 6).map (UnitId.copy u.cl) ++ (List.range 3).map (UnitId.engine u.cl)
/-- The core whose record holds what that interface retries. -/
def UnitId.niCore (u : UnitId) : Nat := u.coord.getD 0
/-- The stream a unit runs: its number in the header (R344). -/
def UnitId.streamNo : UnitId → Nat
  | .ctx _ _ => 0
  | .load _ => 2
  | .store _ => 3
  | .compute _ | .epi _ _ => 4
  | _ => 1
/-- Source code of a unit (R360). -/
def UnitId.src : UnitId → Nat
  | .load _ => 1
  | .store _ => 2
  | .compute _ => 3
  | .epi _ e => 4 + e
  | .copy _ _ | .engine _ _ | .matrix _ | .ni _ | .home _ | .port _ | .host => 9
  | _ => 0
/-- The sequencer whose handler takes a unit's traps (R363). -/
def UnitId.handler : UnitId → UnitId
  | .load c | .store c => .scalar c
  | .epi c _ | .matrix c => .compute c
  | u => u
/-- Bytes a unit saves, and its LOCAL limit (R362). -/
def UnitId.saveSize : UnitId → Nat
  | .scalar _ => 512
  | _ => 256
def UnitId.localLimit : UnitId → Nat
  | .ctx _ _ => 2 ^ 21
  | _ => 2 ^ 25

end Sys2Proof

namespace Sys2Proof.Machine

/-- The physical cluster of a logical one under the map of this turn (R382); an unmapped one has a place of its own. -/
def State.physCl (s : State) (cl : Nat) : Nat :=
  match Tab.get (some cl) s.view cl with
  | some p => p
  | none => 64 + cl
/-- Where a logical core's state is kept. -/
def State.physCore (s : State) (k : Nat) : Nat := s.physCl (clusterOf k) * 16 + coreIndex k

/-! ## Units -/

def State.core (s : State) (k : Nat) : Core := Tab.get {} s.cores (s.physCore k)
def State.setCore (s : State) (k : Nat) (c : Core) : State := { s with cores := Tab.set s.cores (s.physCore k) c }
def State.onCore (s : State) (k : Nat) (f : Core → Core) : State := s.setCore k (f (s.core k))
def State.cluster (s : State) (cl : Nat) : Cluster := Tab.get {} s.clusters (s.physCl cl)
def State.setCluster (s : State) (cl : Nat) (c : Cluster) : State :=
  { s with clusters := Tab.set s.clusters (s.physCl cl) c }
def State.onCluster (s : State) (cl : Nat) (f : Cluster → Cluster) : State := s.setCluster cl (f (s.cluster cl))
def State.dense (s : State) (cl : Nat) : Dense := (s.cluster cl).dense
def State.onDense (s : State) (cl : Nat) (f : Dense → Dense) : State :=
  s.onCluster cl fun c => { c with dense := f c.dense }
def State.onCe (s : State) (cl : Nat) (f : CopyEng → CopyEng) : State := s.onCluster cl fun c => { c with ce := f c.ce }
def State.onRel (s : State) (cl : Nat) (f : Reliab → Reliab) : State := s.onCluster cl fun c => { c with rel := f c.rel }
def State.sup (s : State) (n : Nat) : Sup := Tab.get {} s.sups n
def State.onSup (s : State) (n : Nat) (f : Sup → Sup) : State := { s with sups := Tab.set s.sups n (f (s.sup n)) }

/-- A context as node start leaves it (R138), with its own save area (R362). -/
def LCtx.reset (c : Nat) : LCtx := { trap := { save := BitVec.ofNat 49 (0x1FF000 + 256 * c) } }
def Core.ctx (k : Core) (c : Nat) : LCtx := Tab.get (LCtx.reset c) k.ctxs c
def Core.setCtx (k : Core) (c : Nat) (x : LCtx) : Core := { k with ctxs := Tab.set k.ctxs c x }
def State.ctx (s : State) (k c : Nat) : LCtx := (s.core k).ctx c
def State.onCtx (s : State) (k c : Nat) (f : LCtx → LCtx) : State :=
  s.onCore k fun x => x.setCtx c (f (x.ctx c))

def Dense.epiCtx (d : Dense) (e : Nat) : Epi := Tab.get {} d.epi e
def Dense.setEpi (d : Dense) (e : Nat) (x : Epi) : Dense := { d with epi := Tab.set d.epi e x }
def Dense.engine (d : Dense) (e : Nat) : Engine := Tab.get {} d.eng e
def Dense.setEngine (d : Dense) (e : Nat) (x : Engine) : Dense := { d with eng := Tab.set d.eng e x }
def State.onEpi (s : State) (cl e : Nat) (f : Epi → Epi) : State :=
  s.onDense cl fun d => d.setEpi e (f (d.epiCtx e))


/-- Program counter of a unit. -/
def State.pc (s : State) : UnitId → W32
  | .ctx k c => (s.ctx k c).pc
  | .scalar c => (s.dense c).sc.pc
  | .load c => (s.dense c).ld.pc
  | .store c => (s.dense c).st.pc
  | .compute c => (s.dense c).cp.pc
  | .epi c e => ((s.dense c).epiCtx e).pc
  | .sup n => (s.sup n).pc
  | _ => 0

def State.setPc (s : State) (u : UnitId) (pc : W32) : State :=
  match u with
  | .ctx k c => s.onCtx k c fun x => { x with pc := pc }
  | .scalar c => s.onDense c fun d => { d with sc := { d.sc with pc := pc } }
  | .load c => s.onDense c fun d => { d with ld := { d.ld with pc := pc } }
  | .store c => s.onDense c fun d => { d with st := { d.st with pc := pc } }
  | .compute c => s.onDense c fun d => { d with cp := { d.cp with pc := pc } }
  | .epi c e => s.onEpi c e fun x => { x with pc := pc }
  | .sup n => s.onSup n fun x => { x with pc := pc }
  | _ => s

def State.wait (s : State) : UnitId → Wait
  | .ctx k c => (s.ctx k c).wait
  | .scalar c => (s.dense c).sc.wait
  | .load c => (s.dense c).ld.wait
  | .store c => (s.dense c).st.wait
  | .compute c => (s.dense c).cp.wait
  | .epi c e => ((s.dense c).epiCtx e).wait
  | .sup n => (s.sup n).wait
  | .copy c q => Tab.get .none (s.cluster c).ce.waits q
  | .engine c q => Tab.get .none (s.cluster c).ce.waits (6 + q)
  | _ => .none

def Wait.isRefused : Wait → Bool
  | .refused .. => true
  | _ => false
/-- A home has refused a read of a copy engine's or a sparse engine's, or has taken it: the only wait such a unit has. -/
def CopyEng.setWait (e : CopyEng) (i : Nat) (w : Wait) : CopyEng :=
  { e with waits := match w with
    | .refused .. => Tab.set e.waits i w
    | _ => Tab.drop e.waits i }

def State.setWait (s : State) (u : UnitId) (w : Wait) : State :=
  match u with
  | .ctx k c => s.onCtx k c fun x => { x with wait := w }
  | .scalar c => s.onDense c fun d => { d with sc := { d.sc with wait := w } }
  | .load c => s.onDense c fun d => { d with ld := { d.ld with wait := w } }
  | .store c => s.onDense c fun d => { d with st := { d.st with wait := w } }
  | .compute c => s.onDense c fun d => { d with cp := { d.cp with wait := w } }
  | .epi c e => s.onEpi c e fun x => { x with wait := w }
  | .sup n => s.onSup n fun x => { x with wait := w }
  | .copy c q => if (Tab.get .none (s.cluster c).ce.waits q == .none) && !w.isRefused then s else s.onCe c fun e => e.setWait q w
  | .engine c q =>
    if (Tab.get .none (s.cluster c).ce.waits (6 + q) == .none) && !w.isRefused then s else s.onCe c fun e => e.setWait (6 + q) w
  | _ => s

def State.readyAt (s : State) : UnitId → Nat
  | .ctx k c => (s.ctx k c).readyAt
  | .scalar c => (s.dense c).sc.readyAt
  | .load c => (s.dense c).ld.readyAt
  | .store c => (s.dense c).st.readyAt
  | .compute c => (s.dense c).cp.readyAt
  | .epi c e => ((s.dense c).epiCtx e).readyAt
  | .sup n => (s.sup n).readyAt
  | _ => 0

def State.setReadyAt (s : State) (u : UnitId) (t : Nat) : State :=
  match u with
  | .ctx k c => s.onCtx k c fun x => { x with readyAt := t }
  | .scalar c => s.onDense c fun d => { d with sc := { d.sc with readyAt := t } }
  | .load c => s.onDense c fun d => { d with ld := { d.ld with readyAt := t } }
  | .store c => s.onDense c fun d => { d with st := { d.st with readyAt := t } }
  | .compute c => s.onDense c fun d => { d with cp := { d.cp with readyAt := t } }
  | .epi c e => s.onEpi c e fun x => { x with readyAt := t }
  | .sup n => s.onSup n fun x => { x with readyAt := t }
  | _ => s

/-- The numeric control registers a unit uses; epilogue contexts use the compute sequencer's but SRSTATE (R135, R137). -/
def State.num (s : State) : UnitId → NumRegs
  | .ctx k c => (s.ctx k c).num
  | .scalar c => (s.dense c).sc.num
  | .load c => (s.dense c).ld.num
  | .store c => (s.dense c).st.num
  | .compute c => (s.dense c).cp.num
  | .epi c e => { (s.dense c).cp.num with sr := ((s.dense c).epiCtx e).sr }
  | .sup n => (s.sup n).num
  | _ => {}

def State.setNum (s : State) (u : UnitId) (x : NumRegs) : State :=
  match u with
  | .ctx k c => s.onCtx k c fun y => { y with num := x }
  | .scalar c => s.onDense c fun d => { d with sc := { d.sc with num := x } }
  | .load c => s.onDense c fun d => { d with ld := { d.ld with num := x } }
  | .store c => s.onDense c fun d => { d with st := { d.st with num := x } }
  | .compute c => s.onDense c fun d => { d with cp := { d.cp with num := x } }
  | .epi c e => (s.onDense c fun d => { d with cp := { d.cp with num := { x with sr := d.cp.num.sr } } }).onEpi c e
      fun y => { y with sr := x.sr }
  | .sup n => s.onSup n fun y => { y with num := x }
  | _ => s

/-- Completions set flags at TIME t. -/
def Raised.set (x : Raised) (f : Flags) (t : Nat) : Raised := { bits := if x.time = t then x.bits ||| f else f, time := t }
/-- A sticky register after a W1C write at TIME t (R125). -/
def Raised.clear (x : Raised) (old v : BitVec 6) (t : Nat) : BitVec 6 :=
  (old &&& ~~~ v) ||| (if x.time = t then old &&& x.bits else 0)
/-- Flags that a completion at TIME t raises. -/
def NumRegs.raise (x : NumRegs) (f : Flags) (t : Nat) : NumRegs :=
  { x with fflags := x.fflags ||| f, raised := x.raised.set f t }

/-- OR flags into the unit's FFLAGS and store its generator (R125, R126). -/
def State.collect (s : State) (u : UnitId) (f : Flags) (sr : W32) : State :=
  s.setNum u { (s.num u).raise f s.time with sr := sr }

/-- Is a tag below the unit's enabled threshold (R135)? -/
def State.sigLow (s : State) (u : UnitId) (tag : Nat) : Bool :=
  (s.num u).sigen && decide (tag < (s.num u).thr.toNat)

/-- Retire a word that falls through, with `idle` further issue slots (R15, R16). -/
def State.retireTo (s : State) (u : UnitId) (pc : W32) (idle : Nat) : State :=
  ((s.setPc u pc).setWait u .none).setReadyAt u (s.time + 1 + idle)
def State.retire (s : State) (u : UnitId) (idle : Nat) : State := s.retireTo u (s.pc u + 4) idle

/-! ## Memory -/

/-- One byte; an unlisted address reads zero (R107, R217, R405). -/
def memGet : List Host.Cell → Nat → Byte
  | [], _ => 0
  | (k, b) :: m, a => if k = a then b else memGet m a

/-- Write one byte, keeping the canonical form. -/
def memSet : List Host.Cell → Nat → Byte → List Host.Cell
  | [], a, b => if b = 0 then [] else [(a, b)]
  | (k, x) :: m, a, b =>
    if a < k then (if b = 0 then (k, x) :: m else (a, b) :: (k, x) :: m)
    else if a = k then (if b = 0 then m else (k, b) :: m)
    else (k, x) :: memSet m a b

/-- The canonical form: addresses strictly rising from above `lo`, no zero byte listed. -/
def memWfFrom : Option Nat → List Host.Cell → Bool
  | _, [] => true
  | lo, (k, b) :: m => (match lo with | none => true | some l => decide (l < k)) && b != 0 && memWfFrom (some k) m
def Memory.wf (m : List Host.Cell) : Bool := memWfFrom none m

def memRead (m : List Host.Cell) (a : Nat) : Nat → List Byte
  | 0 => []
  | n + 1 => memGet m a :: memRead m (a + 1) n
def memWrite (m : List Host.Cell) (a : Nat) : List Byte → List Host.Cell
  | [] => m
  | b :: bs => memWrite (memSet m a b) (a + 1) bs

/-- A rising list of numbers as a set. -/
def setInsert : List Nat → Nat → List Nat
  | [], a => [a]
  | x :: xs, a => if a < x then a :: x :: xs else if a = x then x :: xs else x :: setInsert xs a
def setRemove : List Nat → Nat → List Nat
  | [], _ => []
  | x :: xs, a => if x = a then xs else x :: setRemove xs a

/-- Flat keys: tile memories from 0, scratchpads from 2^33, cluster memories from 2^37, HBM from 2^42. -/
def scratchBase : Nat := 2 ^ 33
def cmemBase : Nat := 2 ^ 37
def hbmBase : Nat := 2 ^ 42

/-- A core index is served by the cluster's spare (R382). -/
def Reliab.spareServes (r : Reliab) (i : Nat) : Bool := r.spareUsed && decide (r.spareFor.toNat = i)
/-- A core whose physical core does not work under the map in force, or whose cluster is mapped to none (R382, R384). -/
def State.absent (s : State) (k : Nat) : Bool :=
  let r := (s.cluster (clusterOf k)).rel
  (Tab.get (some (clusterOf k)) s.view (clusterOf k)).isNone ||
    (if r.spareServes (coreIndex k) then r.failedNow.getLsbD 16 else r.failedNow.getLsbD (coreIndex k))
/-- The odd core of a checked pair in force (R381). -/
def State.oddPaired (s : State) (k : Nat) : Bool :=
  coreIndex k % 2 == 1 && (s.cluster (clusterOf k)).rel.pairNow.getLsbD (coreIndex k / 2)

def State.tileKey (s : State) (k off : Nat) : Nat :=
  (if (s.cluster (clusterOf k)).rel.spareServes (coreIndex k) then 2048 + s.physCl (clusterOf k) else s.physCore k)
    * 2 ^ 21 + off
def State.scratchKey (s : State) (cl off : Nat) : Nat := scratchBase + s.physCl cl * 2 ^ 25 + off
def State.cmemKey (s : State) (cl off : Nat) : Nat := cmemBase + s.physCl cl * 2 ^ 29 + off
def State.hbmKey (s : State) (pha : Nat) : Nat := hbmBase + s.physCore (pha / 2 ^ 30) * 2 ^ 30 + pha % 2 ^ 30

/-- The flat key of a place in this device's memories. -/
def State.key (s : State) : Place → Option Nat
  | .tile k off => some (s.tileKey k off)
  | .scratch cl off => some (s.scratchKey cl off)
  | .cmem cl off => some (s.cmemKey cl off)
  | .hbm pha => some (s.hbmKey pha)
  | _ => none

/-- The physical cluster that counts the errors of a key. -/
def keyCluster (a : Nat) : Nat :=
  if a ≥ hbmBase then (a - hbmBase) / 2 ^ 34
  else if a ≥ cmemBase then (a - cmemBase) / 2 ^ 29
  else if a ≥ scratchBase then (a - scratchBase) / 2 ^ 25
  else if a / 2 ^ 21 ≥ 2048 then a / 2 ^ 21 - 2048 else a / 2 ^ 25

def State.onPhysCluster (s : State) (p : Nat) (f : Cluster → Cluster) : State :=
  { s with clusters := Tab.set s.clusters p (f (Tab.get {} s.clusters p)) }

/-- Granules touched by n bytes at a key. -/
def granules (a n : Nat) : List Nat :=
  if n = 0 then [] else (List.range ((a + n - 1) / 32 - a / 32 + 1)).map (· + a / 32)

def State.poisoned (s : State) (a n : Nat) : Bool := (granules a n).any fun g => s.poison.elem g
def State.setPoison (s : State) (g : Nat) : State := { s with poison := setInsert s.poison g }

def sat32 (n : W32) : W32 := if n = 0xFFFFFFFF then n else n + 1
def sat16 (n : BitVec 16) : BitVec 16 := if n = 0xFFFF then n else n + 1

def State.readKey (s : State) (a n : Nat) : List Byte := memRead s.mem a n

/-- Write bytes at a key. Only a write of a whole granule replaces its poison (R376) and its soft error. -/
def State.writeKey (s : State) (a : Nat) (bs : List Byte) : State :=
  let whole := (granules a bs.length).filter fun g => decide (a ≤ 32 * g ∧ 32 * g + 32 ≤ a + bs.length)
  { s with
    mem := memWrite s.mem a bs
    poison := s.poison.filter fun g => !whole.elem g
    soft := s.soft.filter fun g => !whole.elem g
    hard := s.hard.filter fun g => !whole.elem g }

/-! ### Scratchpad block metadata (R217) -/

/-- What a scratchpad writer supplies: DOM and element type; absent: an unknown type. -/
abbrev Writer := Option (Nat × ElemType)

/-- The codes of a type packed in bytes, low bits first. -/
def unpackCodes (e : ElemType) (bs : List Byte) : List Nat :=
  if ElemType.bits e ≥ 8 then
    let w := ElemType.bits e / 8
    (List.range (bs.length / w)).map fun i => leNat ((bs.drop (i * w)).take w)
  else
    (List.range (bs.length * 8 / ElemType.bits e)).map fun i =>
      leNat bs / 2 ^ (i * ElemType.bits e) % 2 ^ ElemType.bits e

def nonFinite (e : ElemType) (bs : List Byte) : Bool :=
  ElemType.isFloat e && (unpackCodes e bs).any fun c => !(decodeNum e c).isFinite

/-- Metadata after a write of bytes at an offset of a scratchpad: block by block. A write of part of a block sets NF whatever its type
(DESIGN CHOICE, log 138). -/
def State.noteBlocks (s : State) (cl off : Nat) (bs : List Byte) (w : Writer) : State :=
  if bs.isEmpty then s else
  (List.range ((off + bs.length - 1) / 256 - off / 256 + 1)).foldl (fun s i =>
    let b := off / 256 + i
    let isWhole := decide (off ≤ 256 * b ∧ 256 * b + 256 ≤ off + bs.length)
    let data := (bs.drop (256 * b - off)).take 256
    let z := isWhole && data.all (· == 0)
    let m := match w with
      | some (dom, e) => (z, if isWhole then nonFinite e data else true, dom)
      | none => (z, true, 3)
    { s with smeta := Tab.set s.smeta (s.physCl cl * 131072 + b) m }) s

def State.blockMeta (s : State) (cl b : Nat) : Bool × Bool × Nat :=
  Tab.get (true, false, 0) s.smeta (s.physCl cl * 131072 + b)

/-- Perform a write at its point: bytes, poison marks and scratchpad metadata. -/
def State.writePlace (s : State) (p : Place) (bs : List Byte) (w : Writer) : State :=
  match s.key p with
  | none => s
  | some a =>
    let s' := s.writeKey a bs
    match p with
    | .scratch cl off => s'.noteBlocks cl off bs w
    | _ => s'

/-- Write the poison syndrome over the granules of n bytes at a place (R376); a scratchpad block keeps NF = 1, Z = 0. -/
def State.poisonPlace (s : State) (p : Place) (n : Nat) : State :=
  match s.key p with
  | none => s
  | some a =>
    let s' := (granules a n).foldl State.setPoison s
    match p with
    | .scratch cl off =>
      (List.range ((off + n - 1) / 256 - off / 256 + 1)).foldl (fun s i =>
        let b := off / 256 + i
        let (_, _, dom) := s.blockMeta cl b
        { s with smeta := Tab.set s.smeta (s.physCl cl * 131072 + b) (false, true, dom) }) s'
    | _ => s'

def Place.add : Place → Nat → Place
  | .tile k o, n => .tile k (o + n)
  | .scratch c o, n => .scratch c (o + n)
  | .cmem c o, n => .cmem c (o + n)
  | .hbm a, n => .hbm (a + n)
  | .reg k c o, n => .reg k c (o + n)
  | .peer d a, n => .peer d (a + n)
  | .host a, n => .host (a + n)

/-! ## Nodes -/

def Node.word (n : Node) (off : Nat) : Nat := leNat ((n.desc.drop off).take 8)
def Node.fenced (n : Node) : Bool := bits (n.word 0) 3 3 == 1
def Node.sharedCl (n : Node) (cl : Nat) : Bool := bits (n.word 0x20) cl cl == 1
def Node.hasCore (n : Node) (k : Nat) : Bool :=
  decide (n.x0 ≤ coreX k ∧ coreX k < n.x0 + n.w ∧ n.y0 ≤ coreY k ∧ coreY k < n.y0 + n.h)
/-- The whole cluster lies inside the rectangle (R343). -/
def Node.hasCluster (n : Node) (cl : Nat) : Bool := n.hasCore (coreIn cl 0) && n.hasCore (coreIn cl 15)
def Node.corner (n : Node) : Nat := coreAt n.x0 n.y0
def Node.cores (n : Node) : List Nat :=
  (List.range n.h).flatMap fun j => (List.range n.w).map fun i => coreAt (n.x0 + i) (n.y0 + j)
def Node.clusters (n : Node) : List Nat := (List.range 64).filter n.hasCluster
/-- Clusters that hold a core of the rectangle. -/
def Node.touched (n : Node) : List Nat := (List.range 64).filter fun cl => (List.range 16).any fun i => n.hasCore (coreIn cl i)
/-- Stream image: offset, length, entry, trap vector; 0 lookup, 1 scalar, 2 load, 3 store, 4 compute (R344). -/
def Node.stream (n : Node) (i : Nat) : Nat × Nat × Nat × Nat := n.streams.getD i (0, 0, 0, 0xFFFFFFFF)
def Node.wdog (n : Node) : Nat := bits (n.word 0x30) 63 32
def Node.levelInt (n : Node) : Nat := let v := bits (n.word 0x28) 63 32; if v = 0 then 8192 else v
def Node.levelTh (n : Node) : Nat := let v := bits (n.word 0x28) 15 0; if v = 0 then 16 else v

/-- The launch whose node runs on a core, or on a cluster's dense core. -/
def State.launchOfCore (s : State) (k : Nat) : Option Launch :=
  s.launches.find? fun l => match l.node with | some n => n.hasCore k | none => false
def State.launchOfDense (s : State) (cl : Nat) : Option Launch :=
  s.launches.find? fun l => match l.node with | some n => n.dense && n.hasCluster cl | none => false
def State.launchOf (s : State) (u : UnitId) : Option Launch :=
  match u with
  | .ctx k _ | .home k | .ni k => s.launchOfCore k
  | .sup _ | .port _ | .host => none
  | u => s.launchOfDense u.cl
def State.nodeOf (s : State) (u : UnitId) : Option Node := (s.launchOf u).bind (·.node)
def State.onLaunch (s : State) (id : Nat) (f : Launch → Launch) : State :=
  { s with launches := s.launches.map fun l => if l.id = id then f l else l }
def State.launch? (s : State) (id : Nat) : Option Launch := s.launches.find? fun l => decide (l.id = id)
def State.onNode (s : State) (id : Nat) (f : Node → Node) : State :=
  s.onLaunch id fun l => { l with node := l.node.map f }


/-- The cluster map in force for a unit: its node's until the node's boundary or a MAPFENCE (R368). -/
def State.viewFor (s : State) (u : UnitId) : State :=
  { s with view := match (s.nodeOf u).bind (·.map) with
    | some m => m
    | none => s.cmap }

/-- Byte length of the stream a unit runs. -/
def State.streamLen (s : State) (u : UnitId) : Nat :=
  match u with
  | .sup n => (s.sup n).len
  | u => match s.nodeOf u with
    | some n => (n.stream u.streamNo).2.1
    | none => 0

/-- Fabric ports of a device (R10). -/
def fabricPorts : Nat := 12

/-- The system map entry of a device: a fabric port's cached one, else the map's (R55). -/
def State.sysEnt (s : State) (dev : Nat) : SysEnt :=
  let c := Tab.get {} s.sysCached dev
  if c.valid then c else Tab.get {} s.sysMap dev
/-- A port caches the entry it uses, a valid one. -/
def State.useSys (s : State) (dev : Nat) : State :=
  let e := s.sysEnt dev
  if e.valid then { s with sysCached := Tab.set s.sysCached dev e } else s

/-- The next number of queued work (R352). -/
def State.stamp (s : State) : State := { s with nextId := s.nextId + 1 }

/-! ## Free values -/

/-- n bytes the spec leaves open (DESIGN CHOICE, log 4). -/
def State.freeBytes (s : State) (n : Nat) : List Byte × State :=
  ((List.range n).map fun i => Config.freeByte (s.fresh + i), { s with fresh := s.fresh + n })

/-! ## Notices and item records -/

/-- A packet to the host, kept until it is acknowledged when it asks for that (R389, R392). -/
def State.sendHost (s : State) (p : HostPkt) : State :=
  let p := { p with seq := s.hostSeq }
  { s with
    hostSeq := s.hostSeq + 1
    hostOut := p :: s.hostOut
    unacked := if p.ackreq then s.unacked ++ [p] else s.unacked }

/-- An event notice (R393), to the address in EVDEST, with ADDR 0 (R390): DEVNS, a word of detail, 16 bytes of the report. -/
def State.notice (s : State) (kind : Nat) (detail report : List Byte) : State :=
  s.sendHost { type := 7, seq := 0, addr := 0, aux := kind, dest := some s.evDest.toNat,
               payload := leBytes 8 s.devns.toNat ++ detail ++ report,
               port := if s.portUp.headD false then 0 else 1 }
/-- A notice whose detail and report the spec does not lay out: free (DESIGN CHOICE, log 4). -/
def State.noticeFree (s : State) (kind : Nat) : State :=
  let (d, s) := s.freeBytes 24
  s.notice kind (d.take 8) (d.drop 8)

/-- An entry of Ordel's log, the oldest dropped and counted when it is full (R402). -/
def State.ordelLog (s : State) (source cause detail : Nat) : State :=
  let e : LogEnt := { devns := s.devns, source := source, cause := cause, detail := detail }
  let o := s.ordel
  { s with ordel := { o with
      log := (e :: o.log).take 8192
      logLost := if o.log.length ≥ 8192 then sat32 o.logLost else o.logLost } }

/-! ## Errors (R375) -/

/-- A corrected error of a cluster. -/
def State.countCorrected (s : State) (p : Nat) : State :=
  s.onPhysCluster p fun c => { c with rel := { c.rel with ecccorr := sat32 c.rel.ecccorr } }
/-- An uncorrectable error of a cluster, found: counted, logged by Ordel, noticed (R375, R393). -/
def State.countUncorrected (s : State) (p detail : Nat) : State :=
  ((s.onPhysCluster p fun c => { c with rel := { c.rel with eccunc := sat32 c.rel.eccunc } }).ordelLog p Cause.poison.code detail).noticeFree 3

/-- A granule is read and checked: a correctable error counts, in data that are right (R375); an uncorrectable one counts when it is
first found. -/
def State.checkGranule (s : State) (g : Nat) : State :=
  let s := if s.soft.elem g then s.countCorrected (keyCluster (32 * g)) else s
  if s.hard.elem g then { s with hard := setRemove s.hard g }.countUncorrected (keyCluster (32 * g)) g else s
/-- The granules of a read are checked. -/
def State.countSoft (s : State) (a n : Nat) : State :=
  if s.soft.isEmpty && s.hard.isEmpty then s else (granules a n).foldl State.checkGranule s

/-- The two words of a stop report (R367). -/
def StopReport.word0 (r : StopReport) : Nat :=
  (if r.second then 2 ^ 41 else 0) + (if r.intrap then 2 ^ 40 else 0) + r.src.toNat * 2 ^ 36 + r.core.toNat * 2 ^ 26
    + r.cause.toNat
def StopReport.word1 (r : StopReport) : Nat := r.seq.toNat * 2 ^ 32 + r.pc.toNat

/-- Time a node has run unstopped (R370). -/
def Node.ran (n : Node) (now : Nat) : Nat := if n.stopped then n.started else n.started + (now - n.since)

/-- Stop a node (R366): its first cause is recorded in the report of the cluster its corner lies in, and noticed; a later one sets
SECOND. The report of another stopped node whose corner lies in that cluster stands (DESIGN CHOICE, log 125). -/
def State.stopNode (s : State) (l : Launch) (n : Node) (r : StopReport) : State :=
  let cl := clusterOf n.corner
  let old := (s.cluster cl).report
  if n.stopped then s.onCluster cl fun c => { c with report := { old with second := true } }
  else
    let s := if old.cause = 0 then s.onCluster cl fun c => { c with report := r } else s
    let s := s.onNode l.id fun n => { n with stopped := true, started := n.ran s.time }
    let (d, s) := s.freeBytes 8
    s.notice 1 d (leBytes 8 r.word0 ++ leBytes 8 r.word1)

/-! ## Save areas and traps -/

def tagByte (t : Tag) : Byte := 0x80#8 ||| t.setWidth 8
def untagByte (b : Byte) : Tag := b.setWidth 5
def w64Bytes (w : W64) : List Byte := leBytes 8 w.toNat
def bytesW64 (bs : List Byte) (off : Nat) : W64 := BitVec.ofNat 64 (leNat ((bs.drop off).take 8))

def Cond4.code (f : Cond4) : Nat :=
  (if f.z then 8 else 0) + (if f.n then 4 else 0) + (if f.c then 2 else 0) + (if f.v then 1 else 0)
def Cond4.ofCode (c : Nat) : Cond4 :=
  ⟨bits c 3 3 == 1, bits c 2 2 == 1, bits c 1 1 == 1, bits c 0 0 == 1⟩

def LCtx.ptr (x : LCtx) (n : Nat) : Ptr := Tab.get {} x.p n
def LCtx.setPtr (x : LCtx) (n : Nat) (p : Ptr) : LCtx := { x with p := Tab.set x.p n p }
def LCtx.accTag (x : LCtx) (i : Nat) : Tag := x.accTags.getD i 31
def LCtx.allTags (x : LCtx) : List Tag := (List.range 32).map x.accTag

/-- The 256 bytes a context saves (R362). -/
def LCtx.saveBytes (x : LCtx) (resume : W32) : List Byte :=
  leBytes 32 x.acc.toNat ++ x.allTags.map tagByte ++
  (List.range 8).flatMap (fun n => w64Bytes (x.ptr n).addr ++ leBytes 8 (x.ptr n).stride.toNat) ++
  leBytes 8 x.f.code ++ leBytes 8 resume.toNat ++ List.replicate 48 0

/-- A context with the saved fields restored, at the stored PC. -/
def LCtx.restore (x : LCtx) (bs : List Byte) : LCtx :=
  { x with
    acc := BitVec.ofNat 256 (leNat (bs.take 32))
    accTags := ((bs.drop 32).take 32).map untagByte
    p := (List.range 8).map fun n => (n, { addr := bytesW64 bs (0x40 + 16 * n), stride := (bytesW64 bs (0x48 + 16 * n)).setWidth 19 })
    f := Cond4.ofCode (leNat ((bs.drop 0xC0).take 1))
    pc := (bytesW64 bs 0xC8).setWidth 32, bad := [] }

/-- The 512 bytes the scalar sequencer saves (R362). -/
def Dense.scalarSave (d : Dense) (sc ld st : W32) : List Byte :=
  List.replicate 8 0 ++ (List.range 31).flatMap (fun i => w64Bytes (Tab.get {} d.s (i + 1)).val) ++
  [0] ++ (List.range 31).map (fun i => tagByte (Tab.get {} d.s (i + 1)).tag) ++
  leBytes 8 sc.toNat ++ leBytes 8 ld.toNat ++ leBytes 8 st.toNat ++ List.replicate 200 0

/-- The 256 bytes the compute sequencer saves (R362). -/
def Dense.computeSave (d : Dense) (pc : W32) : List Byte :=
  (List.range 15).flatMap (fun n => w64Bytes (Tab.get 0 d.k n)) ++ w64Bytes d.k15 ++
  List.replicate 8 0 ++ (List.range 7).flatMap (fun i => w64Bytes (Tab.get 0 d.m (i + 1))) ++
  leBytes 8 pc.toNat ++
  (List.range 4).flatMap (fun e => leBytes 8 ((d.epiCtx e).pc.toNat + if (d.epiCtx e).live then 2 ^ 63 else 0)) ++
  List.replicate 24 0

/-! ### Pending results (R222) -/

/-- The lanes of a mask replaced. -/
def mergeLanes (mask : W64) (old new : List Lane) : List Lane :=
  (List.range 64).map fun i => if mask.getLsbD i then new.getD i {} else old.getD i {}

/-- Write one landed result into its register. -/
def Dense.put (d : Dense) (dest : PendDest) (v : PendVal) : Dense :=
  let whole : Bool := match v with
    | .lanes m _ => m == BitVec.allOnes 64
    | _ => true
  let d := if whole && d.bad.elem dest then { d with bad := d.bad.erase dest } else d
  match dest, v with
  | .s r, .sreg x => if r = 0 then d else { d with s := Tab.set d.s r x }
  | .v r, .lanes m xs => { d with v := Tab.set d.v r (mergeLanes m (Tab.get [] d.v r) xs) }
  | .e c r, .lanes m xs =>
    d.setEpi c { d.epiCtx c with e := Tab.set (d.epiCtx c).e r (mergeLanes m (Tab.get [] (d.epiCtx c).e r) xs) }
  | .k r, .word x => { d with k := Tab.set d.k r x }
  | .k15, .word x => { d with k15 := x }
  | .m r, .word x => { d with m := Tab.set d.m r x }
  | .em c r, .word x => d.setEpi c { d.epiCtx c with m := Tab.set (d.epiCtx c).m r x }
  | _, _ => d

/-- A result lands, and its word, a scalar one, raises its flags (R125). One that was outstanding when a scalar handler's freeze began
lands again at the return, which restores the register it is for (R222). -/
def Dense.take (d : Dense) (p : Pending) : Dense :=
  let d := { d.put p.dest p.val with sc := { d.sc with num := if p.flags = 0 then d.sc.num else d.sc.num.raise p.flags (p.due.getD 0) } }
  match p.dest, d.frozen with
  | .s _, some f => if p.kept && (match f.handler with | .scalar _ => true | _ => false) then { d with relay := d.relay ++ [p] } else d
  | _, _ => d

/-- A word has completed: its ring entry says DONE (R360). -/
def Dense.ringDone (d : Dense) (q : BitVec 8) : Dense :=
  let r := Tab.get {} d.ring (q.toNat % 64)
  if r.seq = q then { d with ring := Tab.set d.ring (q.toNat % 64) { r with done := true } } else d

/-- Land every pending result due by `t`, in the order in which they fall due; a word whose last result lands has completed. Of two that
fall due in one clk the one issued later stands; a result of 1 clk stands in its register at once, and one that falls due when it
becomes visible replaces it (DESIGN CHOICE, log 136). -/
def Dense.land (d : Dense) (t : Nat) : Dense :=
  let (now, later) := d.pend.partition fun p => match p.due with | some n => decide (n ≤ t) | none => false
  let now := now.mergeSort fun a b => decide (a.due.getD 0 ≤ b.due.getD 0)
  let d := now.foldl (fun d p => d.take p) { d with pend := later }
  (now.filterMap (·.seq)).foldl (fun d q => if later.any fun p => p.seq == some q then d else d.ringDone q) d

/-- Every fixed-latency result becomes visible (R222): before a handler reads. -/
def Dense.landAll (d : Dense) : Dense :=
  let t := d.pend.foldl (fun t p => max t (p.due.getD 0)) 0
  d.land t

/-- Supervisor results land in the same way. -/
def Sup.land (x : Sup) (t : Nat) : Sup :=
  let (now, later) := x.pend.partition fun p => match p.due with | some n => decide (n ≤ t) | none => false
  let now := now.mergeSort fun a b => decide (a.due.getD 0 ≤ b.due.getD 0)
  now.foldl (fun x p => match p.dest, p.val with
    | .s r, .sreg v =>
      let x := { x with num := if p.flags = 0 then x.num else x.num.raise p.flags (p.due.getD 0) }
      if r = 0 then x else { x with s := Tab.set x.s r v, bad := x.bad.erase r }
    | _, _ => x) { x with pend := later }

/-! ### Freezing (R363) -/

/-- Drop what replies delivered to a unit, once its word is done. -/
def State.dropDelivered (s : State) (u : UnitId) : State :=
  match u with
  | .ctx k c => if (s.ctx k c).delivered.isEmpty then s else s.onCtx k c fun x => { x with delivered := [] }
  | .scalar c => if (s.dense c).sc.delivered.isEmpty then s else s.onDense c fun d => { d with sc := { d.sc with delivered := [] } }
  | .load c => if (s.dense c).ld.delivered.isEmpty then s else s.onDense c fun d => { d with ld := { d.ld with delivered := [] } }
  | .store c => if (s.dense c).st.delivered.isEmpty then s else s.onDense c fun d => { d with st := { d.st with delivered := [] } }
  | .compute c => if (s.dense c).cp.delivered.isEmpty then s else s.onDense c fun d => { d with cp := { d.cp with delivered := [] } }
  | .epi c e => if ((s.dense c).epiCtx e).delivered.isEmpty then s else s.onEpi c e fun x => { x with delivered := [] }
  | .sup n => if (s.sup n).delivered.isEmpty then s else s.onSup n fun x => { x with delivered := [] }
  | .copy c q => if (Tab.get [] (s.cluster c).ce.delivered q).isEmpty then s.setWait (.copy c q) .none
    else (s.setWait (.copy c q) .none).onCe c fun e => { e with delivered := Tab.drop e.delivered q }
  | .engine c q => (s.setWait (.engine c q) .none).onCe c fun e => { e with delivered := Tab.drop e.delivered (6 + q) }
  | _ => s
def State.delivered (s : State) : UnitId → List Delivered
  | .ctx k c => (s.ctx k c).delivered
  | .scalar c => (s.dense c).sc.delivered
  | .load c => (s.dense c).ld.delivered
  | .store c => (s.dense c).st.delivered
  | .compute c => (s.dense c).cp.delivered
  | .epi c e => ((s.dense c).epiCtx e).delivered
  | .sup n => (s.sup n).delivered
  | .copy c q => Tab.get [] (s.cluster c).ce.delivered q
  | .engine c q => Tab.get [] (s.cluster c).ce.delivered (6 + q)
  | _ => []
/-- Bytes arrive for a unit; its word issues again. -/
def State.deliver (s : State) (u : UnitId) (d : Delivered) : State :=
  let s := match u with
    | .ctx k c => s.onCtx k c fun x => { x with delivered := x.delivered ++ [d] }
    | .scalar c => s.onDense c fun y => { y with sc := { y.sc with delivered := y.sc.delivered ++ [d] } }
    | .load c => s.onDense c fun y => { y with ld := { y.ld with delivered := y.ld.delivered ++ [d] } }
    | .store c => s.onDense c fun y => { y with st := { y.st with delivered := y.st.delivered ++ [d] } }
    | .compute c => s.onDense c fun y => { y with cp := { y.cp with delivered := y.cp.delivered ++ [d] } }
    | .epi c e => s.onEpi c e fun x => { x with delivered := x.delivered ++ [d] }
    | .sup n => s.onSup n fun x => { x with delivered := x.delivered ++ [d] }
    | .copy c q => s.onCe c fun e => { e with delivered := Tab.set e.delivered q (Tab.get [] e.delivered q ++ [d]) }
    | .engine c q =>
      s.onCe c fun e => { e with delivered := Tab.set e.delivered (6 + q) (Tab.get [] e.delivered (6 + q) ++ [d]) }
    | _ => s
  match s.wait u with
  | .parked | .reply _ => s.setWait u .retry
  | _ => s

/-- A wait that a freeze abandons: the word restarts on resume. An access that is parked or asked for elsewhere goes on, and so does
a BAR that has made its arrival: R363 abandons neither. -/
def Wait.abandon : Wait → Wait
  | .parked => .parked
  | .reply i => .reply i
  | .barrier n => .barrier n
  | _ => .none
def Seqr.abandon (q : Seqr) : Seqr := { q with wait := q.wait.abandon }

def Seqr.stopAt (q : Seqr) (t : Nat) : Seqr := { q.abandon with readyAt := min q.readyAt t }

/-- The sequencer that a handler takes over. -/
def Dense.handlerSeq (d : Dense) : UnitId → Seqr
  | .scalar _ => d.sc
  | _ => d.cp
/-- What the return gives that sequencer back: a halt, and the barrier it slept at. -/
def Dense.heldBack (d : Dense) (h : UnitId) : Freeze :=
  let q := d.handlerSeq h
  { handler := h, halted := !q.live, barrier := match q.wait with | .barrier n => some n | _ => none }

/-- Freeze a dense core for a handler at TIME t: waits are abandoned, a TSEND that waits for its release among them (its
reservation goes), idle cycles end (R16), and pending results land; a load still outstanding is marked (R222, R363). -/
def Dense.freeze (d : Dense) (h : UnitId) (t : Nat) : Dense :=
  let d := d.landAll
  { d with
    frozen := some (d.heldBack h), qres := [], loading := []
    late := d.late ++ match d.vfault with | some (f, _) => [f] | none => []
    vfault := none
    sc := d.sc.stopAt t, ld := d.ld.stopAt t, st := d.st.stopAt t, cp := d.cp.stopAt t
    epi := d.epi.map fun (i, x) => (i, { x with readyAt := min x.readyAt t })
    pend := d.pend.map fun p => { p with kept := true } }



def State.trapRegs (s : State) : UnitId → TrapRegs
  | .ctx k c => (s.ctx k c).trap
  | .scalar c => (s.dense c).sc.trap
  | .compute c => (s.dense c).cp.trap
  | .sup n => (s.sup n).trap
  | _ => {}
def State.setTrap (s : State) (u : UnitId) (t : TrapRegs) : State :=
  match u with
  | .ctx k c => s.onCtx k c fun x => { x with trap := t }
  | .scalar c => s.onDense c fun d => { d with sc := { d.sc with trap := t } }
  | .compute c => s.onDense c fun d => { d with cp := { d.cp with trap := t } }
  | .sup n => s.onSup n fun x => { x with trap := t }
  | _ => s

/-- Causes whose report and registers hold an address (R359): address and translation causes. -/
def Cause.hasAddr : Cause → Bool
  | .align | .space | .xlateMiss | .xlatePerm | .staleMap => true
  | _ => false

/-- Does a restored or saved resumption PC follow the faulting word (R362)? -/
def Cause.resumesAfter : Cause → Bool
  | .sigThreshold | .trap => true
  | _ => false


/-- A stop report for a cause at a unit (R367). -/
def mkReport (c : Cause) (u : UnitId) (intrap : Bool) (pc : W32) (seq : BitVec 8) (addr : W64) : StopReport :=
  { intrap := intrap, src := BitVec.ofNat 4 u.src, core := BitVec.ofNat 10 (u.coord.getD 0), cause := BitVec.ofNat 8 c.code,
    pc := pc, seq := seq, addr := if c.hasAddr then addr else 0 }

/-- Stop the node of a unit, or, for a supervisor core, which has no node, the core itself (DEDUCED, log 8). -/
def State.stopUnit (s : State) (u : UnitId) (r : StopReport) : State :=
  match u with
  | .sup n => s.onSup n fun x => { x with live := false }
  | u => match s.launchOf u with
    | some l => match l.node with
      | some n => s.stopNode l n r
      | none => s
    | none => s

/-- What a trap of a unit needs: cause, address, code, the faulting PC and the PC to resume at, the late number. -/
structure TrapInfo where
  cause : Cause
  addr : W64 := 0
  code : BitVec 20 := 0
  src : Nat := 0
  pc : W32 := 0
  resume : W32 := 0
  seq : BitVec 8 := 0

/-- TAKING AN EXCEPTION (R361): stop when the unit is in its handler, has no vector, or has no room for its save area;
otherwise save the state, set the trap registers and continue at the vector. `u` is the trapping unit. In its own registers the
compute stream is the unit itself, SRC 0 (R360; DEDUCED, log 91). -/
def State.takeTrap (s : State) (u : UnitId) (t : TrapInfo) : State :=
  let h := u.handler
  let old := s.trapRegs h
  let rep (c : Cause) : StopReport :=
    { mkReport c u old.intrap t.pc t.seq t.addr with src := BitVec.ofNat 4 t.src }
  let vec := match s.nodeOf u with
    | some n => (n.stream h.streamNo).2.2.2
    | none => 0xFFFFFFFF
  if !t.cause.recoverable || old.intrap || decide (vec = 0xFFFFFFFF) || decide (vec % 4 ≠ 0) then s.stopUnit u (rep t.cause)
  else if decide (old.save.toNat % 32 ≠ 0) || decide (old.save.toNat + h.saveSize > h.localLimit) then
    s.stopUnit u (rep .space)
  else
    let regs : TrapRegs :=
      { old with code := t.code, src := BitVec.ofNat 4 (if t.src = 3 then 0 else t.src), intrap := true, cause := BitVec.ofNat 8 t.cause.code,
                 pc := t.pc, addr := if t.cause.hasAddr then t.addr else 0, seq := t.seq }
    match h with
    | .ctx k c =>
      let s := s.writePlace (.tile k old.save.toNat) ((s.ctx k c).saveBytes t.resume) none
      s.onCtx k c fun x => { x with trap := regs, pc := BitVec.ofNat 32 vec, wait := .none, readyAt := s.time, turns := 0 }
    | .scalar cl =>
      let s := s.onDense cl fun d => d.freeze h s.time
      let d := s.dense cl
      let at' (q : UnitId) (pc : W32) : W32 := if q = u then t.resume else pc
      let s := s.writePlace (.scratch cl old.save.toNat)
        (d.scalarSave (at' (.scalar cl) d.sc.pc) (at' (.load cl) d.ld.pc) (at' (.store cl) d.st.pc)) none
      s.onDense cl fun d =>
        { d with sc := { d.sc with live := true, trap := regs, pc := BitVec.ofNat 32 vec, wait := .none, readyAt := s.time } }
    | .compute cl =>
      let s := s.onDense cl fun d => d.freeze h s.time
      let s := match u with
        | .epi _ e => s.onEpi cl e fun x => { x with pc := t.resume }
        | _ => s
      let d := s.dense cl
      let pc := match u with
        | .compute _ => t.resume
        | _ => d.cp.pc
      let s := s.writePlace (.scratch cl old.save.toNat) (d.computeSave pc) none
      s.onDense cl fun d =>
        { d with cp := { d.cp with live := true, trap := regs, pc := BitVec.ofNat 32 vec, wait := .none, readyAt := s.time } }
    | _ => s

/-! ### Rollback (R380) -/

/-- A context whose activation ends leaves its trap handler with it (R359). -/
def LCtx.leaveHandler (x : LCtx) : LCtx := { x with trap := { x.trap with intrap := false } }
/-- An activation that can still be replayed. -/
def Activation.replayable (a : Activation) : Bool := !a.committed
/-- A context is free again; a request's store space is released, and a reply's reservation at the core that made it (R149,
R411). -/
def State.endActivation (s : State) (k c : Nat) : State :=
  let a := (s.ctx k c).act
  let s := s.onCore k fun x =>
    let x := x.setCtx c { (x.ctx c).leaveHandler with live := false, act := none, wait := .none, delivered := [], turns := 0, list := none }
    match a with
    | some a =>
      let h := Tab.get {} x.handlers a.chan
      let x := { x with handlers := Tab.set x.handlers a.chan { h with epri := h.pri, age := s.time } }
      if a.msg.vn1 || a.chan = 61 || a.chan = 62 then x else { x with reqStore := x.reqStore - 1 }
    | none => x
  match a with
  | some a => if a.msg.vn1 || a.msg.answers then s.onCore a.msg.dstCore fun x => { x with resv := x.resv - 1 } else s
  | none => s

/-- A rollback's first step: held effects go, with the reservations of held requests; it is counted. -/
def State.discardHeld (s : State) (k : Nat) (a : Activation) : State :=
  (s.onCore k fun x =>
    { x with resv := x.resv - (a.held.filter fun h => match h with | .msg m => m.rq | _ => false).length }).onRel (clusterOf k)
      fun r => { r with rollbacks := sat16 r.rollbacks }
/-- Roll back a context's activation: held effects go, the context is free, the message is at the head of its queue. -/
def State.rollback (s : State) (k c : Nat) (a : Activation) : State :=
  (s.discardHeld k a).onCore k fun x =>
    { x.setCtx c { (x.ctx c).leaveHandler with live := false, act := none, wait := .none, delivered := [], turns := 0, list := none } with
      handlers := let h := Tab.get {} x.handlers a.chan; Tab.set x.handlers a.chan { h with epri := h.pri, age := s.time }
      channels := Tab.set x.channels a.chan ({ a.msg with rollbacks := a.msg.rollbacks + 1 } :: Tab.get [] x.channels a.chan) }
/-- The third rollback of a message escalates: the activation ends, its message is not delivered again (R380, R411). -/
def State.escalate (s : State) (k c : Nat) (a : Activation) : State := (s.discardHeld k a).endActivation k c

/-- A late fault freezes the dense core, or stops its node: the compute stream resumes at its first word that has not completed (R365). -/
def State.takeLate (s : State) (cl : Nat) (f : LateFault) : State :=
  (s.onDense cl fun d => { d with vfault := none }).takeTrap (.matrix cl)
    { cause := f.cause, addr := f.addr, code := BitVec.ofNat 20 f.code, src := f.src, pc := f.pc, resume := f.resume, seq := f.seq }

/-- Raise a cause at a unit's current word. Exact units keep the word's PC; compute and epilogue words fault late, with the word's
sequence number; the turn says how many further issue groups come before the freeze, at most 8 (R261; log 9). A PROMISE_MISSED, whose
WAITP has not completed, freezes at once. -/
def State.raise (s : State) (u : UnitId) (c : Cause) (addr : W64) (code : BitVec 20 := 0) : State :=
  let pc := s.pc u
  let after := if c.resumesAfter then pc + 4 else pc
  match u with
  | .ctx k x =>
    match (s.ctx k x).act with
    | some a =>
      let taken := s.takeTrap u { cause := c, addr := addr, code := code, pc := pc, resume := after }
      if (c = .poison || c = .pairMismatch) && a.replayable then
        if a.msg.rollbacks < 2 then s.rollback k x a else taken.escalate k x a
      else taken
    | none => s.takeTrap u { cause := c, addr := addr, code := code, pc := pc, resume := after }
  | .compute cl | .epi cl _ =>
    let seq := match u with
      | .epi _ e => ((s.dense cl).epiCtx e).seq
      | _ => (s.dense cl).cp.seq
    let resume := if c = .promiseMissed then pc else pc + 4
    if s.further = 0 || c = .promiseMissed || (s.dense cl).vfault.isSome then
      let t : TrapInfo := { cause := c, addr := addr, code := code, src := u.src, pc := pc, resume := resume, seq := seq }
      (s.setPc u resume).takeTrap u t
    else
      let f : LateFault := { cause := c, addr := addr, seq := seq, src := u.src, pc := pc, resume := resume, code := code.toNat }
      (s.retireTo u resume 0).onDense cl fun d => { d with vfault := some (f, min s.further 8, s.time) }
  | u => s.takeTrap u { cause := c, addr := addr, code := code, src := u.src, pc := pc, resume := after }

/-- A late fault that is not of the word in issue: a tile command (R261, R287, R364). While the core is frozen it is held. -/
def State.raiseLate (s : State) (cl : Nat) (f : LateFault) : State :=
  let s := s.onDense cl fun d => { d with mfault := true }
  if (s.dense cl).frozen.isSome then s.onDense cl fun d => { d with late := d.late ++ [f] } else s.takeLate cl f

/-! ## The outcome of a meaning -/

/-- A request to a peer or the host whose answer a unit waits for: a read, or an atomic. -/
structure ExtAsk where
  place : Place
  name : W64
  len : Nat
  amo : Option (Aop × Bool × W64 × W64) := none
  mtype : Nat := 0
  cmd : Nat := 0
deriving DecidableEq, Repr

/-- Why a word does not retire as it issues: a cause, with the state its rule keeps, or a wait that leaves the state as it
was but for who waits where. -/
inductive Stop where
  | trap (c : Cause) (addr : W64) (s : State)
  | park (home : Nat) (p : Parked)     -- a frame that is not NORMAL (R60)
  | full (cl block : Nat) (p : Parked) -- the Lantern cannot make room (R111)
  | ext (r : ExtAsk)                   -- another device's or the host's memory
  | wait (w : Wait)
  | refused (home : Nat)               -- a home refuses a read or an atomic: its interface sends it again (R61, R328)
  | again (f : State → State)          -- what `f` does stands, and the word issues again: a release under way, or granules read
  | since (f : State → State) (e : Stop)   -- what `f` does stands before the word stops: a commit that it has made

abbrev Eff (α : Type) := Except Stop α

/-! ## Return from a trap (R362, R363) -/

/-- The next late fault held during a freeze is taken after the return, before any compute word (R364). -/
def State.takeHeld (s : State) (cl : Nat) : State :=
  match (s.dense cl).late with
  | [] => s
  | f :: fs => (s.onDense cl fun d => { d with late := fs }).raiseLate cl f

/-- Had the handler's own stream halted when its core froze? -/
def Dense.streamHalted (d : Dense) : Bool := match d.frozen with | some f => f.halted | none => false
/-- A sequencer at its handler's return. -/
def Seqr.resumed (q : Seqr) (f : Option Freeze) (regs : TrapRegs) (pc : W32) (t : Nat) : Seqr :=
  { q with
    trap := regs, pc := pc, readyAt := t
    live := match f with | some f => !f.halted | none => true
    wait := match f.bind (·.barrier) with | some n => .barrier n | none => .none }
/-- Results of a handler's words that the restored registers replace: their words' flags are collected all the same (R125, R223). -/
def Dense.dropPending (d : Dense) (p : Pending → Bool) : Dense :=
  { d with
    pend := d.pend.filter fun x => !p x
    sc := { d.sc with num := (d.pend.filter p).foldl (fun n x => if x.flags = 0 then n else n.raise x.flags (x.due.getD 0)) d.sc.num } }

/-- RETURNING FROM AN EXCEPTION: restore the save area and continue at the stored PC after `idle` clk (R16); a PC that is not a word
address is ALIGN, of whichever stream the area holds it for (R362), one at or beyond the stream is ILLEGAL (R17), a poisoned area
POISON; outside a handler ILLEGAL. `see` lays over the area what the handler itself has stored there and no one else sees yet. -/
def State.trapReturn (s : State) (u : UnitId) (idle : Nat) (see : List Byte → List Byte) : State :=
  let t := s.trapRegs u
  if !t.intrap then s.raise u .illegal 0
  else
    let area : Place := match u with
      | .ctx k _ => .tile k t.save.toNat
      | u => .scratch u.cl t.save.toNat
    if t.save.toNat % 32 ≠ 0 ∨ t.save.toNat + u.saveSize > u.localLimit then s.raise u .space 0
    else
      let a := (s.key area).getD 0
      let s := s.countSoft a u.saveSize
      if s.poisoned a u.saveSize then s.raise u .poison 0
      else
        let bs := see (s.readKey a u.saveSize)
        let pcOff := match u with
          | .ctx _ _ => 0xC8
          | .scalar _ => 0x120
          | _ => 0xC0
        let pc : W32 := (bytesW64 bs pcOff).setWidth 32
        let running (e : Nat) : Bool := (bytesW64 bs (0xC8 + 8 * e)).getLsbD 63
        let others : List Nat := match u with
          | .scalar _ => [0x128, 0x130]
          | .compute _ => ((List.range 4).filter running).map fun e => 0xC8 + 8 * e
          | _ => []
        let halted := match u with
          | .scalar cl | .compute cl => (s.dense cl).streamHalted
          | _ => false
        match (pcOff :: others).find? fun o => (bytesW64 bs o).toNat % 4 ≠ 0 with
        | some o => s.raise u .align (((bytesW64 bs o).setWidth 32).setWidth 64)
        | none =>
        if !halted && decide (pc.toNat ≥ s.streamLen u) then s.raise u .illegal 0
        else
          let regs := { t with intrap := false }
          let next := s.time + 1 + idle
          match u with
          | .ctx k c => s.onCtx k c fun x => { (x.restore bs) with trap := regs, wait := .none, readyAt := next }
          | .scalar cl =>
            let s := s.onDense cl fun d =>
              let d := d.dropPending fun p => match p.dest with | .s _ => p.due.isSome | _ => false
              { d with
                s := (List.range 31).map fun i =>
                  (i + 1, ({ val := bytesW64 bs (8 * (i + 1)), tag := untagByte (bs.getD (0x101 + i) 0) } : SReg))
                sc := d.sc.resumed d.frozen regs pc next
                ld := { d.ld with pc := (bytesW64 bs 0x128).setWidth 32 }
                st := { d.st with pc := (bytesW64 bs 0x130).setWidth 32 }
                frozen := none }
            let s := s.onDense cl fun d => d.relay.foldl (fun d p => d.put p.dest p.val) { d with relay := [] }
            s.takeHeld cl
          | .compute cl =>
            let s := s.onDense cl fun d =>
              let d := d.dropPending fun p => match p.dest with | .k _ | .k15 | .m _ => p.due.isSome | _ => false
              let d := { d with
                k := (List.range 15).map fun n => (n, bytesW64 bs (8 * n))
                k15 := bytesW64 bs 0x78
                m := (List.range 7).map fun i => (i + 1, bytesW64 bs (0x88 + 8 * i))
                cp := d.cp.resumed d.frozen regs pc next
                frozen := none, mfault := false }
              (List.range 4).foldl (fun d e =>
                let w := bytesW64 bs (0xC8 + 8 * e)
                d.setEpi e { d.epiCtx e with live := w.getLsbD 63, pc := w.setWidth 32 }) d
            s.takeHeld cl
          | _ => s

end Sys2Proof.Machine
end

