-- ==== Sys2Proof/Machine/Rows.lean ====
section
/-! DEFINITION. A home and its row service unit (R59 to R61, R154, R173, R174): frame states, the fault queue, row requests and
row operations, and packets that leave by a fabric port (R396). -/

namespace Sys2Proof.Machine

/-! ## Frames -/

def State.frameState (s : State) (home frame : Nat) : Nat := Tab.get 0 (s.core home).frames frame
/-- The first frame of n bytes at a PHA that is not NORMAL. -/
def State.busyFrame (s : State) (pha n : Nat) : Option (Nat × Nat) :=
  let home := pha / 2 ^ 30
  let o := pha % 2 ^ 30
  ((List.range ((o + n - 1) / 65536 - o / 65536 + 1)).map (· + o / 65536)).findSome? fun f =>
    if s.frameState home f = 0 then none else some (home, f)

/-! ## Packets out -/

def State.onPort (s : State) (p : Nat) (f : Port → Port) : State :=
  { s with ports := Tab.set s.ports p (f (Tab.get {} s.ports p)) }

/-- Packets that carry no sequence number and wait for no acknowledgement (R397). -/
def FabBody.isAnswer : FabBody → Bool
  | .ack .. | .nack .. => true
  | _ => false

/-- Packets that a route of the system map carries. -/
def FabBody.isRequest : FabBody → Bool
  | .ack .. | .nack .. => false
  | _ => true

/-- Send a fabric packet on a port; it waits there for the next hop's acknowledgement (R396, R397). -/
def State.sendFabric (s : State) (p : Nat) (dev : BitVec 16) (b : FabBody) : State :=
  let s := if b.isRequest then s.useSys dev.toNat else s
  (s.onPort p fun x =>
    if b.isAnswer then { x with out := { id := s.nextId, seq := 0, dev := dev, body := b } :: x.out }
    else
      let q : FabPkt := { id := s.nextId, seq := x.nextSeq, dev := dev, body := b }
      { x with queue := x.queue ++ [q], out := q :: x.out, nextSeq := x.nextSeq + 1 }).stamp

/-- Ports of a device's route, in order from the entry of a source core (R395). -/
def State.route (s : State) (dev core : Nat) : List Nat :=
  let r := (s.sysEnt dev).route.filter fun p => decide (p < fabricPorts)
  let i := core % r.length
  r.drop i ++ r.take i
/-- The first of them that is up (R397). -/
def State.routePort (s : State) (dev core : Nat) : Option Nat :=
  (s.route dev core).find? fun p => !(Tab.get {} s.ports p).down
/-- The port a packet to a device leaves by. With none up it is queued on the source core's own, which answers it XLATE_MISS
(R397). -/
def State.portFor (s : State) (dev core : Nat) : Nat := (s.routePort dev core).getD ((s.route dev core).headD 0)
/-- Send a packet by the route of its device, from a source core. -/
def State.sendBy (s : State) (dev : BitVec 16) (core : Nat) (b : FabBody) : State :=
  s.sendFabric (s.portFor dev.toNat core) dev b

/-- Row elements of a type: their codes. -/
def packCodes (e : ElemType) (cs : List Nat) : List Byte :=
  if ElemType.bits e ≥ 8 then cs.flatMap fun c => leBytes (ElemType.bits e / 8) c
  else
    let v := cs.reverse.foldl (fun v c => v * 2 ^ ElemType.bits e + c % 2 ^ ElemType.bits e) 0
    leBytes ((cs.length * ElemType.bits e + 7) / 8) v

/-- One element of a row accumulate (R174): the sum in the table's type, rounded once. -/
def rowAcc (te se : ElemType) (old new : Nat) : Nat × Flags :=
  if te = .int32 then ((old + new) % 2 ^ 32, 0)
  else
    let (x, f) := exactAdd .rne (decodeNum te old) (decodeNum se new)
    let (c, g) := roundTo te .rne 0 x
    (c, f ||| g)

/-! ## Rows at their home -/

/-- Flags of a core's network interface and row service unit are collected in NIFLAGS (R148, R174). -/
def State.orNi (s : State) (k : Nat) (f : Flags) : State :=
  s.onCore k fun c => { c with niflags := c.niflags ||| f, raised := c.raised.set f s.time }

/-- A landing counter advances (R152). -/
def State.advance (s : State) (k c n : Nat) : State :=
  s.onCore k fun x => { x with landing := Tab.set x.landing c (Tab.get 0 x.landing c + BitVec.ofNat 32 n) }

/-- A row operation of a core has been performed: its place in the epoch's count is free and its counter advances (R174, R205). -/
def State.rowAcked (s : State) (k tbl epoch : Nat) (counter : Option Nat) (parts : Nat) : State :=
  let s := s.onCore k fun c =>
    let i := 4 * tbl + epoch % 4
    { c with acks := Tab.set c.acks i (Tab.get 0 c.acks i - parts) }
  match counter with
  | some n => s.advance k n parts
  | none => s

def etOf (c : Nat) : ElemType := (ElemType.ofCode c).getD .fp32

/-- Perform a row operation on a whole row (R174): elements in poisoned granules keep their bytes under an accumulate. -/
def State.performRowOp (s : State) (home : Nat) (j : RowJob) : State :=
  match s.key j.place with
  | none => s
  | some a =>
    let te := etOf j.tet
    let se := etOf j.set
    if j.write then s.writePlace j.place j.payload none
    else
      let w := ElemType.size te
      let olds := unpackCodes te (s.readKey a j.rowb)
      let news := unpackCodes se j.payload
      let (out, f) := ((List.range olds.length).zip olds).foldl (fun (out, f) (i, o) =>
        if s.poison.elem ((a + i * w) / 32) then (out ++ leBytes w o, f)
        else
          let (c, g) := rowAcc te se o (news.getD i 0)
          (out ++ leBytes w c, f ||| g)) (([] : List Byte), (0 : Flags))
      let s := s.countSoft a j.rowb
      let poison := s.poison
      let s := s.writePlace j.place out none
      { s with poison := poison }.orNi home (f ||| j.flags)

/-- Poison bits of a row, one for each granule it touches. -/
def State.rowPoison (s : State) (a n : Nat) : List Bool := (granules a n).map fun g => s.poison.elem g

/-- Serve one row job at its home: a read makes a landing or a ROWDATA packet, an operation an acknowledgement. -/
def State.performRow (s : State) (home : Nat) (j : RowJob) : State :=
  if j.isOp then
    let s := s.performRowOp home j
    match j.port with
    | some _ => s.sendBy j.srcDev home (.ack j.seq j.parts)
    | none => s.rowAcked j.src j.tbl j.epoch.toNat j.counter j.parts
  else
    match s.key j.place with
    | none => s
    | some a =>
      let s := s.countSoft a j.rowb
      let bs := s.readKey a j.rowb
      let po := s.rowPoison a j.rowb
      match j.port with
      | some _ => s.sendBy j.srcDev home (.rowData [j] bs po)
      | none => s.onCore j.src fun c => { c with landings := c.landings ++ [{ job := j, bytes := bs, poison := po }] }

/-! ## Parking (R60, R61) -/

def Parked.frame : Parked → Nat
  | .read _ f .. => f
  | .amo _ f .. => f
  | .write f _ => f
  | .row f _ => f
  | .load f .. => f
  | .port f .. => f

/-- Park an access in a home's fault queue of 64, if there is room (R60, R61). -/
def State.parkAt (s : State) (home : Nat) (p : Parked) : State × Bool :=
  if (s.core home).fq.length < 64 then (s.onCore home fun c => { c with fq := c.fq ++ [p] }, true) else (s, false)

/-! ## The row service unit (R154) -/

/-- The home of a job's row. -/
def RowJob.home (j : RowJob) : Option Nat :=
  match j.place with
  | .hbm a => some (a / 2 ^ 30)
  | _ => none

/-- Does a row job touch a granule of n bytes at a PHA? -/
def RowJob.touches (j : RowJob) (pha n : Nat) : Bool :=
  match j.place with
  | .hbm a => decide (a / 32 ≤ (pha + n - 1) / 32 ∧ pha / 32 ≤ (a + j.rowb - 1) / 32)
  | _ => false

/-- Do two row jobs touch a granule of one pseudo-channel? -/
def RowJob.meets (i j : RowJob) : Bool :=
  match j.place with
  | .hbm b => i.touches b j.rowb
  | _ => false

/-- A refused job goes back to its requester, whose network interface sends it again (R61): a packet's by a BUSY, which its sender
answers with the packet, one of this device to its place among the jobs on their way. -/
def State.refuseJob (s : State) (j : RowJob) : State :=
  match j.port with
  | some p =>
    (s.onPort p fun x => { x with seen := x.seen.erase (j.seq * 65536 + j.srcDev.toNat) }).sendFabric p j.srcDev (.nack j.seq 5)
  | none => s.onCore j.src fun c =>
    { c with rowOut := (c.rowOut.filter fun e => decide (e.id < j.id)) ++ { j with refused := true } ::
        c.rowOut.filter fun e => !decide (e.id < j.id) }

/-- Serve an accepted job: a frame that is not NORMAL parks it (R60); a full fault queue refuses it (R61). -/
def State.serveJob (s : State) (h : Nat) (j : RowJob) : State :=
  let gone := s.onCore h fun c => { c with rowQ := c.rowQ.filter fun e => e.acc != j.acc }
  match j.place with
  | .hbm a => match s.busyFrame a j.rowb with
    | none => gone.performRow h j
    | some (b, f) => match gone.parkAt b (.row f j) with
      | (t, true) => t
      | (_, false) => gone.refuseJob j
  | _ => s

/-- Does a home take nothing more: its queue of 64 is full (R154), or no physical core serves its pseudo-channel (R382)? -/
def State.homeFull (s : State) (h : Nat) : Bool := s.absent h || decide ((s.core h).rowQ.length ≥ 64)

/-- An access to n bytes at a PHA arrives: the accepted jobs up to the last that touches one of its granules are served first, so
that a granule's requests are performed in arrival order. False: the home refuses the access. -/
def State.homeArrival (s : State) (pha n : Nat) : State × Bool :=
  let h := pha / 2 ^ 30
  if s.homeFull h then (s, false)
  else
    let q := (s.core h).rowQ
    ((q.reverse.dropWhile fun j => !j.touches pha n).reverse.foldl (fun s j => s.serveJob h j) s, true)

end Sys2Proof.Machine
end

