-- ==== Sys2Proof/Machine/Access.lean ====
section
/-! DEFINITION. Addresses to places (R42 to R46, R52 to R58, R369, R415, R416), the Lantern (R106 to R112), engine and
control registers in the ENGREG window, loads, stores, parking and replay (R60), and held effects (R147). -/

namespace Sys2Proof.Machine

/-! ## Resolution -/

/-- Who resolves an address: the unit, its issuing coordinate (R43), what LOCAL names (R44), its node. -/
structure Who where
  u : UnitId
  coord : Option Nat
  loc : Option Place
  node : Option Node
  fetch : Bool := false        -- a stream fetch, which the cluster TLB serves (R57)
  cmd : Nat := 0               -- the copy command whose burst it is

def State.who (s : State) (u : UnitId) : Who :=
  { u := u
    coord := u.coord
    loc := match u with
      | .ctx k _ => some (.tile k 0)
      | .sup _ | .port _ | .host | .home _ | .ni _ => none
      | u => some (.scratch u.cl 0)
    node := s.nodeOf u }

def addrSpace (a : W64) : Nat := bits a.toNat 63 60
def addrRel (a : W64) : Bool := a.getLsbD 59
def addrX (a : W64) : Nat := bits a.toNat 58 53
def addrY (a : W64) : Nat := bits a.toNat 52 49
def addrOff (a : W64) : Nat := bits a.toNat 48 0

/-- The target coordinate of a SPACE 1 to 4 address (R43): none outside the grid or for a supervisor's relative address. -/
def target (coord : Option Nat) (a : W64) : Option Nat :=
  if addrRel a then
    match coord with
    | none => none
    | some k =>
      let x := (coreX k : Int) + sext 6 (addrX a)
      let y := (coreY k : Int) + sext 4 (addrY a)
      if 0 ≤ x ∧ x ≤ 63 ∧ 0 ≤ y ∧ y ≤ 15 then some (coreAt x.toNat y.toNat) else none
  else some (coreAt (addrX a) (addrY a))

/-- The absolute address word of a space, a core and an offset. -/
def absAddr (space k off : Nat) : W64 :=
  BitVec.ofNat 64 (space * 2 ^ 60 + coreX k * 2 ^ 53 + coreY k * 2 ^ 49 + off)

/-- The fence of R45: the target lies in the rectangle or in a shared cluster. `whole`: the target is a cluster. -/
def fenceOk (n : Option Node) (k : Nat) (whole : Bool) : Bool :=
  match n with
  | none => true
  | some n => !n.fenced || n.sharedCl (clusterOf k) ||
      (if whole then (List.range 16).any fun i => n.hasCore (coreIn (clusterOf k) i) else n.hasCore k)

/-- R369: an absolute name of a cluster whose map entry changed since the node started. -/
def State.stale (s : State) (n : Option Node) (a : W64) (k : Nat) : Bool :=
  match n with
  | none => false
  | some n => !addrRel a && decide (n.gen < s.gen) && decide (n.gen < Tab.get 0 s.changed (clusterOf k))

/-- Resolve an access of n bytes (R42 to R46): a place, or a DVA to translate (`inr`). -/
def State.resolve (s : State) (w : Who) (a : W64) (n : Nat) : Except Cause (Place ⊕ Nat) :=
  let sp := addrSpace a
  match sp with
  | 0 =>
    match w.loc with
    | some (.tile k _) => if a.toNat + n ≤ 2 ^ 21 then .ok (.inl (.tile k a.toNat)) else .error .space
    | some (.scratch c _) => if a.toNat + n ≤ 2 ^ 25 then .ok (.inl (.scratch c a.toNat)) else .error .space
    | _ => .error .space
  | 8 =>
    let o := bits a.toNat 59 0
    if o + n ≤ 2 ^ 48 then .ok (.inr o) else .error .space
  | 9 =>
    let o := bits a.toNat 43 0
    let d := bits a.toNat 59 44
    if o + n > 2 ^ 44 then .error .space
    else if d = 0xFFFF then .ok (.inl (.host o))
    else if d = Config.deviceNumber.toNat then .ok (.inr o)
    else .ok (.inl (.peer d o))
  | _ =>
    if sp = 1 ∨ sp = 2 ∨ sp = 3 ∨ sp = 4 then
      let o := addrOff a
      match target w.coord a with
      | none => .error .space
      | some k =>
        let cl := clusterOf k
        let limit := if sp = 1 then 2 ^ 21 else if sp = 2 then 2 ^ 25 else if sp = 3 then 320 * 2 ^ 20 else 2 ^ 16
        let whole := sp = 2 || sp = 3 || (sp = 4 && decide (o ≥ 0x8000))
        if o + n > limit then .error .space
        else if (Tab.get (some cl) s.view cl).isNone then .error .space
        else if sp = 1 && (s.absent k || s.oddPaired k) then .error .space
        else if !fenceOk w.node k whole then .error .space
        else if s.stale w.node a k then .error .staleMap
        else .ok (.inl (match sp with
          | 1 => .tile k o
          | 2 => .scratch cl o
          | 3 => .cmem cl o
          | _ => .reg k cl o))
    else .error .space

/-- The name of an address (R317): its space and resolved target. -/
def nameOf (w : Who) (a : W64) : W64 :=
  let sp := addrSpace a
  if sp = 1 ∨ sp = 4 then
    match target w.coord a with | some k => absAddr sp k (addrOff a) | none => a
  else if sp = 2 ∨ sp = 3 then
    match target w.coord a with | some k => absAddr sp (cornerCore (clusterOf k)) (addrOff a) | none => a
  else if sp = 9 ∧ bits a.toNat 59 44 = Config.deviceNumber.toNat then BitVec.ofNat 64 (8 * 2 ^ 60 + bits a.toNat 43 0)
  else a

/-! ## Translation (R52 to R57) -/

inductive Perm where
  | r | w | rw | x
deriving DecidableEq, Repr

def entKind (e : Nat) : Nat := bits e 1 0
def entHas (e : Nat) : Perm → Bool
  | .r => bits e 4 4 == 1
  | .w => bits e 5 5 == 1
  | .rw => bits e 5 4 == 3
  | .x => bits e 6 6 == 1
def entPha (e : Nat) : Nat := bits e 25 16 * 2 ^ 30 + bits e 55 26
def entPdva (e : Nat) : Nat := bits e 111 64
def entDev (e : Nat) : Nat := bits e 127 112

/-- The page size a leaf has at a level, as a power of two. -/
def levelBits : Nat → Nat
  | 2 => 30
  | 3 => 21
  | _ => 16
/-- The index of a DVA at a level. -/
def levelIndex (dva : Nat) : Nat → Nat
  | 1 => bits dva 47 39
  | 2 => bits dva 38 30
  | 3 => bits dva 29 21
  | _ => bits dva 20 16

inductive Walked where
  | leaf (size e : Nat)
  | miss (malformed : Bool)
  | busy (home frame pha : Nat)
  | poisoned
deriving DecidableEq, Repr

/-- An entry malformed at its level (R54). -/
def malformed (level e : Nat) : Bool :=
  bits e 15 7 ≠ 0 || bits e 63 56 ≠ 0 ||
  match entKind e with
  | 1 => level = 4 || bits e 6 2 ≠ 0 || entDev e ≠ 0 || entPdva e ≠ 0 || bits e 55 26 % (if level = 3 then 512 else 8192) ≠ 0
  | 2 => level = 1 || entDev e ≠ 0 || entPdva e ≠ 0 || bits e 55 26 % 2 ^ levelBits level ≠ 0
  | 3 => level = 1 || bits e 55 16 ≠ 0 || entPdva e % 2 ^ levelBits level ≠ 0 ||
      (if entDev e = 0xFFFF then decide (bits e 111 108 ≠ 0) else decide (entDev e = Config.deviceNumber.toNat))
  | _ => false

/-- The name under which a walk's entry reads park and are delivered: no address of a program has its space. -/
def walkName (pha : Nat) : W64 := BitVec.ofNat 64 (15 * 2 ^ 60 + pha)
/-- The entry that a replay has delivered for a walk's read, which is then performed (R60). -/
def entryOf (ds : List Delivered) (pha : Nat) : Option Delivered := ds.find? fun d => d.addr == walkName pha

/-- Walk from a table at a level: `fuel` levels remain. `ds` are the entries that replays have delivered. -/
def State.walkFrom (s : State) (ds : List Delivered) (dva : Nat) : Nat → Nat → Nat → Walked
  | 0, _, _ => .miss false
  | fuel + 1, level, table =>
    let pha := table + 16 * levelIndex dva level
    let go (e : Nat) : Walked :=
      if entKind e = 0 then .miss false
      else if malformed level e then .miss true
      else if entKind e = 1 then s.walkFrom ds dva fuel (level + 1) (entPha e)
      else .leaf (levelBits level) e
    match entryOf ds pha with
    | some d => if d.poison then .poisoned else go (leNat d.bytes)
    | none => match s.busyFrame pha 16 with
      | some (h, f) => .busy h f pha
      | none => if s.poisoned (s.hbmKey pha) 16 then .poisoned else go (leNat (s.readKey (s.hbmKey pha) 16))

/-- A page walk (R52): a nonzero root bit 63:40 fails it. -/
def State.walkWith (s : State) (ds : List Delivered) (dva : Nat) : Walked :=
  if s.ptRoot.toNat ≥ 2 ^ 40 then .miss true else s.walkFrom ds dva 4 1 s.ptRoot.toNat
def State.walk (s : State) (dva : Nat) : Walked := s.walkWith [] dva

/-- The entry reads of a walk arrive at their homes behind the row jobs accepted there (R154), and count the errors they correct
(R375). The home that refuses one, if any. -/
def State.serveWalk (s : State) (ds : List Delivered) (dva : Nat) : Nat → Nat → Nat → State × Option Nat
  | 0, _, _ => (s, none)
  | fuel + 1, level, table =>
    let pha := table + 16 * levelIndex dva level
    let go (s : State) (e : Nat) : State × Option Nat :=
      if entKind e == 1 && !malformed level e then s.serveWalk ds dva fuel (level + 1) (entPha e) else (s, none)
    match entryOf ds pha with
    | some d => go s (leNat d.bytes)
    | none => match s.homeArrival pha 16 with
      | (s, false) => (s, some (pha / 2 ^ 30))
      | (s, true) =>
        if (s.busyFrame pha 16).isSome then (s, none)
        else go (s.countSoft (s.hbmKey pha) 16) (leNat (s.readKey (s.hbmKey pha) 16))

def tlbFind (t : List TlbEntry) (dva : Nat) : Option TlbEntry :=
  t.find? fun e => decide (dva / 2 ^ e.size = e.page / 2 ^ e.size)

/-- A leaf joins the micro-TLB of a lookup core, 64 entries fully associative: the oldest goes (DESIGN CHOICE, log 19). -/
def Core.cacheLeaf (c : Core) (e : TlbEntry) : Core :=
  if (tlbFind c.tlb e.page).isSome then c else { c with tlb := (e :: c.tlb).take 64 }

/-- The set of a leaf among the 256 of a cluster TLB (DESIGN CHOICE, log 19). -/
def TlbEntry.set (e : TlbEntry) : Nat := e.page / 2 ^ e.size % 256
/-- A leaf joins a cluster TLB, 16 ways to a set: the oldest of its set goes. -/
def Cluster.cacheLeaf (c : Cluster) (e : TlbEntry) : Cluster :=
  if (tlbFind c.tlb e.page).isSome then c
  else
    let mine := c.tlb.filter fun x => x.set == e.set
    { c with tlb := e :: if mine.length < 16 then c.tlb else c.tlb.filter fun x => !(mine.drop 15).elem x }

/-- Who has the translation caches of a cluster; the cluster's accesses but a lookup core's data accesses use its TLB alone. -/
def Who.micro (w : Who) : Option Nat :=
  match w.u with
  | .ctx k _ => if w.fetch then none else some k
  | _ => none
def Who.cached (w : Who) : Bool :=
  match w.u with
  | .sup _ | .port _ | .host => false
  | .engine _ e => decide (e < 3)   -- the reader of a launch's records is the supervisor's
  | _ => true

/-- Cache a walked leaf in the caches that an access goes through (R57). -/
def State.cacheLeaf (s : State) (w : Who) (e : TlbEntry) : State :=
  if !w.cached then s
  else
    let s := match w.micro with
      | some k => s.onCore k fun c => c.cacheLeaf e
      | none => s
    s.onCluster w.u.cl fun c => c.cacheLeaf e

/-- The cached leaf that serves an access, and the state after: one found in the cluster TLB joins the micro-TLB. -/
def State.cachedLeaf (s : State) (w : Who) (dva : Nat) : Option (TlbEntry × State) :=
  if !w.cached then none
  else
    let below (f : TlbEntry → State) : Option (TlbEntry × State) := (tlbFind (s.cluster w.u.cl).tlb dva).map fun e => (e, f e)
    match w.micro with
    | none => below fun _ => s
    | some k => match tlbFind (s.core k).tlb dva with
      | some e => some (e, s)
      | none => below fun e => s.onCore k fun c => c.cacheLeaf e

/-- The leaf for a DVA: cached, or walked and cached. An XLATE_MISS says whether an entry was malformed (R54). -/
def State.leafFor (s : State) (w : Who) (a : W64) (dva : Nat) : Eff (TlbEntry × State) :=
  match s.cachedLeaf w dva with
  | some r => .ok r
  | none =>
    let ds := s.delivered w.u
    match s.serveWalk ds dva 4 1 s.ptRoot.toNat with
    | (_, some h) => .error (.refused h)
    | (s, none) => match s.walkWith ds dva with
      | .leaf size e =>
        let t : TlbEntry := { page := dva / 2 ^ size * 2 ^ size, size := size, leaf := e }
        .ok (t, s.cacheLeaf w t)
      | .miss m => .error (.trap .xlateMiss a { s with missForm := m })
      | .busy h f pha => .error (.park h (.read w.u f (.hbm pha) (walkName pha) 16))
      | .poisoned => .error (.trap .poison 0 s)

/-- A state that a fault keeps, with the malformed indication that the fault's walk left in t (R54). -/
def State.missOf (s t : State) : State := { s with missForm := t.missForm }

/-- A part of an access: where it is performed, its length, its name and its page's MTYPE. -/
structure Part where
  place : Place
  len : Nat
  name : W64
  raw : W64 := name            -- the address as the access names it (TRAPADDR)
  mtype : Nat := 0
  port : Nat := 0              -- the host port of the window that holds it (R392)
  direct : Bool := false       -- a copy burst's whole block, which passes the Lantern by when it is not resident (R109)
deriving DecidableEq, Repr

/-- The DVA that a part's name is, if it is one (R58). -/
def Part.dva (p : Part) : Option Nat := if addrSpace p.name = 8 then some (bits p.name.toNat 59 0) else none

/-- Pieces of n bytes from an offset, one per 32-byte granule: offset and length. -/
def granulePieces : Nat → Nat → Nat → List (Nat × Nat)
  | 0, _, _ => []
  | f + 1, a, n =>
    if n = 0 then []
    else
      let m := min n (32 - a % 32)
      (0, m) :: (granulePieces f (a + m) (n - m)).map fun (o, l) => (o + m, l)

/-- The granules of n bytes at a place of this device's memories; a register, a peer or the host takes an access whole. -/
def Place.pieces (p : Place) (n : Nat) : List (Nat × Nat) :=
  match p with
  | .tile _ o | .scratch _ o | .cmem _ o | .hbm o => granulePieces (n / 32 + 2) o n
  | _ => [(0, n)]
/-- The granule accesses of a part (R157, R316). -/
def Part.pieces (p : Part) : List Part :=
  (p.place.pieces p.len).map fun (o, n) =>
    { p with place := p.place.add o, len := n, name := p.name + BitVec.ofNat 64 o }

/-- An open window that holds n bytes with a permission (R392). -/
def State.hostWindow (s : State) (addr n : Nat) (p : Perm) : Option Window :=
  ((List.range 16).map fun i => Tab.get {} s.windows i).find? fun w =>
    w.isOpen && decide (w.base ≤ addr ∧ addr + n ≤ w.base + w.len) &&
      (match p with | .r | .x => w.r | .w => w.w | .rw => false)

/-- Checks beyond the leaf for a place of another device or the host. -/
def State.outside (s : State) (w : Who) (p : Place) (n : Nat) (perm : Perm) : Option Cause :=
  match p with
  | .host a => if (s.hostWindow a n perm).isSome then none else some .xlatePerm
  | .peer d _ => if (s.route d (w.coord.getD 0)).isEmpty then some .xlateMiss else none
  | _ => none

/-- The host port that an access of n bytes at a place leaves by: its window's. -/
def State.hostPort (s : State) (p : Place) (n : Nat) (perm : Perm) : Nat :=
  match p with
  | .host a => match s.hostWindow a n perm with | some w => w.port | none => 0
  | _ => 0

/-- The most pages that n bytes from a DVA can touch: the smallest page is 64 KiB. -/
def pagesOf (n : Nat) : Nat := n / 65536 + 2

/-- The parts of n bytes from a DVA: `fuel` pages at most. The first failing part decides (R415). -/
def State.locateDva (s : State) (w : Who) (a : W64) (perm : Perm) : Nat → Nat → Nat → Nat → Eff (List Part × State)
  | 0, _, _, _ => .ok ([], s)
  | fuel + 1, dva, done, n =>
    match s.leafFor w (a + BitVec.ofNat 64 done) dva with
    | .error e => .error e
    | .ok (t, s') =>
      if !entHas t.leaf perm then .error (.trap .xlatePerm (a + BitVec.ofNat 64 done) s)
      else
        let off := dva - t.page
        let m := min n (2 ^ t.size - off)
        let place : Place :=
          if entKind t.leaf = 2 then .hbm (entPha t.leaf + off)
          else if entDev t.leaf = 0xFFFF then .host (entPdva t.leaf + off)
          else .peer (entDev t.leaf) (entPdva t.leaf + off)
        match s.outside w place m perm with
        | some c => .error (.trap c (a + BitVec.ofNat 64 done) s)
        | none =>
          let p : Part := { place := place, len := m, name := BitVec.ofNat 64 (8 * 2 ^ 60 + dva), mtype := bits t.leaf 3 2, port := s.hostPort place m perm }
          if n ≤ m then .ok ([p], s')
          else match s'.locateDva w a perm fuel (dva + m) (done + m) (n - m) with
            | .error e => .error e
            | .ok (ps, s'') => .ok (p :: ps, s'')

/-- Resolve and translate an access: the parts it is performed in, all checked before any is performed. -/
def State.locate (s : State) (w : Who) (a : W64) (n : Nat) (perm : Perm) : Eff (List Part × State) :=
  match s.resolve w a n with
  | .error c => .error (.trap c a s)
  | .ok (.inl p) =>
    match p with
    | .peer d _ =>
      let m := s.sysEnt d
      if !m.valid then .error (.trap .xlateMiss a s)
      else if !(match perm with | .r | .x => m.r | .w => m.w | .rw => m.r && m.w) then .error (.trap .xlatePerm a s)
      else match s.outside w p n perm with
        | some c => .error (.trap c a s)
        | none => .ok ([{ place := p, len := n, name := nameOf w a }], s)
    | .host _ =>
      match s.outside w p n perm with
      | some c => .error (.trap c a s)
      | none => .ok ([{ place := p, len := n, name := nameOf w a, port := s.hostPort p n perm }], s)
    | p => .ok ([{ place := p, len := n, name := nameOf w a, raw := a }], s)
  | .ok (.inr dva) => s.locateDva w a perm (pagesOf n) dva 0 n

/-! ## The Lantern (R106 to R112) -/

def Form.sectors : Form → Nat
  | .zero => 0
  | .const => 1
  | .narrow16 => 5
  | .raw => 8

/-- The 64 words of a block's bytes. -/
def wordsOf (bs : List Byte) : List Nat := (List.range 64).map fun i => leNat ((bs.drop (4 * i)).take 4)

/-- The first form whose condition holds (R107). -/
def chooseForm (bs : List Byte) (poisoned : Bool) : Form :=
  let ws := wordsOf bs
  let w0 := ws.headD 0
  if poisoned then .raw
  else if ws.all (· == 0) then .zero
  else if ws.all (· == w0) then .const
  else if ws.all fun w => w / 65536 == w0 / 65536 then .narrow16
  else .raw

/-- A form's stored contents of a block: its sectors one after another (R106). The block map's sector numbers are not held: no rule
lets anything read one (log 111). -/
def Form.stored (bs : List Byte) : Form → List Byte
  | .zero => []
  | .const => bs.take 4 ++ List.replicate 28 0
  | .narrow16 => ((bs.drop 2).take 2 ++ List.replicate 30 0) ++ (List.range 64).flatMap fun i => (bs.drop (4 * i)).take 2
  | .raw => bs
/-- The block's bytes that a form's stored contents stand for (R106). -/
def Form.expand (st : List Byte) : Form → List Byte
  | .zero => List.replicate 256 0
  | .const => (List.range 64).flatMap fun _ => st.take 4
  | .narrow16 => (List.range 64).flatMap fun i => (st.drop (32 + 2 * i)).take 2 ++ st.take 2
  | .raw => st

def State.blockForm (s : State) (cl b : Nat) : Form :=
  let a := s.cmemKey cl (256 * b)
  chooseForm (s.readKey a 256) (s.poisoned a 256)

/-- Freed sectors refill the reserve up to its target, the rest are free (R112). -/
def CMem.release (m : CMem) (n : Nat) : CMem :=
  let t := min m.resTgt 262144
  let r := min n (t - m.res)
  { m with res := m.res + r, free := m.free + (n - r) }

/-- Store a block in its form (R110): none when too few sectors are free. -/
def CMem.recompress (m : CMem) (b : Nat) (f : Form) : Option CMem :=
  let old := (Tab.get Form.zero m.forms b).sectors
  let m := { m with bad := m.bad.filter fun x => x.1 != b, soft := m.soft.filter fun x => x.1 != b }
  let m' := { m with forms := if f = Form.zero then Tab.drop m.forms b else Tab.set m.forms b f }
  if f.sectors ≤ old then some (m'.release (old - f.sectors))
  else if f.sectors ≤ m.free then some ({ m' with free := m.free - f.sectors }.release old)
  else none

/-- Too few sectors: CMFULL and a notice (R111). -/
def State.cmemFull (s : State) (cl : Nat) : State :=
  (s.onCluster cl fun c => { c with cm := { c.cm with full := true } }).noticeFree 2
/-- An eviction parks on CMEM_FULL, its slot pinned. -/
def State.parkEviction (s : State) (cl b : Nat) : State :=
  (s.onCluster cl fun c => { c with cm := { c.cm with evicting := some b } }).cmemFull cl
/-- Does a miss park: an eviction is parked, or a copy write that waits as one does (R110, R111)? -/
def CMem.blocked (m : CMem) : Bool := m.evicting.isSome || !m.waiting.isEmpty
/-- Does an access to a block stand behind one that is parked or waits (R108)? -/
def CMem.behind (m : CMem) (b : Nat) : Bool :=
  m.parked.any (fun e => e.block == b) || m.waiting.any fun f => match f.place with | .cmem _ o => o / 256 == b | _ => false

/-- Make room for a block: drop a clean victim, recompress a dirty one, or park the eviction on CMEM_FULL (R111). -/
def State.lanternRoom (s : State) (cl : Nat) : State × Bool :=
  let m := (s.cluster cl).cm
  if m.lantern.length < 2048 then (s, true)
  else match m.lantern.getLast? with
    | none => (s, true)
    | some (v, dirty) =>
      let drop (m : CMem) : CMem := { m with lantern := m.lantern.dropLast }
      if !dirty then (s.onCluster cl fun c => { c with cm := drop c.cm }, true)
      else match m.recompress v (s.blockForm cl v) with
        | some m' => (s.onCluster cl fun c => { c with cm := drop m' }, true)
        | none => (s.parkEviction cl v, false)

/-- Granules that an uncorrectable sector of a form poisons at expansion (R114); sector 8 is the map entry. -/
def Form.badGranules (f : Form) (sector : Nat) : List Nat :=
  match f, sector with
  | .raw, 8 => List.range 8
  | .raw, i => [i]
  | .narrow16, 0 | .narrow16, 8 => List.range 8
  | .narrow16, i => [2 * (i - 1), 2 * (i - 1) + 1]
  | .const, _ => List.range 8
  | .zero, i => if i = 8 then List.range 8 else []
/-- Poison a block's granules at an offset. -/
def State.poisonBlock (s : State) (cl b : Nat) (gs : List Nat) : State :=
  gs.foldl (fun s g => s.setPoison (s.cmemKey cl (256 * b) / 32 + g)) s
/-- Expansion reads and checks a block's stored sectors, and applies their errors (R114, R375): those not found before are counted. -/
def State.applySectors (s : State) (cl b : Nat) : State :=
  let m := (s.cluster cl).cm
  let mine := m.bad.filter fun x => x.1 == b
  let s := (m.soft.filter fun x => x.1 == b).foldl (fun s _ => s.countCorrected (s.physCl cl)) s
  if mine.isEmpty then s
  else
    let s := mine.foldl (fun s (_, i, found) =>
      let s := s.poisonBlock cl b ((Tab.get Form.zero m.forms b).badGranules i)
      if found then s else s.countUncorrected (s.physCl cl) 0) s
    s.onCluster cl fun c => { c with cm := { c.cm with bad := c.cm.bad.filter fun x => x.1 != b } }

/-- An access to a block by words (R109): true when it is served, false when its miss parks. -/
def State.lantern (s : State) (cl b : Nat) (write : Bool) : State × Bool :=
  let m := (s.cluster cl).cm
  match m.lantern.find? fun e => e.1 == b with
  | some (_, d) =>
    (s.onCluster cl fun c => { c with cm := { c.cm with
      lantern := (b, d || write) :: c.cm.lantern.filter fun e => e.1 != b } }, true)
  | none =>
    if m.blocked then (s, false)
    else
      let (s, ok) := s.lanternRoom cl
      if ok then ((s.onCluster cl fun c => { c with cm := { c.cm with lantern := (b, write) :: c.cm.lantern } }).applySectors cl b, true)
      else (s, false)

/-- Every block of n bytes at a CMEM offset: none parked, or the first that parks. -/
def State.lanternRange (s : State) (cl off n : Nat) (write : Bool) : State × Option Nat :=
  (List.range ((off + n - 1) / 256 - off / 256 + 1)).foldl (fun (s, r) i =>
    match r with
    | some b => (s, some b)
    | none =>
      let b := off / 256 + i
      let (s, ok) := s.lantern cl b write
      (s, if ok then none else some b)) (s, none)

/-- A block is resident in the Lantern. -/
def CMem.resident (m : CMem) (b : Nat) : Bool := m.lantern.any fun e => e.1 == b

end Sys2Proof.Machine
end

