-- ==== Sys2Proof/Machine/Points.lean ====
section
/-! DEFINITION. Performing accesses at their points: row jobs (R154, R173, R174), atomics (R198 to R200), frames and replay
(R59 to R62), the ENGREG registers (R416), loads and stores, held effects and their release (R147), requests that leave
for the fabric and the host. -/

namespace Sys2Proof.Machine

/-! ## Requests that leave the device -/

/-- Send a write to a peer or the host: outstanding until its home acknowledges it (R65, R392, R396; log 94). A window that has
closed since its access was checked does not stop it (R392). -/
def State.sendWrite (s : State) (f : Flight) : State :=
  match f.place with
  | .peer d a =>
    let p := s.portFor d (f.who.coord.getD 0)
    let n := (Tab.get ({} : Port) s.ports p).nextSeq
    let s := s.sendFabric p (BitVec.ofNat 16 d) (.memWr a f.bytes f.bad .system f.who)
    { s with extWrites := s.extWrites ++ [{ f := f, port := p, seq := n }] }
  | .host a =>
    let n := s.hostSeq
    let s := s.sendHost { type := 2, seq := 0, addr := a, aux := 0, payload := f.bytes, port := f.port, ackreq := true }
    { s with extWrites := s.extWrites ++ [{ f := f, port := f.port, seq := n }] }
  | _ => s

/-- Ask a peer or the host for bytes or an atomic, and let the unit wait for the answer. -/
def State.sendAsk (s : State) (u : UnitId) (q : ExtAsk) (reg : Option Nat) : State :=
  let id := s.nextExt
  let (s, seq, port) := match q.place, q.amo with
    | .peer d a, amo =>
      let p := s.portFor d (u.coord.getD 0)
      let n := (Tab.get ({} : Port) s.ports p).nextSeq
      (s.sendFabric p (BitVec.ofNat 16 d) (match amo with
        | some (op, wide, v, c) => .atomic a op.code .system v c wide u
        | none => .memRd a q.len .system u), n, p)
    | .host a, _ =>
      let port := match s.hostWindow a q.len .r with | some w => w.port | none => 0
      (s.sendHost { type := 3, seq := 0, addr := a, aux := q.len, payload := [], port := port }, s.hostSeq, port)
    | _, _ => (s, 0, 0)
  let r : ExtRead := { id := id, u := u, addr := q.name, len := q.len, reg := reg, place := q.place, amo := q.amo, mtype := q.mtype, cmd := q.cmd
                       seq := seq, port := port }
  let s := { s with nextExt := id + 1, extReads := s.extReads ++ [r] }
  if reg.isSome then s else s.setWait u (.reply id)

/-! ## Performing a store -/

/-- Does a register offset lie in FSCMD's doubleword, whose writes the home performs in its arrival order (R62, R154)? -/
def fscmdAt (o : Nat) : Bool := o / 8 == 0x20
/-- Who serves a place and may refuse it: a home (R61), or a cluster's Lantern (R111). -/
def Place.homeId : Place → Option Nat
  | .hbm a => some (a / 2 ^ 30)
  | .cmem cl _ => some (1024 + cl)
  | .reg k _ o => if fscmdAt o then some k else none
  | _ => none

/-- The number of the read or atomic that a home has refused a unit (R328). -/
def State.refusedAt (s : State) (u : UnitId) (home : Nat) : Option Nat :=
  match s.wait u with
  | .refused h id => if h = home then some id else none
  | _ => none

/-- Does a unit's network interface hold a request it has been refused by a home, older than `before`? A later request to that
home waits behind it (R328). -/
def State.niHolds (s : State) (u : UnitId) (home before : Nat) : Bool :=
  let c := s.core u.niCore
  (c.retries.any fun f => f.who.source == u.source && decide (f.id < before) && f.place.homeId == some home) ||
  (u.neighbours.any fun v => v != u && (s.refusedAt v home).any fun id => decide (id < before)) ||
  (match u with
    | .ctx .. | .ni _ | .home _ =>
      (c.vn0.any fun m => m.refused && decide (m.id < before) && m.dstDev == Config.deviceNumber && m.dstCore == home) ||
      (c.rowOut.any fun j => j.refused && decide (j.id < before) && j.home == some home)
    | _ => false)
/-- The same for a read or atomic that the unit makes now, or makes again. -/
def State.held (s : State) (u : UnitId) (home : Nat) : Bool := s.niHolds u home ((s.refusedAt u home).getD s.nextId)

/-- A refused store stays with its network interface, which retries it (R61); refused again, it keeps its place. -/
def State.refuseStore (s : State) (f : Flight) : State :=
  (s.onCore f.who.niCore fun c => { c with retries := c.retries ++ [{ f with id := if f.id = 0 then s.nextId else f.id }] }).stamp

/-- A miss parks behind the eviction, one of up to 32 (R111). -/
def State.parkMiss (s : State) (cl b : Nat) (p : Parked) : State × Bool :=
  if (s.cluster cl).cm.parked.length < 32 then
    (s.onCluster cl fun c => { c with cm := { c.cm with parked := c.cm.parked ++ [{ block := b, acc := p }] } }, true)
  else (s, false)

/-- The bytes of a store reach their place; poisoned ones poison their granules (R82). A granule of an access that writes a whole
scratchpad block leaves the metadata of the whole (R217). -/
def State.writeFlight (s : State) (f : Flight) : State :=
  let s := f.bad.foldl (fun s i => s.poisonPlace (f.place.add i) 1) (s.writePlace f.place f.bytes f.wr)
  match f.place, f.whole with
  | .scratch cl o, some (z, nf) =>
    let (_, _, dom) := s.blockMeta cl (o / 256)
    { s with smeta := Tab.set s.smeta (s.physCl cl * 131072 + o / 256) (z, nf, dom) }
  | _, _ => s

/-- A store that a parked miss or a refusal follows. -/
def State.missStore (s : State) (cl b : Nat) (f : Flight) : State :=
  match s.parkMiss cl b (.write 0 f) with
  | (s, true) => s
  | (s, false) => s.refuseStore f

/-- A copy write of a whole block waits for sectors, as a victim's recompression does (R110, R111). -/
def State.waitWrite (s : State) (cl : Nat) (f : Flight) : State :=
  (s.onCluster cl fun c => { c with cm := { c.cm with waiting := c.cm.waiting ++ [f] } }).cmemFull cl
/-- A whole block's bytes are compressed straight to the store, where there are sectors for its form (R109). -/
def State.storeBlock (s : State) (cl b : Nat) (f : Flight) : Option State :=
  ((s.cluster cl).cm.recompress b (chooseForm f.bytes (!f.bad.isEmpty))).map fun m =>
    (s.onCluster cl fun c => { c with cm := m }).writeFlight f

/-- A copy burst writes a whole block that is not resident: behind what is parked on the block or waits for it (R108), else
compressed straight to the store; without sectors it waits as a victim does. -/
def State.writeThrough (s : State) (cl b : Nat) (f : Flight) : State :=
  let m := (s.cluster cl).cm
  if m.parked.any fun e => e.block == b then s.missStore cl b f
  else if m.behind b then s.waitWrite cl f
  else match s.storeBlock cl b f with
    | some s => s
    | none => s.waitWrite cl f

/-- A store of a copy burst that covers a whole block. -/
def Flight.wholeBlock (f : Flight) (o : Nat) : Bool := f.cmd != 0 && decide (f.bytes.length = 256 ∧ o % 256 = 0)

/-- Perform a store to memory at its point. A home refuses it while its network interface retries an older request there, or
while its queue of 64 is full (R154, R328); a frame that is not NORMAL parks it, but for a FRAMEREL write (R60). -/
def State.performMem (s : State) (f : Flight) : State :=
  let before := if f.id = 0 then s.nextId else f.id
  match f.place with
  | .peer .. | .host _ => s.sendWrite f
  | .reg .. => s
  | .cmem cl o =>
    if s.niHolds f.who (1024 + cl) before then s.refuseStore f
    else if f.wholeBlock o && !(s.cluster cl).cm.resident (o / 256) then s.writeThrough cl (o / 256) f
    else match s.lantern cl (o / 256) true with
      | (s, true) => s.writeFlight f
      | (s, false) => s.missStore cl (o / 256) f
  | .hbm pha =>
    if s.niHolds f.who (pha / 2 ^ 30) before then s.refuseStore f
    else match s.homeArrival pha f.bytes.length with
      | (_, false) => s.refuseStore f
      | (s, true) => match (if f.framerel then none else s.busyFrame pha f.bytes.length) with
        | none => s.writeFlight f
        | some (h, fr) => match s.parkAt h (.write fr f) with
          | (s, true) => s
          | (s, false) => s.refuseStore f
  | _ => s.writeFlight f

/-- Z and NF of the scratchpad block at an offset of a store, where the store writes it whole (R217). -/
def Flight.blockNote (f : Flight) (o : Nat) : Option (Bool × Bool) :=
  match f.place with
  | .scratch _ off =>
    let b := (off + o) / 256 * 256
    if off ≤ b ∧ b + 256 ≤ off + f.bytes.length then
      let data := (f.bytes.drop (b - off)).take 256
      let bad := f.bad.any fun i => decide (b - off ≤ i ∧ i < b - off + 256)
      some (!bad && data.all (· == 0), bad || match f.wr with
        | some (_, e) => nonFinite e data
        | none => true)
    else none
  | _ => none

/-- The granule accesses of a store (R157, R316); a whole block of a copy burst stays one. -/
def Flight.pieces (f : Flight) : List Flight :=
  let whole := match f.place with | .cmem _ o => f.wholeBlock o | _ => false
  if whole then [f]
  else (f.place.pieces f.bytes.length).map fun (o, n) =>
    { f with
      name := f.name + BitVec.ofNat 64 o, place := f.place.add o, bytes := (f.bytes.drop o).take n, whole := f.blockNote o
      bad := f.bad.filterMap fun i => if o ≤ i ∧ i < o + n then some (i - o) else none }

/-! ## Item records (R374) -/

/-- Append an item record to the fault log. A full ring, or one that cannot be written, drops it and counts it. -/
def State.item (s : State) (core src kind cause : Nat) (launch : Nat) (who loc : W64) : State :=
  let s := s.onLaunch launch fun l => { l with items := min 65535 (l.items + 1) }
  let id : W64 := match s.launch? launch with
    | some l => BitVec.ofNat 64 (leNat ((l.bytes.drop 0x18).take 8))
    | none => 0
  let dropIt : State := { s with flogDrop := if s.flogDrop = 0xFFFFFFFFFFFFFFFF then s.flogDrop else s.flogDrop + 1 }
  if s.flogN = 0 ∨ s.flogUsed ≥ s.flogN.toNat then dropIt
  else
    let dva := s.flogBase.toNat + 32 * s.flogHead.toNat
    match s.walk dva with
    | .leaf size e =>
      if entKind e = 2 && entHas e .w then
        let rec0 := leBytes 8 (core * 2 ^ 16 + src * 2 ^ 12 + kind * 2 ^ 8 + cause) ++ w64Bytes id ++ w64Bytes who ++ w64Bytes loc
        let s := s.performMem { who := .home core, name := BitVec.ofNat 64 (8 * 2 ^ 60 + dva), place := .hbm (entPha e + dva % 2 ^ size), bytes := rec0 }
        { s with flogHead := if s.flogHead + 1 = s.flogN then 0 else s.flogHead + 1, flogUsed := s.flogUsed + 1 }
      else dropIt
    | _ => dropIt

/-- The launch of a core as a number, 0 for none. -/
def State.launchId (s : State) (u : UnitId) : Nat := match s.launchOf u with | some l => l.id | none => 0

/-! ## Atomics (R200) -/

/-- New value, Z, C and flags of an atomic on `w` bits. -/
def amoOp (op : Aop) (w : Nat) (old v c : Nat) : Nat × Option Bool × Option Bool × Flags :=
  let m := 2 ^ w
  match op with
  | .add => ((old + v) % m, none, none, 0)
  | .and => (Nat.land old v, none, none, 0)
  | .or => (Nat.lor old v, none, none, 0)
  | .xor => (Nat.xor old v, none, none, 0)
  | .min => (if sext w v < sext w old then v else old, none, none, 0)
  | .max => (if sext w old < sext w v then v else old, none, none, 0)
  | .swap => (v, none, none, 0)
  | .cas => (if old = c then v else old, some (decide (old = c)), none, 0)
  | .incw => (if old ≥ c then 0 else old + 1, none, some (decide (old ≥ c)), 0)
  | .bfadd => (if old > c then old else min (old + v) c, none, some (decide (old > c ∨ old + v > c)), 0)
  | .fadd =>
    let (x, f) := exactAdd .rne (decodeNum .fp32 old) (decodeNum .fp32 v)
    let (r, g) := roundTo .fp32 .rne 0 x
    (r, none, none, f ||| g)
  | .fmax => ((fpMinMax true .fp32 old v (opd .fp32 old 31) (opd .fp32 v 31)).1, none, none, 0)
  | .fmin => ((fpMinMax false .fp32 old v (opd .fp32 old 31) (opd .fp32 v 31)).1, none, none, 0)
  | .accbf =>
    let (x, f) := exactAdd .rne (decodeNum .fp32 old) (decodeNum .bf16 (v % 65536))
    let (r, g) := roundTo .fp32 .rne 0 x
    (r, none, none, f ||| g)

/-- Read and write one word at its point with nothing between (R329). -/
def State.performAmo (s : State) (p : Place) (op : Aop) (wide : Bool) (v c : W64) : Nat × State :=
  let n := if wide then 8 else 4
  match s.key p with
  | none => (0, s)
  | some a =>
    let old := leNat (s.readKey a n)
    let (new, _, _, _) := amoOp op (8 * n) old (v.toNat % 2 ^ (8 * n)) (c.toNat % 2 ^ (8 * n))
    (old, (s.countSoft a n).writePlace p (leBytes n new) none)

/-! ## Loads that land later (R230) -/

/-- The tag that a tag byte gives a loaded word (R133). -/
def tagOfByte (b : Byte) : Tag := if b.getLsbD 7 then BitVec.ofNat 5 (min (b.toNat % 32) 24) else 24

/-- The register a load delivers: 0 byte, 1 half, 2 word (tag 24), 3 doubleword, 4 a word and its tag byte. -/
def loadConv (conv : Nat) (bs : List Byte) : SReg :=
  match conv with
  | 0 => { val := BitVec.ofInt 64 (sext 8 (leNat (bs.take 1))), tag := 31 }
  | 1 => { val := BitVec.ofInt 64 (sext 16 (leNat (bs.take 2))), tag := 31 }
  | 2 => { val := BitVec.ofInt 64 (sext 32 (leNat (bs.take 4))), tag := 24 }
  | 4 => { val := BitVec.ofInt 64 (sext 32 (leNat (bs.take 4))), tag := tagOfByte (bs.getD 4 0) }
  | _ => { val := BitVec.ofNat 64 (leNat (bs.take 8)), tag := 31 }

/-- What a scalar atomic leaves in sd (R231), and the flags its old value raises. -/
def amoResult (op : Aop) (wide : Bool) (old : Nat) (v c : W64) : SReg × Flags :=
  let w := if wide then 64 else 32
  let (_, z, cy, f) := amoOp op w old (v.toNat % 2 ^ w) (c.toNat % 2 ^ w)
  let tag : Tag := match op with
    | .fadd | .fmax | .fmin | .accbf => 24
    | _ => 31
  ({ val := BitVec.ofNat 64 (if wide then old else old + if (z.getD false) || (cy.getD false) then 2 ^ 32 else 0), tag := tag }, f)

/-- The two parts of a tagged load: the word, then its tag byte. -/
def joinParts (x y : List Byte) : List Byte := if x.length = 4 then x ++ y else y ++ x

/-- The data of a waiting load have come at TIME t: the result `res` lands, but a tagged load waits for both its parts. -/
def Pending.come (p : Pending) (bs : List Byte) (res : Pending → List Byte → SReg) (t : Nat) : Pending :=
  match p.conv, p.half with
  | 4, none => { p with half := some bs }
  | 4, some x => { p with val := .sreg (res p (joinParts x bs)), due := some t }
  | _, _ => { p with val := .sreg (res p bs), due := some t }

/-- The data of a scalar load or atomic outstanding for register r have come: the result lands, or POISON is reported at its
PC. -/
def State.finishLoad (s : State) (u : UnitId) (r : Nat) (amo : Option (Aop × Bool × W64 × W64)) (bs : List Byte)
    (poison : Bool) : State :=
  let waiting (p : Pending) : Bool := decide (p.who = u ∧ p.dest = .s r) && (match p.val with | .wait => true | _ => false)
  let old := match u with
    | .sup n => (s.sup n).pend.find? waiting
    | u => (s.dense u.cl).pend.find? waiting
  let drop (l : List Pending) : List Pending := l.filter fun p => !waiting p
  match old with
  | none => s
  | some o =>
    if poison then
      let s := match u with
        | .sup n => s.onSup n fun x => { x with pend := drop x.pend }
        | u => s.onDense u.cl fun d => { d with pend := drop d.pend }
      s.takeTrap u { cause := .poison, pc := o.pc, resume := o.pc }
    else
      let (s, res) : State × (Pending → List Byte → SReg) := match amo with
        | none => (s, fun p bs => loadConv p.conv bs)
        | some (op, wide, v, c) =>
          let (x, f) := amoResult op wide (leNat bs) v c
          (s.collect u f (s.num u).sr, fun _ _ => x)
      let fix (p : Pending) : Pending := if waiting p then p.come bs res s.time else p
      match u with
      | .sup n => s.onSup n fun x => { x with pend := x.pend.map fix }
      | u => s.onDense u.cl fun d => { d with pend := d.pend.map fix }

/-! ## Frames (R59 to R62) -/

def Parked.store? : Parked → Option Flight
  | .write _ f => some f
  | _ => none

/-- Stores that their points have not performed: sent to another device or the host, parked behind the Lantern or a frame,
refused, in flight; one unit's stores of one name stand in program order. -/
def State.storesOut (s : State) : List Flight :=
  s.extWrites.map (·.f) ++
  s.clusters.flatMap (fun (_, c) => c.cm.waiting ++ c.cm.parked.filterMap fun e => e.acc.store?) ++
  s.cores.flatMap (fun (_, c) => c.fq.filterMap Parked.store? ++ c.retries) ++ s.flights

/-! ### Accesses that come by a port (R391, R396) -/

/-- The reason code of a NACK (R390): a cause the codes do not list is FORMAT. -/
def nackReason : Cause → Nat
  | .xlateMiss => 2
  | .xlatePerm => 3
  | .poison => 4
  | _ => 6
def nackBusy : Nat := 5

/-- A refused packet is not accepted: it may come again under its number (R391). -/
def State.forgetSeq (s : State) (r : PortReq) : State :=
  { s with sources := s.sources.map fun x => if x.who = r.who then { x with seqs := x.seqs.erase r.seq } else x }
/-- A packet is refused with a reason. -/
def State.answerNack (s : State) (r : PortReq) (reason : Nat) : State :=
  let s := { s with portJobs := s.portJobs.filter fun j => j.req != r }
  match r.dev with
  | none => (s.forgetSeq r).sendHost { type := 6, seq := 0, addr := 0, aux := r.seq % 2 ^ 24 * 256 + reason, payload := [], port := r.port, dest := some r.who }
  | some d => s.sendFabric r.port d (.nack r.seq reason)
/-- A write has been performed: a host's acknowledgement, or the home's to another device, of one part; the port's own went at
arrival (R396, R397; log 94). -/
def State.answerDone (s : State) (r : PortReq) : State :=
  match r.dev with
  | none =>
    if r.ack then s.sendHost { type := 5, seq := 0, addr := 0, aux := r.seq, payload := [], port := r.port, dest := some r.who } else s
  | some d => s.sendBy d r.who (.ack r.seq 1)
/-- A read's data; a host's packet that asks for an acknowledgement is acknowledged with them (R389). -/
def State.answerData (s : State) (r : PortReq) (addr : Nat) (bs : List Byte) : State :=
  match r.dev with
  | none => (s.sendHost { type := 4, seq := 0, addr := addr, aux := r.seq, payload := bs, port := r.port, dest := some r.who }).answerDone r
  | some d => s.sendBy d r.who (.data r.seq bs r.who)

def PortOp.perm : PortOp → Perm
  | .write .. => .w
  | .read _ => .r
  | .amo .. => .rw
def PortOp.len : PortOp → Nat
  | .write bs _ => bs.length
  | .read n => n
  | .amo _ wide _ _ => if wide then 8 else 4

/-- A request that another device or the host must answer for a packet. -/
def State.forward (s : State) (r : PortReq) (q : ExtAsk) : State :=
  let s := s.sendAsk (.port r.port) q none
  { s with extReads := s.extReads.map fun e => if e.id + 1 = s.nextExt then { e with serves := some r } else e }

/-- The core at whose row service unit an access of a port is first performed: its answer leaves by that core's port (R395). -/
def answering (ps : List Part) : Nat := ps.findSome? (fun p => match p.place with | .hbm a => some (a / 2 ^ 30) | _ => none) |>.getD 0

/-- Is a part of a packet's access still to be performed? -/
def State.partsOut (s : State) (r : PortReq) : Bool :=
  (s.storesOut.any fun f => f.serves == some r) || s.extReads.any fun e => e.serves == some r
/-- The writes and atomics of ports whose every part has been performed are answered (R391, R396). -/
def State.answerServed (s : State) : State :=
  s.portJobs.foldl (fun s j =>
    if s.partsOut j.req then s
    else
      let done : State := { s with portJobs := s.portJobs.erase j }
      match j.op with
      | .write .. => done.answerDone j.req
      | .amo .. => done.answerData j.req j.dva j.old
      | .read _ => s) s

/-- The granules of a port's write as stores. -/
def portFlights (r : PortReq) (bs : List Byte) (bad : List Nat) : List Part → Nat → List Flight
  | [], _ => []
  | p :: ps, o =>
    ({ who := .port r.port, name := p.name, place := p.place, bytes := (bs.drop o).take p.len, serves := some r, port := p.port
       bad := bad.filterMap fun i => if o ≤ i ∧ i < o + p.len then some (i - o) else none } : Flight).pieces ++ portFlights r bs bad ps (o + p.len)

/-- Stores of ports in flight are performed: at homes, or sent on. -/
def State.performPort (s : State) (p : Flight → Bool) : State :=
  s.flights.foldl (fun s f => if p f then { s with flights := s.flights.erase f }.performMem f else s) s

/-- A port's write, granule by granule (R316). A turn whose stores are performed later leaves them in flight. -/
def State.portWrite (s : State) (r : PortReq) (dva : Nat) (bs : List Byte) (bad : List Nat) (ps : List Part) : State :=
  let s : State := { s with portJobs := s.portJobs ++ [{ req := r, dva := dva, op := .write bs bad }], flights := s.flights ++ portFlights r bs bad ps 0 }
  (if s.lateStores then s else s.performPort fun f => f.serves == some r).answerServed

/-- A port's read (log 76): of this device's memory at once; parts of another device's or the host's are asked for, and the access is
made again when they have come. -/
def State.portRead (s : State) (r : PortReq) (dva n : Nat) (ps : List Part) : State :=
  let job : PortJob := (s.portJobs.find? fun j => j.req == r).getD { req := r, dva := dva, op := .read n }
  let got (p : Part) : Option Delivered := job.got.find? fun d => d.addr == p.name
  let here (p : Part) : Option Nat := match p.place with | .hbm _ => s.key p.place | _ => none
  let away := ps.filter fun p => (here p).isNone
  if ps.any fun p => match here p with | some a => s.poisoned a p.len | none => (got p).any (·.poison) then s.answerNack r (nackReason .poison)
  else if away.all fun p => (got p).isSome then
    let s := ps.foldl (fun s p => match here p with | some a => s.countSoft a p.len | none => s) s
    State.answerData { s with portJobs := s.portJobs.filter fun j => j.req != r } r dva
      (ps.flatMap fun p => match here p with | some a => s.readKey a p.len | none => ((got p).map (·.bytes)).getD [])
  else
    let s := if s.portJobs.any fun j => j.req == r then s else { s with portJobs := s.portJobs ++ [job] }
    away.foldl (fun s p =>
      if (got p).isSome || s.extReads.any (fun e => e.serves == some r && e.addr == p.name) then s
      else s.forward r { place := p.place, name := p.name, len := p.len }) s

/-- The port at which a SYSTEM atomic on a home's word is performed (R199). -/
def atomicPort (pha : Nat) : Nat := pha / 2 ^ 30 % 12
/-- A SYSTEM atomic at its port, after those that stand before it there; between its read and its write, the home may perform others'
accesses (R329). -/
def State.portAmo (s : State) (r : PortReq) (dva pha : Nat) (op : Aop) (wide : Bool) (v c : W64) : State :=
  let n := if wide then 8 else 4
  let key := s.hbmKey pha
  let s := s.performPort fun f => f.atom == some .system &&
    match s.key f.place with | some a => decide (a < key + n ∧ key < a + f.bytes.length) | none => false
  if s.poisoned key n then s.answerNack r (nackReason .poison)
  else if s.lateStores then
    let old := leNat (s.readKey key n)
    let (new, _, _, _) := amoOp op (8 * n) old (v.toNat % 2 ^ (8 * n)) (c.toNat % 2 ^ (8 * n))
    let s := s.countSoft key n
    { s with
      portJobs := s.portJobs ++ [{ req := r, dva := dva, op := .amo op wide v c, old := leBytes n old }]
      flights := s.flights ++ [{ who := .port (atomicPort pha), name := BitVec.ofNat 64 (8 * 2 ^ 60 + dva), place := .hbm pha
                                 bytes := leBytes n new, atom := some .system, serves := some r }] }
  else
    let (old, s) := s.performAmo (.hbm pha) op wide v c
    s.answerData r dva (leBytes n old)

/-- Who translates for a port: it has no translation cache. -/
def portWho (r : PortReq) : Who := { u := .port r.port, coord := none, loc := none, node := none }
/-- The walks of a port's access: their entry reads arrive at their homes and are checked (R154, R375). -/
def State.portWalk (s : State) (r : PortReq) (dva : Nat) (op : PortOp) : State :=
  if op.len = 0 then s
  else match s.locateDva (portWho r) (BitVec.ofNat 64 (8 * 2 ^ 60 + dva)) op.perm (pagesOf op.len) dva 0 op.len with
    | .ok (_, t) => t
    | .error _ => s

/-- Perform a translated access of a port, behind the row jobs accepted before it (R154): every part at its point. -/
def State.portPerform (s : State) (r : PortReq) (dva : Nat) (op : PortOp) (ps : List Part) : State :=
  let r := if r.dev.isSome then { r with who := answering ps } else r
  let s := s.portWalk r dva op
  match op with
  | .write bs bad => s.portWrite r dva bs bad ps
  | .read n => (ps.foldl (fun s p => match p.place with | .hbm a => (s.homeArrival a p.len).1 | _ => s) s).portRead r dva n ps
  | .amo op wide v c => match ps with
    | [p] => match p.place with
      | .hbm a => (s.homeArrival a p.len).1.portAmo r dva a op wide v c
      | .peer .. => s.forward r { place := p.place, name := p.name, len := p.len, amo := some (op, wide, v, c) }
      | _ => s.answerNack r (nackReason .xlatePerm)
    | _ => s.answerNack r (nackReason .xlateMiss)

/-- What an access of a port comes to: refused, parked behind a frame of a home, or its parts. -/
inductive PortTurn where
  | nack (reason : Nat)
  | park (home frame : Nat)
  | go (ps : List Part)

/-- Translate an access of a port, uncached; a full fault queue refuses it (R61). Of a write, each granule parks by itself. -/
def State.portTurn (s : State) (r : PortReq) (dva : Nat) (op : PortOp) : PortTurn :=
  let w := portWho r
  let park (h f : Nat) : PortTurn := if (s.core h).fq.length < 64 then .park h f else .nack nackBusy
  if dva + op.len > 2 ^ 48 then .nack 6
  else if op.len = 0 then .go []
  else match s.locateDva w (BitVec.ofNat 64 (8 * 2 ^ 60 + dva)) op.perm (pagesOf op.len) dva 0 op.len with
    | .error (.trap c _ _) => .nack (nackReason c)
    | .error (.park h p) => park h p.frame
    | .error _ => .nack nackBusy
    | .ok (ps, _) =>
      if ps.any fun p => match p.place with | .hbm a => !(s.homeArrival a p.len).2 | _ => false then .nack nackBusy
      else match ps.findSome? fun p => match p.place with | .hbm a => s.busyFrame a p.len | _ => none with
        | some (h, f) => match op with
          | .write .. => if (s.core h).fq.length < 64 then .go ps else .nack nackBusy
          | _ => park h f
        | none => .go ps

/-- An access of a port is refused, parks, or is performed and answered. -/
def State.portAccess (s : State) (r : PortReq) (dva : Nat) (op : PortOp) : State :=
  match s.portTurn r dva op with
  | .nack n => s.answerNack r n
  | .park h f => (s.parkAt h (.port f r dva op)).1
  | .go ps => s.portPerform r dva op ps

/-! ### What a host's release waits for (R391) -/

/-- Do two packets come from one source of the host? -/
def PortReq.sameSource (r q : PortReq) : Bool := r.dev.isNone && q.dev.isNone && r.who == q.who

/-- Is a packet that meets `f` parked, or not yet performed in all its parts? -/
def State.servesAny (s : State) (f : PortReq → Bool) : Bool :=
  (s.cores.any fun (_, c) => c.fq.any fun p => match p with | .port _ q .. => f q | _ => false) ||
    s.portJobs.any (fun j => f j.req) || s.extReads.any (fun x => x.serves.any f)

/-- Must a host's access wait? A release, while an access its source sent before is not performed; and what stands behind one
that waits. -/
def State.mustHold (s : State) (r : PortReq) : Bool :=
  s.hostHeld.any (fun h => h.src.sameSource r) || (r.rel && s.servesAny r.sameSource)

/-- The accesses of the host that wait go on, oldest first, where nothing is before them. -/
def State.resumeHosts (s : State) : State :=
  s.hostHeld.foldl (fun s h =>
    if s.hostHeld.find? (fun x => x.src.sameSource h.src) = some h && !(h.src.rel && s.servesAny h.src.sameSource) then
      { s with hostHeld := s.hostHeld.erase h }.portAccess h.src h.dva h.op
    else s) s

/-- Is a host's packet still to be performed? -/
def State.serving (s : State) (r : PortReq) : Bool :=
  let same (q : PortReq) : Bool := r.sameSource q && r.seq == q.seq
  s.servesAny same || s.hostHeld.any fun h => same h.src

/-- Perform an access that has been parked: its data are delivered, its store is made, its register is loaded. -/
def State.performParked (s : State) (home : Nat) (p : Parked) : State :=
  match p with
  | .read u _ pl name n => match s.key pl with
    | some a => (s.countSoft a n).deliver u { addr := name, bytes := s.readKey a n, poison := s.poisoned a n }
    | none => s
  | .amo u _ pl name op wide v c => match s.key pl with
    | some a =>
      if s.poisoned a 4 then s.deliver u { addr := name, bytes := [], poison := true }
      else
        let (old, s) := s.performAmo pl op wide v c
        s.deliver u { addr := name, bytes := leBytes (if wide then 8 else 4) old }
    | none => s
  | .write _ f => s.writeFlight f
  | .row _ j => s.performRow home j
  | .load _ u r pl n none _ => match s.key pl with
    | some a => (s.countSoft a n).finishLoad u r none (s.readKey a n) (s.poisoned a n)
    | none => s
  | .load _ u r pl n (some (op, wide, v, c)) _ => match s.key pl with
    | some a =>
      if s.poisoned a n then s.finishLoad u r none [] true
      else
        let (old, s) := s.performAmo pl op wide v c
        s.finishLoad u r (some (op, wide, v, c)) (leBytes n old) false
    | none => s
  | .port _ r dva op => s.portAccess r dva op

/-- The unit whose cluster map an access uses. -/
def Parked.unit : Parked → Option UnitId
  | .read u .. | .amo u .. | .load _ u .. => some u
  | .write _ f => some f.who
  | .row .. | .port .. => none
/-- Perform a parked access under its unit's cluster map. -/
def State.performAs (s : State) (home : Nat) (p : Parked) : State :=
  match p.unit with
  | some u => { (s.viewFor u).performParked home p with view := s.view }
  | none => s.performParked home p

/-- Replay one parked access; a row that meets another frame that is not NORMAL parks there (R60). -/
def State.replay (s : State) (home : Nat) (p : Parked) : State :=
  match p with
  | .row _ j => match j.place with
    | .hbm a => match s.busyFrame a j.rowb with
      | none => s.performAs home p
      | some (h, f) => s.onCore h fun c => { c with fq := c.fq ++ [.row f j] }
    | _ => s
  | p => s.performAs home p

/-- FSCMD's effect (R59, R60, R62), where every access that arrived before it has been served: a frame that becomes NORMAL replays its parked accesses once, in arrival order; what waited
for them goes on. -/
def State.setFrame (s : State) (home frame st : Nat) : State :=
  if st > 2 ∨ s.frameState home frame = st then s
  else
    let s := s.onCore home fun c => { c with frames := if st = 0 then Tab.drop c.frames frame else Tab.set c.frames frame st }
    if st ≠ 0 then s
    else
      let (now, later) := (s.core home).fq.partition fun p => decide (p.frame = frame)
      let s := s.onCore home fun c => { c with fq := later }
      (now.foldl (fun s p => s.replay home p) s).resumeHosts

/-- A write of FSCMD arrives at its home, behind the row jobs accepted there for the frame it names (R62, R154). -/
def State.fscmd (s : State) (home v : Nat) : State :=
  let frame := bits v 13 0
  (s.homeArrival (home * 2 ^ 30 + frame * 65536) 65536).1.setFrame home frame (bits v 17 16)

/-! ## The Lantern's parked misses (R111) -/

/-- Replay parked misses in arrival order; when one finds no room again, those behind it stay parked. A copy write of a whole block
goes straight to the store (R109). -/
def State.replayMisses (s : State) (cl : Nat) : List MissPark → State
  | [] => s
  | e :: es =>
    let through : Option Flight := match e.acc with
      | .write _ f => match f.place with
        | .cmem _ o => if f.wholeBlock o && !(s.cluster cl).cm.resident e.block then some f else none
        | _ => none
      | _ => none
    match through with
    | some f =>
      let t := s.writeThrough cl e.block f
      if (t.cluster cl).cm.blocked then t.onCluster cl fun c => { c with cm := { c.cm with parked := es ++ c.cm.parked } }
      else t.replayMisses cl es
    | none =>
      let write := match e.acc with | .write .. | .amo .. | .load _ _ _ _ _ (some _) _ => true | _ => false
      match s.lantern cl e.block write with
      | (s, true) => (s.performAs 0 e.acc).replayMisses cl es
      | (s, false) => s.onCluster cl fun c => { c with cm := { c.cm with parked := e :: es ++ c.cm.parked } }

/-- The parked eviction goes on when its sectors are there: its slot is free. -/
def State.resumeVictim (s : State) (cl : Nat) : State :=
  let m := (s.cluster cl).cm
  match m.evicting with
  | none => s
  | some v => match m.recompress v (s.blockForm cl v) with
    | none => s
    | some m' => s.onCluster cl fun c => { c with cm := { m' with evicting := none, lantern := m'.lantern.filter fun e => e.1 != v } }
/-- The block of a store to cluster memory. -/
def Flight.block (f : Flight) : Nat := match f.place with | .cmem _ o => o / 256 | _ => 0
/-- The copy writes that wait for sectors go on as there are enough, those of one block in their order. -/
def State.resumeWrites (s : State) (cl : Nat) : State :=
  (s.cluster cl).cm.waiting.foldl (fun s f =>
    if (s.cluster cl).cm.waiting.find? (fun g => g.block == f.block) = some f then
      ((s.storeBlock cl f.block f).map fun s => s.onCluster cl fun c => { c with cm := { c.cm with waiting := c.cm.waiting.erase f } }).getD s
    else s) s

/-- Parked evictions resume when their sectors are there; with none left, the parked misses are replayed in order (R111). -/
def State.resumeEviction (s : State) (cl : Nat) : State :=
  if !(s.cluster cl).cm.blocked then s
  else
    let s := (s.resumeVictim cl).resumeWrites cl
    let m := (s.cluster cl).cm
    if m.blocked then s
    else (s.onCluster cl fun c => { c with cm := { c.cm with parked := [] } }).replayMisses cl m.parked

/-- CMGRANT (R112): sectors move from the reserve to the free pool. -/
def State.grantSectors (s : State) (cl v : Nat) : State :=
  let s := s.onCluster cl fun c =>
    let n := min v c.cm.res
    { c with cm := { c.cm with res := c.cm.res - n, free := c.cm.free + n } }
  s.resumeEviction cl

/-! ## ENGREG registers (R416 and the chapters that place them) -/

def flag (b : Bool) (i : Nat) : Nat := if b then 2 ^ i else 0

/-- A handler entry's word (R143). -/
def Handler.word (h : Handler) : Nat :=
  flag h.valid 39 + flag h.mask 38 + h.pri.toNat * 2 ^ 35 + h.epri.toNat * 2 ^ 32 + h.entry.toNat

/-- MASK set or cleared at a TIME: a channel that is unmasked becomes runnable anew, at its configured priority, and its aging
restarts from zero (R144). -/
def Handler.setMask (h : Handler) (m : Bool) (t : Nat) : Handler :=
  if h.mask && !m then { h with mask := m, epri := h.pri, age := t } else { h with mask := m }
/-- A new configured priority: EPRI keeps the steps it has aged by. -/
def Handler.setPri (h : Handler) (p : BitVec 3) : Handler :=
  { h with pri := p, epri := BitVec.ofNat 3 (min 7 (p.toNat + (h.epri.toNat - h.pri.toNat))) }

/-- A new handler entry at a TIME: one that becomes valid makes its channel runnable anew (R144). -/
def Core.setHandler (c : Core) (ch : Nat) (h : Handler) (t : Nat) : Core :=
  let fresh := h.valid && !(Tab.get {} c.handlers ch).valid
  { c with handlers := Tab.set c.handlers ch (if fresh then { h with epri := h.pri, age := t } else h) }

/-- A channel of a core has something to run: 61 its deque, 62 its work list. -/
def Core.pending (c : Core) (ch : Nat) : Bool :=
  !(Tab.get [] c.channels ch).isEmpty || (ch == 61 && !c.deque.isEmpty) || (ch == 62 && !c.worklist.isEmpty)
def Core.runnable (c : Core) (ch : Nat) : Bool :=
  let h := Tab.get {} c.handlers ch
  c.pending ch && h.valid && !h.mask && (List.range 16).all fun i => match (c.ctx i).act with
    | some a => a.chan != ch
    | none => true

/-- A channel's EPRI at a TIME: while it is runnable, one more for each 65,536 clk since its aging began, up to 7 (R144). -/
def Core.epriAt (c : Core) (t ch : Nat) : Nat :=
  let h := Tab.get {} c.handlers ch
  if c.runnable ch then min 7 (h.epri.toNat + (t - h.age) / 65536) else h.epri.toNat

/-- A handler entry with the aging steps due by a TIME made. -/
def Core.aged (c : Core) (t ch : Nat) : Handler :=
  let h := Tab.get {} c.handlers ch
  if c.runnable ch then { h with epri := BitVec.ofNat 3 (c.epriAt t ch), age := h.age + (t - h.age) / 65536 * 65536 } else h

/-- The 64-bit register at an 8-aligned offset of the core window, as it reads at a TIME. -/
def Core.readReg (c : Core) (t o : Nat) : Option Nat :=
  if o = 0x100 then some 0
  else if o = 0x108 then some c.fq.length
  else if 0x1000 ≤ o ∧ o < 0x2000 then
    some ((List.range 32).foldl (fun v i => v + Tab.get 0 c.frames ((o - 0x1000) * 4 + i) * 4 ^ i) 0)
  else if 0x2000 ≤ o ∧ o < 0x2200 then
    let d := Tab.get {} c.tdesc ((o - 0x2000) / 32)
    some (match (o - 0x2000) % 32 / 8 with
      | 0 => d.w0.toNat
      | 1 => d.w1.toNat
      | 2 => d.w2.toNat
      | _ => d.ucbase.toNat * 2 ^ 52 + d.epoch.toNat)
  else if 0x2200 ≤ o ∧ o < 0x2240 then some (Tab.get 0 c.landing ((o - 0x2200) / 8)).toNat
  else if o = 0x2300 then some c.niflags.toNat
  else if 0x2400 ≤ o ∧ o < 0x2600 then some (c.aged t ((o - 0x2400) / 8)).word
  else if 0x4000 ≤ o ∧ o < 0x4800 then some (Tab.get 0 c.useCtr ((o - 0x4000) / 8)).toNat
  else if 0x6000 ≤ o ∧ o < 0x8000 then some (Tab.get 0 c.presets ((o - 0x6000) / 8)).toNat
  else none

/-- The state code of a copy command in CEFAULT and STAT (R68) stands in `fault` as written. The cluster window. -/
def State.readClusterReg (s : State) (cl o : Nat) : Option Nat :=
  let c := s.cluster cl
  match o with
  | 0x8400 => some c.ce.rate.toNat
  | 0x8408 => some c.ce.allow0.toNat
  | 0x8410 => some c.ce.allow1.toNat
  | 0x8418 => some c.ce.cflags.toNat
  | 0x8600 => some c.cm.free
  | 0x8608 => some (c.cm.resTgt * 2 ^ 23 + c.cm.res)
  | 0x8610 => some 0
  | 0x8618 => some (flag c.cm.full 6 + c.cm.parked.length)
  | 0x8800 => some 0
  | 0x8808 =>
    let (z, nf, dom) := s.blockMeta cl c.smq.toNat
    some (flag z 3 + flag nf 2 + dom)
  | 0x8A00 => some c.report.word0
  | 0x8A08 => some c.report.word1
  | 0x8A10 => some c.report.addr.toNat
  | 0x8A18 => some 0
  | 0x8B00 => some (c.rel.failed.toNat * 2 ^ 32 + flag c.rel.spareUsed 20 + c.rel.spareFor.toNat * 2 ^ 16 +
      flag c.rel.denseFail 4 + c.rel.engok.toNat)
  | 0x8B08 => some (c.rel.ecccorr.toNat * 2 ^ 32 + c.rel.eccunc.toNat)
  | 0x8B10 => some (c.rel.callretry.toNat * 2 ^ 32 + c.rel.votefix.toNat * 2 ^ 16 + c.rel.rollbacks.toNat)
  | 0x8B18 => some c.rel.pairmask.toNat
  | o =>
    if 0x8420 ≤ o ∧ o < 0x8440 then some (Tab.get 0 c.ce.fault ((o - 0x8420) / 8)).toNat
    else if 0x8440 ≤ o ∧ o < 0x8460 then some (Tab.get 0 c.ce.cklast ((o - 0x8440) / 8)).toNat
    else if 0x8B40 ≤ o ∧ o < 0x8B80 then some (Tab.get 0 c.rel.snapG ((o - 0x8B40) / 8)).toNat
    else if 0x8B80 ≤ o ∧ o < 0x8BC0 then some (Tab.get 0 c.rel.snapEp ((o - 0x8B80) / 8)).toNat
    else none

def State.readReg (s : State) (k cl o : Nat) : Option Nat :=
  if o < 0x8000 then (s.core k).readReg s.time o else s.readClusterReg cl o

/-- Registers whose writes only the supervisor may make (R113, R367, R381). -/
def supReg (o : Nat) : Bool :=
  o = 0x8608 || o = 0x8610 || o = 0x8618 || o = 0x8A18 || (decide (0x8B00 ≤ o) && decide (o < 0x8BC0))

/-- A word with the bytes of a mask replaced. -/
def mergeBytes (old new mask : Nat) : Nat :=
  (List.range 8).foldl (fun v i => v + (if bits mask i i = 1 then bits new (8 * i + 7) (8 * i) else bits old (8 * i + 7) (8 * i)) * 256 ^ i) 0

/-! ### Promises of copy commands (R76 to R78, R83) -/

/-- Bytes per clk of a requester: 0 acts as 1. -/
def CopyEng.rateOf (e : CopyEng) (q : Nat) : Nat := max 1 (bits e.rate.toNat (8 * q + 7) (8 * q))

/-- The state code of STAT and CEFAULT (R68). -/
def CopyState.code : CopyState → Nat
  | .queued => 1
  | .running => 2
  | .suspended => 4
  | .failed => 5

/-- The engine writes a lookup command's STAT with a state code and its promise. -/
def State.writeStat (s : State) (c : CopyCmd) (code : Nat) : State :=
  match c.statAt with
  | some o => s.writePlace (.tile c.core (o + 0xF8)) (leBytes 8 (code * 2 ^ 60 + c.promise.toNat)) none
  | none => s

/-- Replace a queued command by its identity. -/
def State.setCopy (s : State) (cl : Nat) (c : CopyCmd) : State :=
  s.onCe cl fun e => { e with q := Tab.set e.q c.q ((Tab.get [] e.q c.q).map fun x => if x.id = c.id then c else x) }

/-- A fresh promise for what a command has left, in its slot or its STAT (R78, R190). -/
def State.refreshPromise (s : State) (cl : Nat) (c : CopyCmd) : State :=
  let e := (s.cluster cl).ce
  let r := e.rateOf c.q
  let p : BitVec 56 := BitVec.ofNat 56 (s.time + (c.left + r - 1) / r + c.allow)
  let c := { c with promise := p }
  let s := (s.setCopy cl c).onDense cl fun d => { d with w := d.w.map fun (i, x) =>
    (i, if x.cmd = some c.id && x.valid && !x.done then { x with promise := p } else x) }
  s.writeStat c c.state.code

/-- A stopped node goes on under the current map generation (R369): late tile faults end, suspended copies run (R82). -/
def State.resumeNode (s : State) (l : Launch) (watchdog : Bool) : State :=
  let s := s.onNode l.id fun n =>
    { n with stopped := false, gen := s.gen, map := none, since := s.time, started := if watchdog then 0 else n.started }
  match l.node with
  | none => s
  | some n => n.touched.foldl (fun s cl =>
      let s := s.onDense cl fun d => { d with mfault := false }
      ((s.cluster cl).ce.q.flatMap (·.2)).foldl (fun s x => match x.state with
        | .suspended => if s.launchId x.issuer = l.id then s.refreshPromise cl { x with state := .running } else s
        | _ => s) s) s

/-- NRESUME (R367): the report clears and the stopped node goes on, with every other stopped node whose corner lies in the cluster
(log 125); ignored while the report holds CHECK_MISMATCH (R384); WATCHDOG restarts the count (R370). -/
def State.nresume (s : State) (cl : Nat) : State :=
  let r := (s.cluster cl).report
  if r.cause = 0 || r.cause = BitVec.ofNat 8 Cause.checkMismatch.code then s
  else
    let stopped := s.launches.filter fun l => match l.node with | some n => n.stopped && decide (clusterOf n.corner = cl) | none => false
    stopped.foldl (fun s l => s.resumeNode l (r.cause == BitVec.ofNat 8 Cause.watchdog.code)) (s.onCluster cl fun c => { c with report := {} })

/-- A 64-bit write at a register: `v` holds zero in the bytes that `mask` does not cover. None: no such register. -/
def State.writeReg (s : State) (u : UnitId) (k cl o v mask : Nat) : Except Cause State :=
  match s.readReg k cl o with
  | none => .error .space
  | some old =>
    let rw := mergeBytes old v mask
    if supReg o && !u.isSup then .error .priv
    else if o = 0x100 then .ok (s.fscmd k v)
    else if o < 0x2000 then .ok s
    else if o < 0x2200 then
      let i := (o - 0x2000) / 32
      .ok (s.onCore k fun c =>
        let t := Tab.get {} c.tdesc i
        { c with tdesc := Tab.set c.tdesc i (match (o - 0x2000) % 32 / 8 with
          | 0 => { t with w0 := BitVec.ofNat 64 rw }
          | 1 => { t with w1 := BitVec.ofNat 64 (setBits rw 5 4 0) }
          | 2 => { t with w2 := BitVec.ofNat 64 rw }
          | _ => { t with ucbase := BitVec.ofNat 12 (rw / 2 ^ 52) }) })
    else if o < 0x2300 then .ok (s.onCore k fun c => { c with landing := Tab.set c.landing ((o - 0x2200) / 8) (BitVec.ofNat 32 rw) })
    else if o = 0x2300 then .ok (s.onCore k fun c => { c with niflags := c.raised.clear c.niflags (BitVec.ofNat 6 v) s.time })
    else if o < 0x2600 then
      .ok (s.onCore k fun c =>
        let i := (o - 0x2400) / 8
        let h := c.aged s.time i
        let h' : Handler := { (h.setMask (bits rw 38 38 == 1) s.time).setPri (BitVec.ofNat 3 (bits rw 37 35)) with
          valid := bits rw 39 39 == 1, entry := BitVec.ofNat 32 rw }
        c.setHandler i h' s.time)
    else if o < 0x4800 then .ok (s.onCore k fun c => { c with useCtr := Tab.set c.useCtr ((o - 0x4000) / 8) (BitVec.ofNat 48 rw) })
    else if o < 0x8000 then
      let i := (o - 0x6000) / 8
      let v : W64 := BitVec.ofNat 64 (if i % 16 ≥ 14 then 0 else if i % 2 = 1 then rw % 2 ^ 19 else rw)
      .ok (s.onCore k fun c => { c with presets := Tab.set c.presets i v })
    else match o with
      | 0x8400 => .ok (s.onCe cl fun e => { e with rate := BitVec.ofNat 32 rw })
      | 0x8408 => .ok (s.onCe cl fun e => { e with allow0 := BitVec.ofNat 64 rw })
      | 0x8410 => .ok (s.onCe cl fun e => { e with allow1 := BitVec.ofNat 64 rw })
      | 0x8418 => .ok (s.onCe cl fun e => { e with cflags := e.raised.clear e.cflags (BitVec.ofNat 6 v) s.time })
      | 0x8608 => .ok (s.onCluster cl fun c => { c with cm := { c.cm with resTgt := bits rw 41 23 } })
      | 0x8610 => .ok (s.grantSectors cl (bits v 18 0))
      | 0x8618 => .ok (s.onCluster cl fun c => { c with cm := { c.cm with full := c.cm.full && bits v 6 6 == 0 } })
      | 0x8800 => .ok (s.onCluster cl fun c => { c with smq := BitVec.ofNat 17 v })
      | 0x8A18 => .ok (if bits v 0 0 = 1 then s.nresume cl else s)
      | 0x8B00 => .ok (s.onRel cl fun r => { r with engok := BitVec.ofNat 4 rw })
      | 0x8B08 => .ok (s.onRel cl fun r => { r with ecccorr := BitVec.ofNat 32 (rw / 2 ^ 32), eccunc := BitVec.ofNat 32 rw })
      | 0x8B10 => .ok (s.onRel cl fun r =>
          { r with callretry := BitVec.ofNat 32 (rw / 2 ^ 32), votefix := BitVec.ofNat 16 (rw / 2 ^ 16), rollbacks := BitVec.ofNat 16 rw })
      | 0x8B18 => .ok (s.onRel cl fun r => { r with pairmask := BitVec.ofNat 8 rw })
      | _ => .ok s

/-- Read n bytes of registers: one access to each 64-bit register covered (R416). -/
def State.readRegs (s : State) (k cl o n : Nat) : Except Cause (List Byte) :=
  if o % n ≠ 0 then .error .align
  else
    let first := o / 8
    let last := (o + n - 1) / 8
    let vs := (List.range (last - first + 1)).map fun i => s.readReg k cl (8 * (first + i))
    if vs.any (·.isNone) then .error .space
    else .ok (((vs.flatMap fun v => leBytes 8 (v.getD 0)).drop (o % 8)).take n)

/-- Write n bytes of registers, in ascending address order (R416). -/
def State.writeRegs (s : State) (u : UnitId) (k cl o : Nat) (bs : List Byte) : Except Cause State :=
  let n := bs.length
  if n = 0 then .ok s
  else if o % n ≠ 0 then .error .align
  else
    let first := o / 8
    let last := (o + n - 1) / 8
    let rs := (List.range (last - first + 1)).map (· + first)
    if rs.any fun r => (s.readReg k cl (8 * r)).isNone then .error .space
    else if rs.any fun r => supReg (8 * r) && !u.isSup then .error .priv
    else
      rs.foldl (fun s r => match s with
        | .error e => .error e
        | .ok s =>
          let cover := (List.range 8).filter fun i => decide (o ≤ 8 * r + i ∧ 8 * r + i < o + n)
          let v := cover.foldl (fun v i => v + (bs.getD (8 * r + i - o) 0).toNat * 256 ^ i) 0
          let mask := cover.foldl (fun m i => m + 2 ^ i) 0
          s.writeReg u k cl (8 * r) v mask) (.ok s)

/-! ## Performing stores in flight -/

/-- Do two flights of one unit share a byte under one name? -/
def Flight.overlaps (f g : Flight) : Bool :=
  decide (f.who = g.who) && decide (f.name.toNat < g.name.toNat + g.bytes.length) &&
    decide (g.name.toNat < f.name.toNat + f.bytes.length)

/-- Perform a store at its point. Sectors that it frees let a parked eviction go on (R111). -/
def State.performStore (s : State) (f : Flight) : State :=
  match f.place with
  | .cmem cl _ => (s.performMem f).resumeEviction cl
  | .reg k cl o =>
    if fscmdAt o && (s.homeFull k || s.niHolds f.who k (if f.id = 0 then s.nextId else f.id)) then s.refuseStore f
    else match s.writeRegs f.who k cl o f.bytes with
    | .ok s => s
    | .error _ => s
  | _ => s.performMem f

/-- Perform the flights that satisfy a test, in program order. -/
def State.performFlights (s : State) (p : Flight → Bool) : State :=
  s.flights.foldl (fun s f => if p f then { s with flights := s.flights.erase f }.performStore f else s) s

/-- A unit's stores in flight that share a byte with n bytes under a name are performed (R317). -/
def State.settleName (s : State) (u : UnitId) (name : W64) (n : Nat) : State :=
  s.performFlights ({ who := u, name := name, place := .host 0, bytes := List.replicate n 0 } : Flight).overlaps

/-- A unit's stores in flight are performed. -/
def State.drain (s : State) (u : UnitId) : State := s.performFlights fun f => f.who == u

/-! ## Accesses not yet performed (R319, R320) -/

/-- Has a unit a store not yet performed that shares a byte with n bytes under a name? A read or atomic of another device or the
host waits for it (R315, R317). -/
def State.nameOut (s : State) (u : UnitId) (name : W64) (n : Nat) : Bool :=
  s.storesOut.any ({ who := u, name := name, place := .host 0, bytes := List.replicate n 0 } : Flight).overlaps

/-- Results in flight of a unit's core. -/
def State.pendOf (s : State) : UnitId → List Pending
  | .sup n => (s.sup n).pend
  | u => (s.dense u.cl).pend
/-- Is the data of a result outstanding? -/
def Pending.waiting (p : Pending) : Bool := match p.val with | .wait => true | _ => false
/-- Has a unit a load or atomic outstanding, whose word has retired (R230)? -/
def State.loadsOut (s : State) (u : UnitId) : Bool :=
  match u with
  | .ctx .. => false
  | u => (s.pendOf u).any fun p => p.who == u && p.waiting

/-- PUTs of a unit whose words have not all been written (R148), those that its activation holds apart. -/
def State.putsOf (s : State) (u : UnitId) : List PutInfo :=
  match u with
  | .ctx k c => s.cores.flatMap fun (_, x) => (x.vn0 ++ x.puts).filterMap fun m =>
      if m.srcDev == Config.deviceNumber && m.srcCore == k && m.srcCtx == c then m.put else none
  | _ => []
def State.putsOut (s : State) (u : UnitId) : Bool := !(s.putsOf u).isEmpty
def PutInfo.len (p : PutInfo) : Nat := p.parts.foldl (fun n x => n + x.2) 0
/-- Does a PUT share a byte with n bytes under a name? -/
def PutInfo.meets (p : PutInfo) (name : W64) (n : Nat) : Bool :=
  decide (p.name.toNat < name.toNat + n ∧ name.toNat < p.name.toNat + p.len)
/-- Has a unit a PUT not yet landed that shares a byte with n bytes under a name? Its accesses there come after it (R317). -/
def State.putOver (s : State) (u : UnitId) (name : W64) (n : Nat) : Bool := (s.putsOf u).any fun p => p.meets name n

/-- Descriptor fills of a sequencer under way (R85), by number. -/
def State.fillsOf (s : State) (u : UnitId) : List Nat :=
  let ids (t : Tab DReg) : List Nat := t.filterMap fun (_, d) => d.fill.map fun _ => d.id
  match u with
  | .load cl => ids (s.dense cl).dload
  | .store cl => ids (s.dense cl).dstore
  | _ => []

/-- An access of a unit is still to be performed: what a release waits for (R320). Row requests and row operations are their row
service unit's accesses: their landing and their acknowledgement release them (R323; DEDUCED, log 126). -/
def State.unreleased (s : State) (u : UnitId) : Bool :=
  (s.storesOut.any fun f => f.who == u) || s.loadsOut u || s.putsOut u || !(s.fillsOf u).isEmpty

/-- A release at issue: every earlier access of the unit is performed, or the word issues again. -/
def State.release (s : State) (u : UnitId) : Eff State :=
  let t := s.drain u
  if t.unreleased u then .error (.again fun s => s.drain u) else .ok t

/-- Row jobs that no home has performed: on their way, accepted, parked, or sent to another device. -/
def State.rowsOut (s : State) : List RowJob :=
  s.cores.flatMap fun (_, c) =>
    c.rowOut ++ c.rowQ ++ c.rowOps ++ (c.fq.filterMap fun p => match p with | .row _ j => some j | _ => none) ++
      c.rowReqs.filter fun j => j.port.isSome && !c.landings.any fun l => l.job.id == j.id
/-- Is a row job one that a unit asked for? -/
def RowJob.of (j : RowJob) (u : UnitId) : Bool :=
  match u with
  | .ctx k c => j.srcDev == Config.deviceNumber && j.src == k && j.ctx == c
  | _ => false

/-- Has a unit an access not yet performed on a page of MTYPE `m` or stricter: a store, a load or atomic whose word has retired, a row
job, a PUT, a copy command, a descriptor fill? -/
def State.typedOut (s : State) (u : UnitId) (m : Nat) : Bool :=
  let load (p : Parked) : Bool := match p with
    | .load _ v _ _ _ _ t => v == u && decide (m ≤ t)
    | _ => false
  (s.storesOut.any fun f => f.who == u && decide (m ≤ f.mtype)) ||
  (s.cores.any fun (_, c) => c.fq.any load) ||
  (s.extReads.any fun e => e.u == u && e.reg.isSome && decide (m ≤ e.mtype)) ||
  (s.clusters.any fun (_, c) => (c.cm.parked.any fun e => load e.acc) ||
    c.ce.q.any fun (_, q) => q.any fun x => x.issuer == u && decide (m ≤ x.mtype)) ||
  (s.rowsOut.any fun j => j.of u && decide (m ≤ j.mtype)) || ((s.putsOf u).any fun p => decide (m ≤ p.mtype)) ||
  (m == 0 && !(s.fillsOf u).isEmpty)

/-- May a unit's access to a page of an MTYPE be performed now (R56, R324)? One to a strongly-ordered page follows every access of
the unit, any access follows one to such a page, and device accesses follow one another. -/
def State.inOrder (s : State) (u : UnitId) (mtype : Nat) : Bool :=
  !s.typedOut u (if mtype = 3 then 0 else if mtype = 2 then 2 else 3)

/-! ## Loads -/

/-- Bytes of `old` under a name, with stores of bytes under names laid over them in order (R315). -/
def overlay (name : Nat) (old : List Byte) (fs : List (Nat × List Byte)) : List Byte :=
  ((List.range old.length).zip old).map fun (i, b) =>
    fs.foldl (fun b (n, bs) => if n ≤ name + i ∧ name + i < n + bs.length then bs.getD (name + i - n) b else b) b

/-- The stores that a unit's activation holds (R147). -/
def State.heldBy (s : State) (u : UnitId) : List Flight :=
  match u with
  | .ctx k c => match (s.ctx k c).act with
    | some a => a.held.filterMap fun h => match h with | .store f => some f | _ => none
    | none => []
  | _ => []

/-- Is a place in the unit's own tile memory (R147)? -/
def ownTile (u : UnitId) (p : Place) : Bool :=
  match u, p with
  | .ctx k _, .tile j _ => k == j
  | _, _ => false

/-- What a unit reads where memory holds `bs`: its own stores under the same name that are not yet performed (R315, R317), then
those its activation holds, in its own tile memory under either name (R147). -/
def State.ownView (s : State) (u : UnitId) (p : Part) (bs : List Byte) : List Byte :=
  let named (fs : List Flight) : List (Nat × List Byte) := fs.filterMap fun f =>
    if f.name.toNat ≤ p.name.toNat + p.len ∧ p.name.toNat ≤ f.name.toNat + f.bytes.length ∧ addrSpace f.name = addrSpace p.name
    then some (f.name.toNat, f.bytes) else none
  let held := s.heldBy u
  let bs := overlay p.name.toNat bs (named (s.storesOut.filter fun f => f.who == u))
  match ownTile u p.place, s.key p.place with
  | true, some a => overlay a bs (held.filterMap fun f => if ownTile u f.place then (s.key f.place).map fun x => (x, f.bytes) else none)
  | _, _ => overlay p.name.toNat bs (named held)

/-- Granules reach a unit before its word has all it reads: the word issues again and finds them. -/
def State.deliverAll (s : State) (u : UnitId) (ds : List Delivered) : State := ds.foldl (fun s d => s.deliver u d) s
/-- One more granule of the turn's is read. -/
def State.readOne (s : State) (d : Delivered) : State :=
  match s.quota with
  | none => s
  | some n => { s with quota := some (n - 1), got := s.got ++ [d] }

/-- One granule access of a load: bytes and whether poisoned, with the state after. -/
def State.readPart (s : State) (w : Who) (p : Part) : Eff (List Byte × Bool × State) :=
  let take (s : State) (a : Nat) : Eff (List Byte × Bool × State) :=
    let bs := s.readKey a p.len
    let po := s.poisoned a p.len
    let s' := s.countSoft a p.len
    .ok (s.ownView w.u p bs, po, if w.fetch then s' else s'.readOne { addr := p.name, bytes := bs, poison := po })
  match (s.delivered w.u).find? fun d => decide (d.addr = p.name) && (decide (d.bytes.length = p.len) || d.poison) with
  | some d => .ok (s.ownView w.u p d.bytes, d.poison, s)
  | none =>
    if s.quota = some 0 && !w.fetch then .error (.again fun t => t.deliverAll w.u s.got)
    else if !w.fetch && w.cmd == 0 && !s.inOrder w.u p.mtype then .error (.again fun t => t.drain w.u)
    else if !w.fetch && s.putOver w.u p.name p.len then .error (.wait .retry)
    else match p.place with
    | .reg k cl o => match s.readRegs k cl o p.len with
      | .ok bs => .ok (bs, false, s)
      | .error c => .error (.trap c p.raw s)
    | .peer .. | .host _ =>
      if s.nameOut w.u p.name p.len then .error (.again fun t => t.drain w.u)
      else .error (.ext { place := p.place, name := p.name, len := p.len, mtype := p.mtype, cmd := w.cmd })
    | .cmem cl o =>
      let b := o / 256
      if s.held w.u (1024 + cl) then .error (.refused (1024 + cl))
      else if p.direct && !(s.cluster cl).cm.resident b then
        if (s.cluster cl).cm.behind b then .error (.full cl b (.read w.u 0 p.place p.name p.len))
        else let t := s.applySectors cl b; take t (t.cmemKey cl o)
      else match s.lantern cl (o / 256) false with
        | (s', true) => take s' (s'.cmemKey cl o)
        | (_, false) => .error (.full cl (o / 256) (.read w.u 0 p.place p.name p.len))
    | .hbm pha =>
      if !w.fetch && s.held w.u (pha / 2 ^ 30) then .error (.refused (pha / 2 ^ 30))
      else match s.homeArrival pha p.len with
        | (_, false) => .error (.refused (pha / 2 ^ 30))
        | (s', true) => match s'.busyFrame pha p.len with
          | some (h, f) => .error (.park h (.read w.u f p.place p.name p.len))
          | none => take s' (s'.hbmKey pha)
    | pl => match s.key pl with
      | some a => take s a
      | none => .error (.trap .space p.raw s)

/-- Granule accesses in order. -/
def State.readPieces (s : State) (w : Who) : List Part → Eff (List Byte × Bool × State)
  | [] => .ok ([], false, s)
  | p :: ps => match s.readPart w p with
    | .error e => .error e
    | .ok (bs, po, s) => match s.readPieces w ps with
      | .error e => .error e
      | .ok (cs, qo, s) => .ok (bs ++ cs, po || qo, s)
/-- A load of parts: its granules in ascending address order (R157, R172). -/
def State.readParts (s : State) (w : Who) (ps : List Part) : Eff (List Byte × Bool × State) :=
  s.readPieces w (ps.flatMap Part.pieces)

/-- Load n bytes; the poison syndrome is reported, not raised. -/
def State.loadRaw (s : State) (w : Who) (a : W64) (n : Nat) : Eff (List Byte × Bool × State) :=
  match s.locate w a n .r with
  | .error e => .error e
  | .ok (ps, s) => s.readParts w ps

/-- Load n bytes at an address; consuming a poisoned granule raises POISON (R51). -/
def State.load (s : State) (u : UnitId) (a : W64) (n : Nat) : Eff (List Byte × State) :=
  match s.loadRaw (s.who u) a n with
  | .error e => .error e
  | .ok (bs, po, s') => if po then .error (.trap .poison 0 s') else .ok (bs, s')

/-! ## Held effects (R147) -/

/-- Held effects that would leave as messages: messages and stores outside the own tile memory (R147). -/
def Activation.heldMsgs (a : Activation) (k : Nat) : Nat :=
  (a.held.filter fun h => match h with
    | .msg _ => true
    | .store f => !(match f.place with | .tile j _ => j == k | _ => false)
    | .fence .. => false).length
def Activation.heldStores (a : Activation) (k : Nat) : Nat :=
  (a.held.filter fun h => match h with
    | .store f => (match f.place with | .tile j _ => j == k | _ => false)
    | _ => false).length

def State.enqueue (s : State) (k : Nat) (m : Message) : State :=
  s.onCore k fun c => if m.vn1 then { c with vn1 := c.vn1 ++ [m] } else { c with vn0 := c.vn0 ++ [m] }

/-- A store is performed granule by granule. -/
def State.performPieces (s : State) (f : Flight) : State := f.pieces.foldl State.performStore s

/-- Messages of a context that their destinations have not taken: a fence held in its activation waits for them (R147). -/
def State.messagesOut (s : State) (u : UnitId) : Bool :=
  match u with
  | .ctx k c =>
    let mine (m : Message) : Bool := m.srcDev == Config.deviceNumber && m.srcCore == k && m.srcCtx == c
    let x := s.core k
    (x.vn0 ++ x.vn1).any mine || s.extMsgs.any fun (_, q) => match q.body with | .msg m => mine m | _ => false
  | _ => false

/-- Release effects of one segment in order, until a release must wait; those that remain. -/
def State.releaseItems (s : State) (u : UnitId) (k : Nat) : List Held → State × List Held
  | [] => (s, [])
  | h :: hs => match h with
    | .store f =>
      if s.inOrder u f.mtype then (s.performPieces f).releaseItems u k hs else (s, h :: hs)
    | .msg m =>
      if (m.rel && s.unreleased u) || m.put.any (fun p => !s.inOrder u p.mtype) then (s, h :: hs) else (s.enqueue k m).releaseItems u k hs
    | .fence .. => (s, h :: hs)

def Held.isFence : Held → Bool
  | .fence .. => true
  | _ => false
/-- A store to the own tile memory: the others leave as messages (R147). -/
def Held.own (u : UnitId) : Held → Bool
  | .store f => ownTile u f.place
  | _ => false

/-- Release held effects segment by segment, the stores of a segment before its messages; between two segments the fence takes
effect (R147, R187). What must wait remains. -/
def State.releaseHeld (s : State) (u : UnitId) (k : Nat) : Nat → List Held → State × List Held
  | 0, hs => (s, hs)
  | n + 1, hs =>
    let seg := hs.takeWhile fun h => !h.isFence
    let rest := hs.drop seg.length
    match (s.drain u).releaseItems u k (seg.filter (Held.own u) ++ seg.filter fun h => !h.own u) with
    | (s, h :: left) => (s, h :: left ++ rest)
    | (s, []) => match rest with
      | .fence kind _ :: later =>
        if kind ≠ 0 && (s.unreleased u || s.messagesOut u) then (s, rest) else s.releaseHeld u k n later
      | _ => (s, [])

/-- Release what an activation holds, which can no longer be replayed; whether all of it has gone. `implicit` also sets
ACTSTAT.ACTCOMMITTED. -/
def State.commitNow (s : State) (u : UnitId) (implicit : Bool) : State × Bool :=
  match u with
  | .ctx k c => match (s.ctx k c).act with
    | none => (s, true)
    | some a =>
      if a.committed && a.held.isEmpty then (s, true)
      else
        let (s, left) := if a.held.isEmpty then (s, []) else s.releaseHeld u k (a.held.length + 1) a.held
        (s.onCtx k c fun x => { x with
          act := some { a with held := left, committed := true }
          actCommitted := x.actCommitted || implicit && !a.committed }, left.isEmpty)
  | _ => (s, true)

/-- Commit an activation (R147); a word whose held effects must wait issues again. -/
def State.commit (s : State) (u : UnitId) (implicit : Bool) : Eff State :=
  match s.commitNow u implicit with
  | (s, true) => .ok s
  | (_, false) => .error (.again fun s => (s.commitNow u implicit).1)

/-- What a word does after it has committed its activation: the commit stands, whatever stops the word. -/
def State.committed (s : State) (u : UnitId) (implicit : Bool) (k : State → Eff α) : Eff α :=
  match s.commit u implicit with
  | .error e => .error e
  | .ok t => match k t with
    | .error (.trap c a x) => .error (.trap c a x)
    | .error e => .error (.since (fun s => (s.commitNow u implicit).1) e)
    | .ok r => .ok r

/-- The activation of a unit while it can be replayed. -/
def State.replayable (s : State) (u : UnitId) : Option Activation :=
  match u with
  | .ctx k c => (s.ctx k c).act.bind fun a => if a.committed then none else some a
  | _ => none

def State.hold (s : State) (u : UnitId) (h : Held) : State :=
  match u with
  | .ctx k c => s.onCtx k c fun x => { x with act := x.act.map fun a => { a with held := a.held ++ [h] } }
  | _ => s

/-- A store is issued: its granules are performed, or go into flight, behind the unit's stores in flight that share a byte with
them under one name (R317). -/
def State.issueStore (s : State) (f : Flight) : State :=
  f.pieces.foldl (fun s g =>
    let s := s.performFlights g.overlaps
    if s.lateStores && decide (g.mtype < 2) then { s with flights := s.flights ++ [g] } else s.performStore g) s

/-- One part of a store: held, put in flight, or performed (R147, R315). -/
def State.writePart (s : State) (w : Who) (p : Part) (bs : List Byte) (wr : Writer) : Eff State :=
  let num : BitVec 8 := match w.u with
    | .compute cl => (s.dense cl).cp.seq
    | .epi cl e => ((s.dense cl).epiCtx e).seq
    | _ => 0
  let f : Flight := { who := w.u, name := p.name, place := p.place, bytes := bs, wr := wr, pc := s.pc w.u, seq := num, mtype := p.mtype, port := p.port }
  let issue (s : State) : Eff State :=
    match p.place with
    | .reg k cl o =>
      if fscmdAt o && (s.homeFull k || s.held w.u k) then .error (.refused k)
      else match s.writeRegs w.u k cl o bs with
      | .ok s => .ok s
      | .error c => .error (.trap c p.raw s)
    | _ =>
      if s.putOver w.u p.name p.len then .error (.wait .retry)
      else if s.inOrder w.u p.mtype then .ok (s.issueStore f) else .error (.again fun s => s.drain w.u)
  let check : Option Cause := match p.place with
    | .reg k cl o => match s.writeRegs w.u k cl o bs with | .error c => some c | .ok _ => none
    | _ => none
  match s.replayable w.u, w.u with
  | some a, .ctx k _ =>
    match check with
    | some c => .error (.trap c p.raw s)
    | none =>
      let fits := if ownTile w.u p.place then decide (a.heldStores k < 64) else decide (a.heldMsgs k < 16)
      if fits then .ok (s.hold w.u (.store f))
      else s.committed w.u true issue
  | _, _ => issue s

def State.writeParts (s : State) (w : Who) (wr : Writer) : List Part → List Byte → Eff State
  | [], _ => .ok s
  | p :: ps, bs => match s.writePart w p (bs.take p.len) wr with
    | .error e => .error e
    | .ok s => s.writeParts w wr ps (bs.drop p.len)

/-- Store bytes at an address; every part is checked before any is performed (R415). -/
def State.storeAs (s : State) (u : UnitId) (a : W64) (bs : List Byte) (wr : Writer) : Eff State :=
  let w := s.who u
  match s.locate w a bs.length .w with
  | .error e => .error e
  | .ok (ps, s) => s.writeParts w wr ps bs
def State.store (s : State) (u : UnitId) (a : W64) (bs : List Byte) : Eff State := s.storeAs u a bs none

/-! ## Atomics at an address (R198, R199) -/

/-- Is a place permitted at a scope (R199)? -/
def amoPlace (u : UnitId) (sc : Scope) (p : Place) : Bool :=
  match sc with
  | .core => match u, p with
    | .ctx k _, .tile j _ => k == j
    | .sup _, _ => false
    | u, .scratch c _ => u.isDense && u.cl == c
    | _, _ => false
  | .cluster => match p with
    | .tile j _ => !u.isSup && u.cl == clusterOf j
    | .scratch c _ | .cmem c _ => !u.isSup && u.cl == c
    | _ => false
  | .device => match p with
    | .tile .. | .scratch .. | .cmem .. | .hbm _ => true
    | _ => false
  | .system => match p with
    | .peer .. => true
    | _ => false

/-- An atomic of CLUSTER or DEVICE scope on SRAM has a point of its own: between its read and its write, accesses and atomics at
other points may come (R199, R329). -/
def splitPoint (sc : Scope) (p : Place) : Bool :=
  match sc, p with
  | .cluster, .tile .. | .cluster, .scratch .. | .device, .tile .. | .device, .scratch .. => true
  | _, _ => false

/-- Do two places of this device's memories share one of n bytes? -/
def State.samePlace (s : State) (p q : Place) (n : Nat) : Bool :=
  match s.key p, s.key q with
  | some a, some b => decide (a < b + n ∧ b < a + n)
  | _, _ => false

/-- The writes still to come of a scope's atomics on n bytes at a place: the scope's next atomic there comes after them. -/
def State.settleAtoms (s : State) (sc : Scope) (p : Place) (n : Nat) : State :=
  s.performFlights fun f => f.atom == some sc && s.samePlace f.place p n

/-- Read and write one word at the point of its scope, after the atomics of that point that stand before it. An atomic that is an
acquire is performed before every later access (R319): its write is not left for later. -/
def State.atomicAt (s : State) (u : UnitId) (sc : Scope) (p : Part) (op : Aop) (wide : Bool) (v c : W64) (acq : Bool) : Nat × State :=
  let s := s.settleAtoms sc p.place p.len
  if s.lateStores && !acq && splitPoint sc p.place then
    let old := leNat (s.readKey ((s.key p.place).getD 0) p.len)
    let (new, _, _, _) := amoOp op (8 * p.len) old (v.toNat % 2 ^ (8 * p.len)) (c.toNat % 2 ^ (8 * p.len))
    let s := s.countSoft ((s.key p.place).getD 0) p.len
    (old, { s with flights := s.flights ++ [{ who := u, name := p.name, place := p.place, bytes := leBytes p.len new, atom := some sc }] })
  else s.performAmo p.place op wide v c

/-- RETURNING FROM A TRAP: the unit's own stores to its save area come first, and those its activation holds are seen (R147, R362). -/
def State.returnTrap (s : State) (u : UnitId) (idle : Nat) : State :=
  let save := (s.trapRegs u).save.toNat
  let area : Place := match u with
    | .ctx k _ => .tile k save
    | u => .scratch u.cl save
  let t := s.performFlights fun f => f.who == u && s.samePlace f.place area u.saveSize
  t.trapReturn u idle (t.ownView u { place := area, len := u.saveSize, name := BitVec.ofNat 64 save })

/-- The read-modify-write of one word: the old value and the state after. -/
def State.amo (s : State) (u : UnitId) (sc : Scope) (a : W64) (op : Aop) (wide : Bool) (v c : W64) (acq : Bool := false) :
    Eff (Nat × State) :=
  let w := s.who u
  let n := if wide then 8 else 4
  match s.locate w a n .rw with
  | .error e => .error e
  | .ok ([p], s) =>
    -- a supervisor's CORE and CLUSTER act as DEVICE (R321)
    let sc := if u.isSup ∧ (sc = .core ∨ sc = .cluster) then .device else sc
    if !amoPlace u sc p.place then .error (.trap .space a s)
    else match (s.delivered u).find? fun d => decide (d.addr = p.name) with
      | some d => if d.poison then .error (.trap .poison 0 s) else .ok (leNat d.bytes, s)
      | none =>
        if !s.inOrder u p.mtype then .error (.again fun s => s.drain u)
        else if s.putOver u p.name n then .error (.wait .retry)
        else
          -- stores of the word's own name come first (R317)
          let s := s.settleName u p.name n
          let doIt (s : State) (key : Nat) : Eff (Nat × State) :=
            if s.poisoned key n then .error (.trap .poison 0 (s.countSoft key n)) else .ok (s.atomicAt u sc p op wide v c acq)
          match p.place with
          | .peer .. =>
            if s.nameOut u p.name n then .error (.again fun s => s.drain u)
            else .error (.ext { place := p.place, name := p.name, len := n, amo := some (op, wide, v, c), mtype := p.mtype })
          | .hbm pha =>
            if s.held u (pha / 2 ^ 30) then .error (.refused (pha / 2 ^ 30))
            else match s.homeArrival pha n with
              | (_, false) => .error (.refused (pha / 2 ^ 30))
              | (s, true) => match s.busyFrame pha n with
                | some (h, f) => .error (.park h (.amo u f p.place p.name op wide v c))
                | none => doIt s (s.hbmKey pha)
          | .cmem cl o =>
            if s.held u (1024 + cl) then .error (.refused (1024 + cl))
            else match s.lantern cl (o / 256) true with
              | (_, false) => .error (.full cl (o / 256) (.amo u 0 p.place p.name op wide v c))
              | (s, true) => (doIt s (s.cmemKey cl o)).map fun (old, s) => (old, s.resumeEviction cl)
          | pl => match s.key pl with
            | some k => doIt s k
            | none => .error (.trap .space a s)
  | .ok (_, s) => .error (.trap .space a s)

/-! ## The outcome of a meaning -/

/-- The stores in flight of a parked access's own name come before it (R317). -/
def State.settleBefore (s : State) (p : Parked) : State :=
  match p with
  | .read u _ _ name n => s.settleName u name n
  | .amo u _ _ name _ wide .. => s.settleName u name (if wide then 8 else 4)
  | _ => s

/-- An access misses the Lantern while an eviction is parked, or finds no room: it parks behind, one of 32 (R111). One that finds room
once its word's other accesses are undone issues again. -/
def State.parkBehind (s : State) (cl b : Nat) (p : Parked) : State × Bool :=
  if (s.cluster cl).cm.behind b then s.parkMiss cl b p
  else match s.lantern cl b false with
    | (t, true) => (t, false)
    | (t, false) => t.parkMiss cl b p

/-- The word of a unit issues again at the next clk. -/
def State.again (s : State) (u : UnitId) : State := (s.setWait u .retry).setReadyAt u (s.time + 1)

/-- A home refuses a unit's read or atomic, which its network interface sends again; it keeps its place (R61, R328). -/
def State.refuseUnit (s : State) (u : UnitId) (home : Nat) : State :=
  let t := s.setReadyAt u (s.time + 1)
  match s.refusedAt u home with
  | some _ => t
  | none => (t.setWait u (.refused home s.nextId)).stamp

/-- Park a unit's access behind a frame; a full fault queue refuses it (R60, R61). -/
def State.parkUnit (s : State) (u : UnitId) (home : Nat) (p : Parked) : State :=
  match (s.settleBefore p).parkAt home p with
  | (s, true) => s.setWait u .parked
  | (s, false) => s.refuseUnit u home

/-- What a meaning's effect leaves, issued by `u` at `s`: a trap is taken, a wait leaves `s` with who waits where. -/
def State.settleStop (s : State) (u : UnitId) : Stop → State
  | .trap c a t => (t.dropDelivered u).raise u c a
  | .park h p => s.parkUnit u h p
  | .full cl b p => match (s.settleBefore p).parkBehind cl b p with
    | (s, true) => s.setWait u .parked
    | (s, false) => (s.setWait u .retry).setReadyAt u (s.time + 1)
  | .ext q => s.sendAsk u q none
  | .wait w => (s.setWait u w).setReadyAt u (s.time + 1)
  | .refused h => s.refuseUnit u h
  | .again f => (f s).again u
  | .since f e => (f s).settleStop u e
def State.settle (s : State) (u : UnitId) (e : Eff State) : State :=
  match e with
  | .ok t => t.dropDelivered u
  | .error e => s.settleStop u e

end Sys2Proof.Machine
end

