-- ==== Sys2Proof/Machine/Uses.lean ====
section
/-! DEFINITION. The registers of a context that a lookup word reads and writes, for poisoned registers (R375, R376): 0 is acc,
1 + n is pn. -/

namespace Sys2Proof.Machine

/-- A pointer register's number. -/
def ptrNo (p : BitVec 3) : Nat := 1 + p.toNat

/-- Registers an operand reads. -/
def opdUses : LOpd → List Nat
  | .acc => [0]
  | .mem p | .memInc p | .memDec p => [ptrNo p]
  | _ => []

/-- RETP reads p7. -/
def returnUses : Instr → List Nat × List Nat
  | .retp => ([8], [])
  | _ => ([], [])

/-- Registers a word reads, and those it writes whole. -/
def lookupUses : Instr → List Nat × List Nat
  | .lda _ _ a | .cvta _ _ _ a _ | .hred _ _ _ a _ | .sigaRead _ _ a | .sigaMintag _ _ a => (opdUses a, [0])
  | .sta _ _ a => (0 :: opdUses a, [])
  | .adda _ _ a b _ | .suba _ _ a b _ | .mula _ _ a b _ | .mina _ _ a b | .maxa _ _ a b | .loga _ _ _ a b | .shfa _ _ _ a b
  | .sigaWrite _ _ a b => (opdUses a ++ opdUses b, [0])
  | .maca _ _ a b _ => (0 :: opdUses a ++ opdUses b, [0])
  | .cmpa _ _ a b => (opdUses a ++ opdUses b, [])
  | .immaSet _ _ _ => ([], [0])
  | .immaAddi _ _ _ | .immaLane0 _ _ _ | .lBsig _ _ _ => ([0], [])
  | .pset _ d _ | .pldc _ d _ | .pcrdMyxy _ d => ([], [ptrNo d])
  | .padd _ d p _ | .pld _ d p _ | .pcrdAbs _ d p | .pcrdGlob _ d p | .pcrdHome _ d p => ([ptrNo p], [ptrNo d])
  | .pst _ d p _ => ([ptrNo d, ptrNo p], [])
  | .paccGet _ d _ => ([0], [ptrNo d])
  | .paccPut _ d _ => ([ptrNo d], [])
  | .paccAdd _ d _ | .paccAddw _ d _ => ([0, ptrNo d], [])
  | .bpc _ a b _ => ([ptrNo a, ptrNo b], [])
  | .gath _ a b c _ _ _ | .scat _ a b c _ _ _ | .scatw _ a b c _ _ _ | .dedup a b c _ | .rowadd _ _ a b c _ _ _
  | .rowscl _ _ a b c _ _ | .rowcvt _ _ a b c _ _ => ([ptrNo a, ptrNo b, ptrNo c], [])
  | .rowdot _ _ a b c _ _ => ([ptrNo a, ptrNo b, ptrNo c], [0])
  | .bucket a b c => ([0, ptrNo a, ptrNo b, ptrNo c], [])
  | .ucinc _ a b => ([ptrNo a, ptrNo b], [])
  | .lAmo _ _ _ a _ _ | .amov _ _ _ a _ _ => ([0, ptrNo a], [])
  | .send _ a b _ _ | .put _ _ a b _ _ _ => ([ptrNo a, ptrNo b], [])
  | .senda _ a b _ => ([0, ptrNo a, ptrNo b], [])
  | .reply b _ _ | .spawn b _ | .join b _ => ([ptrNo b], [])
  | .hctlBind n _ | .waitt n | .lSysCrw n _ => ([ptrNo n], [])
  | .lWaitp p | .copy p _ _ _ _ _ _ | .wlistPush p | .wlistPop p => ([ptrNo p], [])
  | .call _ => ([], [8])
  | .lSysCrr n _ | .lSysTime _ n => ([], [ptrNo n])
  | i => returnUses i

/-- A word of a context with poisoned registers: does it consume one? Those it writes whole are sound again. -/
def State.badContext (s : State) (u : UnitId) (i : Instr) : State × Bool :=
  match u with
  | .ctx k c =>
    let bad := (s.ctx k c).bad
    if bad.isEmpty then (s, false)
    else
      let (reads, writes) := lookupUses i
      if reads.any bad.elem then (s, true) else (s.onCtx k c fun x => { x with bad := bad.filter fun r => !writes.elem r }, false)
  | _ => (s, false)

end Sys2Proof.Machine
end

