-- ==== Sys2Proof/Machine/Issue.lean ====
section
/-! DEFINITION. One turn of the agenda up to the instruction: time and DEVNS pass, pending results land (R222), and the
unit whose turn it is fetches and decodes its word (R13, R14, R17), or the event that is due is named. -/

namespace Sys2Proof.Machine

/-- DEVNS after n clk of 2.1 GHz at the present rate (R9, R394). -/
def State.passTime (s : State) (n : Nat) : State :=
  let total := s.devFrac + n * 10 * (1000000 + s.ppm).toNat
  { s with time := s.time + n, devns := s.devns + BitVec.ofNat 64 (total / 21000000), devFrac := total % 21000000 }

/-- Every result due by now is visible (R222). -/
def State.landDue (s : State) : State :=
  { s with
    clusters := s.clusters.map fun (k, c) => if c.dense.pend.isEmpty then (k, c) else (k, { c with dense := c.dense.land s.time })
    sups := s.sups.map fun (k, x) => if x.pend.isEmpty then (k, x) else (k, x.land s.time) }

/-- Perform one store in flight under its issuer's map. -/
def State.performFlight (s : State) (f : Flight) : State :=
  { ({ s with flights := s.flights.erase f }.viewFor f.who).performStore f with view := s.view }
/-- Perform the stores in flight that satisfy a test, whoever issued them. -/
def State.performAll (s : State) (p : Flight → Bool) : State :=
  s.flights.foldl (fun s f => if p f then s.performFlight f else s) s

def State.live (s : State) : UnitId → Bool
  | .ctx k c => (s.ctx k c).live
  | .scalar c => (s.dense c).sc.live
  | .load c => (s.dense c).ld.live
  | .store c => (s.dense c).st.live
  | .compute c => (s.dense c).cp.live
  | .epi c e => ((s.dense c).epiCtx e).live
  | .sup n => (s.sup n).live
  | _ => false

def State.setLive (s : State) (u : UnitId) (b : Bool) : State :=
  match u with
  | .ctx k c => s.onCtx k c fun x => { x with live := b }
  | .scalar c => s.onDense c fun d => { d with sc := { d.sc with live := b } }
  | .load c => s.onDense c fun d => { d with ld := { d.ld with live := b } }
  | .store c => s.onDense c fun d => { d with st := { d.st with live := b } }
  | .compute c => s.onDense c fun d => { d with cp := { d.cp with live := b } }
  | .epi c e => s.onEpi c e fun x => { x with live := b }
  | .sup n => s.onSup n fun x => { x with live := b }
  | _ => s

/-- May a unit issue: powered, live, its node running, its core not frozen for another, not asleep behind an access? -/
def State.canIssue (s : State) (u : UnitId) : Bool :=
  s.powered && !s.ordel.shut && s.live u &&
  (match s.wait u with | .parked | .reply _ => false | _ => true) &&
  (match u with
    | .sup _ => true
    | u => match s.nodeOf u with
      | some n => !n.stopped
      | none => false) &&
  (if u.isDense then match (s.dense u.cl).frozen with
    | some f => decide (f.handler = u)
    | none => true
   else true)

/-- The stream whose words a unit decodes (R13). -/
def streamOf : UnitId → Stream
  | .ctx _ _ => .lookup
  | .load _ | .store _ => .copy
  | .compute _ | .epi _ _ => .compute
  | _ => .scalar

/-- The DVA of a unit's word: its stream's place in the node image, or a supervisor core's firmware (DESIGN CHOICE, log 7), and the PC. -/
def State.fetchDva (s : State) (u : UnitId) : W64 :=
  match u with
  | .sup n => (s.sup n).base + (s.pc u).setWidth 64
  | u => match s.nodeOf u with
    | some n => n.image + BitVec.ofNat 64 ((n.stream u.streamNo).1) + (s.pc u).setWidth 64
    | none => 0

/-- Fetch the word at a unit's PC with X permission (R54, R344). -/
def State.fetch (s : State) (u : UnitId) : Eff (Nat × State) :=
  let w := { s.who u with fetch := true }
  match s.locateDva w (s.fetchDva u ||| 0x8000000000000000) .x 2 (s.fetchDva u).toNat 0 4 with
  | .error e => .error e
  | .ok (ps, s') => match s'.readParts w ps with
    | .error e => .error e
    | .ok (bs, po, s') => if po then .error (.trap .poison 0 s) else .ok (leNat bs, s')

/-- A compute or epilogue word that is about to issue takes the next sequence number and its ring entry (R261, R360); one that has
issued and waits keeps its own. -/
def State.takeSeq (s : State) (u : UnitId) : State :=
  let put (cl : Nat) (s : State) : State := s.onDense cl fun d =>
    { d with
      nextSeq := d.nextSeq + 1
      ring := Tab.set d.ring (d.nextSeq.toNat % 64) { seq := d.nextSeq, src := BitVec.ofNat 4 u.src, pc := s.pc u } }
  let fresh := match s.wait u with
    | .none => true
    | .retry | .refused .. => (s.delivered u).isEmpty
    | _ => false
  if !fresh then s
  else match u with
    | .compute cl =>
      let q := (s.dense cl).nextSeq
      (put cl s).onDense cl fun d => { d with cp := { d.cp with seq := q } }
    | .epi cl e =>
      let q := (s.dense cl).nextSeq
      (put cl s).onEpi cl e fun x => { x with seq := q }
    | _ => s

/-- The word in issue has completed: its ring entry says DONE (R360). -/
def State.ringDone (s : State) (cl : Nat) (q : BitVec 8) : State := s.onDense cl fun d => d.ringDone q

/-- Commands of a sequencer not yet complete, and descriptor fills under way (R90). -/
def State.copiesPending (s : State) (u : UnitId) : Bool :=
  let c := s.cluster u.cl
  match u with
  | .load _ => !(Tab.get [] c.ce.q 0).isEmpty || c.dense.dload.any fun (_, d) => d.fill.isSome
  | .store _ => !(Tab.get [] c.ce.q 1).isEmpty || c.dense.dstore.any fun (_, d) => d.fill.isSome
  | _ => false

/-- A unit that runs off its stream (R17, R407): compute and scalar halt, load and store halt as HALT does, a lookup context
raises ILLEGAL, and so does an epilogue context, of which R17 says nothing (DESIGN CHOICE, log 103). -/
def State.runOff (s : State) (u : UnitId) : State :=
  match u with
  | .compute _ | .scalar _ | .sup _ => s.setLive u false
  | .load _ | .store _ => if s.copiesPending u then s.setWait u (.fence true) else (s.setWait u .none).setLive u false
  | u => (s.takeSeq u).raise u .illegal 0

/-- Is the PC an entry that lies at the stream's end: the stream's own, or a trap vector just taken (R17, R344)? -/
def State.badEntry (s : State) (u : UnitId) : Bool :=
  match s.nodeOf u with
  | some n =>
    let (_, len, entry, vec) := n.stream u.streamNo
    decide ((s.pc u).toNat = len) && (decide (entry = len) || ((s.trapRegs u).intrap && decide (vec = len)))
  | none => false

/-! ## Checkers (R378, R379, R381, R384) -/

/-- The T bit of an instruction (R15). -/
def tripled (i : Instr) : Bool :=
  match Instr.stream i, encode i with
  | some .compute, some w => bits w 31 30 == 1
  | some .lookup, some w | some .scalar, some w => bits w 31 31 == 1
  | _, _ => false

/-- Map out a unit that the Callipers found failed (R384). -/
def State.mapOut (s : State) (u : UnitId) : State :=
  match u with
  | .ctx k _ =>
    let cl := clusterOf k
    let i := coreIndex k
    let r := (s.cluster cl).rel
    let p := if r.spareServes i then 16 else i
    let s := s.onRel cl fun r => { r with failed := r.failed ||| BitVec.ofNat 17 (2 ^ p) }
    let used := (((s.smapNew.filter fun e => e.1 == cl).getLast?).map (·.2.2)).getD r.spareUsed
    if used || r.failed.getLsbD 16 || p == 16 then s else { s with smapNew := s.smapNew ++ [(cl, i, true)] }
  | .scalar cl => s.onRel cl fun r => { r with denseFail := true, engok := 0 }
  | _ => s

/-- A row instruction, which is checked at each of its 32-byte steps (R378). -/
def steppedWord : Instr → Bool
  | .rowadd .. | .rowscl .. | .rowcvt .. | .rowdot .. => true
  | _ => false
/-- The lanes that a word forms candidates of (R379). -/
def voteLanes (u : UnitId) : Nat :=
  match u with
  | .compute _ | .epi .. => 64
  | .ctx .. => 32
  | _ => 1
def repeatState (f : State → State) : Nat → State → State
  | 0, s => s
  | n + 1, s => repeatState f n (f s)
/-- A vote of two candidates in one lane: counted and logged (R379); a supervisor core stands in no cluster. -/
def State.voteFixed (s : State) (u : UnitId) : State :=
  match u with
  | .sup n => s.ordelLog n Cause.voteFail.code 0
  | u => (s.onRel u.cl fun r => { r with votefix := sat16 r.votefix }).ordelLog u.cl Cause.voteFail.code 0

/-- What the checkers make of a word that retires: `before` it and `after` it. One that does not pass commits nothing. -/
def State.checked (before after : State) (u : UnitId) (i : Instr) : State :=
  let callipers := match u with | .ctx _ _ | .scalar _ => true | _ => false
  match before.disturb with
  | .none => after
  | .retryAgree n =>
    if callipers then repeatState (fun s => s.onRel u.cl fun r => { r with callretry := sat32 r.callretry }) (if steppedWord i then n else min n 1) after
    else after
  | .retryFail => if callipers then (before.raise u .checkMismatch 0).mapOut u else after
  | .voteTwo n => if tripled i then repeatState (fun s => s.voteFixed u) (min n (voteLanes u)) after else after
  | .voteNone => if tripled i then before.raise u .voteFail 0 else after
  | .pairDiff => match u with
    | .ctx k _ => if (before.cluster (clusterOf k)).rel.pairNow.getLsbD (coreIndex k / 2) then before.raise u .pairMismatch 0 else after
    | _ => after

/-! ## When a unit issues (R141, R207, R220) -/

/-- The first TIME at which the issue slot that a unit uses is free. -/
def State.slotAt (s : State) : UnitId → Nat
  | .ctx k _ => (s.core k).slotAt
  | .epi cl _ => (s.dense cl).epiAt
  | _ => 0

/-! ### Power gating (R406)

Gating inserts idle issue cycles in lookup cores and matrix engines: of each 16 clk of TIME the first `duty` issue (DESIGN CHOICE, log
87). -/

/-- The first TIME from t on at which gated issue is open. -/
def Ordel.openAt (o : Ordel) (t : Nat) : Nat := if t % 16 < o.duty then t else t + (16 - t % 16)

/-- Is the issue of lookup cores and matrix engines idle in this clk? -/
def State.gated (s : State) : Bool := decide (s.ordel.openAt s.time ≠ s.time)

/-- The clk that pass before a unit's word issues at a turn of `dt` clk: until it and its slot are free, and gating lets it. -/
def State.turnDelay (s : State) (u : UnitId) (dt : Nat) : Nat :=
  let t := max (s.time + dt) (max (s.readyAt u) (s.slotAt u))
  (match u with | .ctx .. => s.ordel.openAt t | _ => t) - s.time

def tileInstr : Instr → Bool
  | .mma .. | .mmac .. | .mmak .. | .mzero .. | .mdrain .. | .mldacc .. => true
  | _ => false

/-- The instruction that a unit would issue at TIME t. -/
def State.nextInstr (s : State) (u : UnitId) (t : Nat) : Option Instr :=
  if s.canIssue u && decide (s.readyAt u ≤ t) then
    match (s.viewFor u).fetch u with
    | .ok (w, _) => (decodeWord (streamOf u) w).toOption
    | .error _ => none
  else none

/-- A fetch that must be tried again leaves the word unnumbered; one that faults or parks is the word's issue. -/
def Stop.retries : Stop → Bool
  | .wait _ | .again _ | .refused _ | .since _ _ => true
  | _ => false

/-- A word stalls at issue: it has issued nothing, and waits for no access of its own. -/
def State.stalled (s : State) (u : UnitId) : Bool :=
  match s.wait u with
  | .none | .parked | .reply _ => false
  | .retry | .refused .. => (s.delivered u).isEmpty
  | _ => true

/-- A word that stalls at issue gives its sequence number back: the words that issue first take theirs first (R261). `old` is the
core before the word took it. -/
def Dense.untake (d old : Dense) : Dense :=
  let i := old.nextSeq.toNat % 64
  { d with
    nextSeq := old.nextSeq
    ring := match old.ring.find? fun e => e.1 == i with
      | some e => Tab.set d.ring i e.2
      | none => Tab.drop d.ring i }

/-- Has the node of a unit stopped, or its core frozen, with this word? -/
def State.faulted (before after : State) (u : UnitId) : Bool :=
  ((before.dense u.cl).frozen.isNone && (after.dense u.cl).frozen.isSome) ||
    (match before.nodeOf u, after.nodeOf u with
      | some m, some n => m.stopped != n.stopped
      | _, _ => false)

/-! ## Placing a word for the host's question -/

/-- The stream and unit that run a table word: supervisor functions on a supervisor core, EPOUT and EPIRET in an epilogue. -/
def unitFor (w : Nat) : UnitId :=
  match tableStream w with
  | some .lookup => .ctx 0 0
  | some .copy => .load 0
  | some .compute =>
    if bits w 31 31 = 0 ∧ (bits w 29 24 = 0x2D ∨ bits w 29 24 = 0x2E) then .epi 0 0 else .compute 0
  | _ =>
    if bits w 30 25 = 0x3C ∧ (bits w 6 0 = 4 ∨ bits w 6 0 ≥ 0x40) then .sup 0 else .scalar 0

/-- A node on cluster 0 whose five streams are the bytes at one place: the load of a program from outside (DESIGN CHOICE, log 10). -/
def loadedNode (base len : Nat) : Node :=
  { image := BitVec.ofNat 64 base, w := 4, h := 4, dense := true
    streams := List.replicate 5 (0, len, 0, 0xFFFFFFFF) }

/-- The machine with one word placed for a unit to fetch next: a running node whose image holds it, and a page for it. -/
def State.placeWord (s : State) (nbits w : Nat) : State :=
  let w := w % 2 ^ nbits
  let u := unitFor w
  -- level 1 entry 0 at PHA 0, level 2 entry 0 at PHA 0x2000: a 1 GiB leaf of home 1 with R, W and X
  let mem := memWrite s.mem (s.hbmKey 0) (leBytes 16 (1 + 0x2000 * 2 ^ 26))
  let mem := memWrite mem (s.hbmKey 0x2000) (leBytes 16 (2 + 0x70 + 1 * 2 ^ 16))
  let mem := memWrite mem (s.hbmKey (2 ^ 30 + 0x1000)) (leBytes 8 w)
  let s := { s with
    mem := mem, ptRoot := 0, agenda := [{ dt := 0, act := .issue u }], cur := u
    launches := [{ id := 1, bytes := List.replicate 128 0, queue := 0, arrival := 0, recAddr := 0, state := .onNode
                   node := some (loadedNode 0x1000 8) }] }
  match u with
  | .sup n => s.onSup n fun x => { x with live := true, pc := 0, base := 0x1000, len := 8, wait := .none }
  | u => ((s.setLive u true).setPc u 0).setWait u .none

end Sys2Proof.Machine
end

