-- ==== Sys2Proof/Machine/Flags.lean ====
section
/-! DEFINITION. Conditions (R21) and the Z, N, C, V of comparisons (R163, R168, R255). -/

namespace Sys2Proof

/-- Does a condition hold on Z, N, C, V (R21)? -/
def Cond.holds (c : Cond) (f : Machine.Cond4) : Bool :=
  match c with
  | .al => true
  | .eq => f.z
  | .ne => !f.z
  | .mi => f.n
  | .pl => !f.n
  | .cs => f.c
  | .cc => !f.c
  | .vs => f.v
  | .vc => !f.v
  | .lt => f.n != f.v
  | .ge => f.n == f.v
  | .le => f.z || f.n != f.v
  | .gt => !f.z && f.n == f.v
  | .hi => f.c && !f.z
  | .ls => !f.c || f.z

end Sys2Proof

namespace Sys2Proof.Machine

/-- The flags that a subtraction in `w` bits sets: zero, sign, no unsigned borrow, signed overflow (R163). -/
def subFlags (w a b : Nat) : Cond4 :=
  let d := wrapN w ((a : Int) - b)
  let exact := sext w a - sext w b
  { z := d == 0, n := bits d (w - 1) (w - 1) == 1, c := decide (b % 2 ^ w ≤ a % 2 ^ w), v := decide (exact ≠ sext w d) }

/-- The flags of a floating comparison, ordered or unordered (R163). -/
def fpFlags (a b : Num) : Cond4 :=
  if a.isNan || b.isNan then { z := false, n := false, c := true, v := true }
  else { z := a.eqv b, n := a.lt b, c := !a.lt b, v := false }

end Sys2Proof.Machine
end

