-- ==== Sys2Proof/Machine/Operands.lean ====
section
/-! DEFINITION. The operands of the lookup stream (R19, R139, R146, R156 to R158), lanes of acc (R129), and running an
arithmetic operation lane by lane with one generator (R126). -/

namespace Sys2Proof.Machine

/-! ## Running lanes -/

/-- Codes and tags of lanes, the flags of all, the generator after them. -/
structure LaneRun where
  lanes : List (Nat × Tag)
  flags : Flags
  sr : W32
deriving DecidableEq, Repr

/-- Run one operation per lane, in ascending order; the generator passes from lane to lane (R126). -/
def runLanes : W32 → List (W32 → Res) → LaneRun
  | sr, [] => ⟨[], 0, sr⟩
  | sr, f :: fs =>
    let r := f sr
    let t := runLanes r.sr fs
    ⟨(r.code, BitVec.ofNat 5 r.tag) :: t.lanes, r.flags ||| t.flags, t.sr⟩

/-- A result that steps no generator and raises no flag. -/
def pureRes (code tag : Nat) : W32 → Res := fun sr => ⟨code, tag, 0, sr⟩

/-- Integer lanes wrap and carry tag 31 (R117, R158). -/
def intRes (e : ElemType) (v : Int) : W32 → Res := pureRes (wrapN (ElemType.bits e) v) 31

/-- The integer a code of an integer type stands for. -/
def intVal (e : ElemType) (c : Nat) : Int := if e = .uint8 then (c : Int) else sext (ElemType.bits e) c

/-- Lesser or greater of two codes (R160): a float delivers an operand with its tag. -/
def minMaxRes (isMax : Bool) (e : ElemType) (a b : Nat × Tag) : W32 → Res :=
  if ElemType.isFloat e then
    let (c, t) := fpMinMax isMax e a.1 b.1 (opd e a.1 a.2) (opd e b.1 b.2)
    pureRes c t
  else
    let x := intVal e a.1
    let y := intVal e b.1
    pureRes (if (if isMax then decide (y ≤ x) else decide (x ≤ y)) then a.1 else b.1) 31

/-- A binary operation of a type: floating with one rounding, or wrapping. -/
def arithRes (e : ElemType) (fp : W32 → Opd → Opd → Res) (int : Int → Int → Int) (a b : Nat × Tag) : W32 → Res :=
  if ElemType.isFloat e then fun sr => fp sr (opd e a.1 a.2) (opd e b.1 b.2)
  else intRes e (int (intVal e a.1) (intVal e b.1))

def addRes (e : ElemType) (r : Rm) (a b : Nat × Tag) : W32 → Res := arithRes e (fun g => fpAdd e r g) (· + ·) a b
def subRes (e : ElemType) (r : Rm) (a b : Nat × Tag) : W32 → Res := arithRes e (fun g => fpSub e r g) (· - ·) a b
def mulRes (e : ElemType) (r : Rm) (a b : Nat × Tag) : W32 → Res := arithRes e (fun g => fpMul e r g) (· * ·) a b
/-- a * b + c, fused for floats. -/
def fmaRes (e : ElemType) (r : Rm) (sub : Bool) (a b c : Nat × Tag) : W32 → Res :=
  if ElemType.isFloat e then fun sr => fpFma e r sr sub (opd e a.1 a.2) (opd e b.1 b.2) (opd e c.1 c.2)
  else intRes e (intVal e a.1 * intVal e b.1 + intVal e c.1)

def logic (f : LogOp) (w a b : Nat) : Nat :=
  match f with
  | .and => Nat.land a b
  | .or => Nat.lor a b
  | .xor => Nat.xor a b
  | .andn => Nat.land a (Nat.xor b (2 ^ w - 1))
/-- Shifts by the count modulo the width (R160). -/
def shift (f : ShiftOp) (w a b : Nat) : Nat :=
  let n := b % w
  match f with
  | .shl => a * 2 ^ n % 2 ^ w
  | .shr => a / 2 ^ n
  | .sra => wrapN w (sext w a / (2 ^ n : Int))
  | .rol => (a * 2 ^ n + a / 2 ^ (w - n)) % 2 ^ w

/-- One level of a reduction tree: neighbours combine, the generator steps in ascending order (R162). -/
def treeLevel (f : Nat × Tag → Nat × Tag → W32 → Res) : W32 → List (Nat × Tag) → LaneRun
  | sr, a :: b :: xs =>
    let r := f a b sr
    let t := treeLevel f r.sr xs
    ⟨(r.code, BitVec.ofNat 5 r.tag) :: t.lanes, r.flags ||| t.flags, t.sr⟩
  | sr, xs => ⟨xs, 0, sr⟩
/-- The fixed pairwise tree, level by level. -/
def treeReduce (f : Nat × Tag → Nat × Tag → W32 → Res) : Nat → W32 → List (Nat × Tag) → LaneRun
  | 0, sr, xs => ⟨xs, 0, sr⟩
  | n + 1, sr, xs =>
    let l := treeLevel f sr xs
    let t := treeReduce f n l.sr l.lanes
    ⟨t.lanes, l.flags ||| t.flags, t.sr⟩

/-! ## acc -/

/-- Lane count of acc for a type. -/
def laneCount (e : ElemType) : Nat := 32 / ElemType.size e

/-- The tag of lane i with lanes of w bytes: the least of its fields (R129). -/
def LCtx.laneTag (x : LCtx) (w i : Nat) : Tag :=
  (List.range w).foldl (fun t j => if (x.accTag (w * i + j)).toNat < t.toNat then x.accTag (w * i + j) else t) 31

/-- The lanes of acc as a type reads them. -/
def LCtx.accLanes (x : LCtx) (e : ElemType) : List (Nat × Tag) :=
  let cs := unpackCodes e (leBytes 32 x.acc.toNat)
  ((List.range cs.length).zip cs).map fun (i, c) => (c, x.laneTag (ElemType.size e) i)

/-- acc with lanes of a type, the bytes and tag fields beyond them zero and 31 (R129, R161). -/
def LCtx.setLanes (x : LCtx) (e : ElemType) (ls : List (Nat × Tag)) : LCtx :=
  let w := ElemType.size e
  { x with
    acc := BitVec.ofNat 256 (leNat (packCodes e (ls.map (·.1))))
    accTags := (ls.flatMap fun l => List.replicate w l.2) ++ List.replicate (32 - w * ls.length) 31 }

/-- The tag a value carries that comes from memory, `in`, `one` or `zero`: P of the type (R158). -/
def fullTag (e : ElemType) (c : Nat) : Tag := BitVec.ofNat 5 (precision e c)

/-- Bytes as lanes of a type, fully trusted. -/
def freshLanes (e : ElemType) (bs : List Byte) : List (Nat × Tag) := (unpackCodes e bs).map fun c => (c, fullTag e c)

/-- A small integer as a code of a type; exact in every type of F and I (R165). -/
def smallCode (e : ElemType) (i : Int) : Nat :=
  if ElemType.isFloat e then (roundTo e .rne 0 (.ofInt i)).1 else wrapN (ElemType.bits e) i

/-! ## Operands -/

/-- A pointer stepped by its stride in bits 48:0 (R139). -/
def Ptr.step (p : Ptr) (back : Bool) : Ptr :=
  let d : BitVec 49 := p.stride.signExtend 49
  let o : BitVec 49 := p.addr.setWidth 49
  let o' := if back then o - d else o + d
  { p with addr := BitVec.ofNat 64 (bits p.addr.toNat 63 49 * 2 ^ 49 + o'.toNat) }

/-- The pointer that a memory operand names, and how it steps. -/
def LOpd.pointer : LOpd → Option (Nat × Option Bool)
  | .mem p => some (p.toNat, none)
  | .memInc p => some (p.toNat, some false)
  | .memDec p => some (p.toNat, some true)
  | _ => none

/-- The state with an operand's pointer update made (R139). -/
def State.stepPtr (s : State) (k c : Nat) (n : Nat) : Option Bool → State
  | none => s
  | some back => s.onCtx k c fun x => x.setPtr n ((x.ptr n).step back)

/-- The next 32 bytes of the payload (R146): none past the padded payload or outside an activation. -/
def LCtx.payload (x : LCtx) : Option (List Byte) :=
  match x.act with
  | none => none
  | some a =>
    let n := a.msg.payload.length
    if 32 * a.pos < n then
      let bs := (a.msg.payload.drop (32 * a.pos)).take 32
      some (bs ++ List.replicate (32 - bs.length) 0)
    else none

/-- Read one operand of n bytes as lanes of a type (R156 to R158). -/
def State.operand (s : State) (k c : Nat) (e : ElemType) (n : Nat) (o : LOpd) : Eff (List (Nat × Tag) × State) :=
  let x := s.ctx k c
  let fetch (p : Nat) (step : Option Bool) : Eff (List (Nat × Tag) × State) :=
    let a := (x.ptr p).addr
    let s := s.stepPtr k c p step
    if a.toNat % ElemType.size e ≠ 0 then .error (.trap .align a s)
    else match s.load (.ctx k c) a n with
      | .error q => .error q
      | .ok (bs, s) => .ok (freshLanes e bs, s)
  let badPayload := match x.act with | some a => a.msg.poisoned | none => false
  match o with
  | .zero => .ok (freshLanes e (List.replicate n 0), s)
  | .acc => .ok ((x.accLanes e).take (n / ElemType.size e), s)
  | .one => .ok (List.replicate (n / ElemType.size e) (smallCode e 1, fullTag e (smallCode e 1)), s)
  | .inPeek => match x.payload with
    | some bs => if badPayload then .error (.trap .poison 0 s) else .ok (freshLanes e (bs.take n), s)
    | none => .error (.trap .space 0 s)
  | .inPop => match x.payload with
    | some bs =>
      if badPayload then .error (.trap .poison 0 s)
      else .ok (freshLanes e (bs.take n), s.onCtx k c fun x => { x with act := x.act.map fun a => { a with pos := a.pos + 1 } })
    | none => .error (.trap .space 0 s)
  | .mem p => fetch p.toNat none
  | .memInc p => fetch p.toNat (some false)
  | .memDec p => fetch p.toNat (some true)

/-! ## Issue of lookup words -/

/-- A word of the lookup stream: its effect on a context, whatever stops it settled. -/
def lookupWord (s : State) (f : Nat → Nat → Eff State) : Host.Outcome State Fault Refusal :=
  match s.cur with
  | .ctx k c => .next (s.settle s.cur (f k c))
  | u => .next (s.raise u .illegal 0)

/-- Go to a word address; at or beyond the stream's length it is ILLEGAL (R17). -/
def State.jumpTo (s : State) (u : UnitId) (pc : W32) (idle : Nat) : Eff State :=
  if pc.toNat ≥ s.streamLen u then .error (.trap .illegal 0 s) else .ok (s.retireTo u pc idle)

/-- The word address a signed offset names (R13). -/
def branchTarget (pc : W32) (w : Nat) (o : BitVec w) : W32 := pc + 4 * o.signExtend 32

/-- Take or pass a branch. -/
def State.branch (s : State) (u : UnitId) (taken : Bool) (target : W32) (idle : Nat) : Eff State :=
  if taken then s.jumpTo u target idle else .ok (s.retire u idle)

/-- A lookup result with its flags (R158), then SIG_THRESHOLD when a checked tag is low, else the next word. -/
def State.finishLanes (s : State) (k c : Nat) (r : LaneRun) (check : List (Nat × Tag)) : Eff State :=
  let u : UnitId := .ctx k c
  let s := s.collect u r.flags r.sr
  if check.any fun l => s.sigLow u l.2.toNat then .error (.trap .sigThreshold 0 s) else .ok (s.retire u 0)

end Sys2Proof.Machine
end

