-- ==== Sys2Proof/Machine/LookupPtr.lean ====
section
/-! DEFINITION. Pointers, coordinates, branches and calls of the lookup stream (R166 to R169). -/

namespace Sys2Proof.Machine

/-- A P-class effect that cannot stop: the context changes and the word retires. -/
def ptrWord (s : State) (f : LCtx → LCtx) : Host.Outcome State Fault Refusal :=
  lookupWord s fun k c => .ok ((s.onCtx k c f).retire (.ctx k c) 0)

def LCtx.setAddr (x : LCtx) (n : Nat) (a : W64) : LCtx := x.setPtr n { x.ptr n with addr := a }

/-- A doubleword of acc. -/
def LCtx.accWord (x : LCtx) (n : Nat) : W64 := BitVec.ofNat 64 (x.acc.toNat / 2 ^ (64 * n))

/-- PSET (R166). -/
def execPset (_z : Bool) (d : BitVec 3) (i : BitVec 19) (s : State) : Host.Outcome State Fault Refusal :=
  ptrWord s fun x => x.setAddr d.toNat (i.signExtend 64)

/-- The address of a doubleword of the node's constant table; beyond the table: none (R166, R227). -/
def State.constAddr (s : State) (u : UnitId) (i : Nat) : Option W64 :=
  match s.nodeOf u with
  | some n => if i < n.ctCount then some (BitVec.ofNat 64 (8 * 2 ^ 60 + n.ctBase + 8 * i)) else none
  | none => none

/-- PLDC (R166). -/
def execPldc (_z : Bool) (d : BitVec 3) (i : BitVec 19) (s : State) : Host.Outcome State Fault Refusal :=
  lookupWord s fun k c =>
    match s.constAddr (.ctx k c) i.toNat with
    | none => .error (.trap .space 0 s)
    | some a => match s.load (.ctx k c) a 8 with
      | .error q => .error q
      | .ok (bs, s) => .ok ((s.onCtx k c fun x => x.setAddr d.toNat (bytesW64 bs 0)).retire (.ctx k c) 0)

/-- PADD (R166): address plus immediate, and the stride. -/
def execPadd (_z : Bool) (d p : BitVec 3) (i : BitVec 19) (s : State) : Host.Outcome State Fault Refusal :=
  ptrWord s fun x => x.setPtr d.toNat { x.ptr p.toNat with addr := (x.ptr p.toNat).addr + i.signExtend 64 }

/-- PSTR (R166). -/
def execPstr (_z : Bool) (d : BitVec 3) (i : BitVec 19) (s : State) : Host.Outcome State Fault Refusal :=
  ptrWord s fun x => x.setPtr d.toNat { x.ptr d.toNat with stride := i }

/-- PLD (R166). -/
def execPld (_z : Bool) (d p : BitVec 3) (i : BitVec 19) (s : State) : Host.Outcome State Fault Refusal :=
  lookupWord s fun k c =>
    let a := ((s.ctx k c).ptr p.toNat).addr + i.signExtend 64
    if a.toNat % 8 ≠ 0 then .error (.trap .align a s)
    else match s.load (.ctx k c) a 8 with
      | .error q => .error q
      | .ok (bs, s) => .ok ((s.onCtx k c fun x => x.setAddr d.toNat (bytesW64 bs 0)).retire (.ctx k c) 0)

/-- PST (R166). -/
def execPst (_z : Bool) (d p : BitVec 3) (i : BitVec 19) (s : State) : Host.Outcome State Fault Refusal :=
  lookupWord s fun k c =>
    let x := s.ctx k c
    let a := (x.ptr p.toNat).addr + i.signExtend 64
    if a.toNat % 8 ≠ 0 then .error (.trap .align a s)
    else match s.store (.ctx k c) a (w64Bytes (x.ptr d.toNat).addr) with
      | .error q => .error q
      | .ok s => .ok (s.retire (.ctx k c) 0)

/-- PACC_GET (R166). -/
def execPaccGet (_z : Bool) (d n : BitVec 3) (s : State) : Host.Outcome State Fault Refusal :=
  ptrWord s fun x => x.setAddr d.toNat (x.accWord n.toNat)

/-- PACC_PUT (R166): the doubleword's eight tag fields become 31. -/
def execPaccPut (_z : Bool) (d n : BitVec 3) (s : State) : Host.Outcome State Fault Refusal :=
  ptrWord s fun x =>
    { x with
      acc := BitVec.ofNat 256 (setBits x.acc.toNat (64 * n.toNat + 63) (64 * n.toNat) (x.ptr d.toNat).addr.toNat)
      accTags := x.allTags.take (8 * n.toNat) ++ List.replicate 8 31 ++ x.allTags.drop (8 * n.toNat + 8) }

/-- PACC_ADD (R166). -/
def execPaccAdd (_z : Bool) (d n : BitVec 3) (s : State) : Host.Outcome State Fault Refusal :=
  ptrWord s fun x => x.setAddr d.toNat ((x.ptr d.toNat).addr + x.accWord n.toNat)

/-- PACC_ADDW (R166). -/
def execPaccAddw (_z : Bool) (d n : BitVec 3) (s : State) : Host.Outcome State Fault Refusal :=
  ptrWord s fun x =>
    let w : W32 := BitVec.ofNat 32 (x.acc.toNat / 2 ^ (32 * n.toNat))
    x.setAddr d.toNat ((x.ptr d.toNat).addr + w.signExtend 64)

/-! ## Coordinates (R167) -/

/-- PCRD_ABS: a relative target outside the grid is SPACE. -/
def execPcrdAbs (_z : Bool) (d p : BitVec 3) (s : State) : Host.Outcome State Fault Refusal :=
  lookupWord s fun k c =>
    let q := (s.ctx k c).ptr p.toNat
    let sp := addrSpace q.addr
    let finish (a : W64) : Eff State :=
      .ok ((s.onCtx k c fun x => x.setPtr d.toNat { addr := a, stride := q.stride }).retire (.ctx k c) 0)
    if (sp = 1 ∨ sp = 2 ∨ sp = 3 ∨ sp = 4) ∧ addrRel q.addr = true then
      match target (some k) q.addr with
      | none => .error (.trap .space q.addr s)
      | some t => finish (absAddr sp t (addrOff q.addr))
    else finish q.addr

/-- Own x in bits 5:0, y in 9:6, device number in 31:16. -/
def xyWord (k : Nat) (dev : Nat) : W64 := BitVec.ofNat 64 (coreX k + 64 * coreY k + 65536 * dev)

/-- PCRD_MYXY. -/
def execPcrdMyxy (_z : Bool) (d : BitVec 3) (s : State) : Host.Outcome State Fault Refusal :=
  lookupWord s fun k c =>
    .ok ((s.onCtx k c fun x => x.setPtr d.toNat { addr := xyWord k Config.deviceNumber.toNat, stride := 0 }).retire
      (.ctx k c) 0)

/-- PCRD_GLOB. -/
def execPcrdGlob (_z : Bool) (d p : BitVec 3) (s : State) : Host.Outcome State Fault Refusal :=
  lookupWord s fun k c =>
    let q := (s.ctx k c).ptr p.toNat
    let a := if addrSpace q.addr = 0 then absAddr 1 k (addrOff q.addr) else q.addr
    .ok ((s.onCtx k c fun x => x.setPtr d.toNat { addr := a, stride := q.stride }).retire (.ctx k c) 0)

/-- PCRD_HOME: any valid leaf answers. -/
def execPcrdHome (_z : Bool) (d p : BitVec 3) (s : State) : Host.Outcome State Fault Refusal :=
  lookupWord s fun k c =>
    let a := ((s.ctx k c).ptr p.toNat).addr
    if addrSpace a ≠ 8 ∨ bits a.toNat 59 48 ≠ 0 then .error (.trap .space a s)
    else match s.leafFor (s.who (.ctx k c)) a (bits a.toNat 47 0) with
      | .error q => .error q
      | .ok (t, s) =>
        let v : W64 := if entKind t.leaf = 2 then xyWord (bits t.leaf 25 16) 0
          else BitVec.ofNat 64 (2 ^ 63 + 65536 * entDev t.leaf)
        .ok ((s.onCtx k c fun x => x.setPtr d.toNat { addr := v, stride := 0 }).retire (.ctx k c) 0)

/-! ## Branches and calls (R168, R169) -/

/-- BR. -/
def execBr (cond : Cond) (o : BitVec 15) (s : State) : Host.Outcome State Fault Refusal :=
  lookupWord s fun k c =>
    let u : UnitId := .ctx k c
    s.branch u (cond.holds (s.ctx k c).f) (branchTarget (s.pc u) 15 o) 0

/-- BPC: the flags of pa - pb in 64 bits; F is unchanged. -/
def execBpc (cond : Cond) (a b : BitVec 3) (o : BitVec 15) (s : State) : Host.Outcome State Fault Refusal :=
  lookupWord s fun k c =>
    let u : UnitId := .ctx k c
    let x := s.ctx k c
    s.branch u (cond.holds (subFlags 64 (x.ptr a.toNat).addr.toNat (x.ptr b.toNat).addr.toNat)) (branchTarget (s.pc u) 15 o) 0

/-- BSIG: the least clamped tag over the lanes of acc is below THR. -/
def execLBsig (h : BitVec 5) (e : ElemType) (o : BitVec 15) (s : State) : Host.Outcome State Fault Refusal :=
  lookupWord s fun k c =>
    let u : UnitId := .ctx k c
    let low := ((s.ctx k c).accLanes e).any fun l => decide (readTag (precision e l.1) l.2 < h.toNat)
    s.branch u low (branchTarget (s.pc u) 15 o) 0

/-- CALL: the link in p7, whose stride is unchanged. -/
def execCall (o : BitVec 25) (s : State) : Host.Outcome State Fault Refusal :=
  lookupWord s fun k c =>
    let u : UnitId := .ctx k c
    let pc := s.pc u
    let t := branchTarget pc 25 o
    if t.toNat ≥ s.streamLen u then .error (.trap .illegal 0 s)
    else (s.onCtx k c fun x => x.setAddr 7 ((pc + 4).setWidth 64)).jumpTo u t 0

/-- JMP. -/
def execLJmp (o : BitVec 25) (s : State) : Host.Outcome State Fault Refusal :=
  lookupWord s fun k c => s.jumpTo (.ctx k c) (branchTarget (s.pc (.ctx k c)) 25 o) 0

/-- RETP: a target that is no word address raises ALIGN at the RETP. -/
def execRetp (s : State) : Host.Outcome State Fault Refusal :=
  lookupWord s fun k c =>
    let t : W32 := ((s.ctx k c).ptr 7).addr.setWidth 32
    if t.toNat % 4 ≠ 0 then .error (.trap .align (t.setWidth 64) s) else s.jumpTo (.ctx k c) t 0

end Sys2Proof.Machine
end

