-- ==== Sys2Proof/Machine/Control.lean ====
section
/-! DEFINITION. Control registers by number, for every stream (R77, R83, R137, R155, R201, R210, R236, R345, R346, R359,
R374, R377, R388, R389, R393, R400), fences and markers, which all streams share (R37, R202, R319, R352). -/

namespace Sys2Proof.Machine

/-! ## Registers by number -/

/-- Supervisor-only numbers. -/
def supNumber (n : Nat) : Bool := (decide (0x100 ≤ n) && decide (n ≤ 0x104)) || (decide (0x110 ≤ n) && decide (n ≤ 0x113))

/-- R137's registers; a write is made at a TIME. -/
def NumRegs.read (x : NumRegs) (n : Nat) : Option Nat :=
  match n with
  | 0x010 => some x.fflags.toNat
  | 0x011 => some (flag x.sigen 5 + x.thr.toNat)
  | 0x012 => some x.tagbase.toNat
  | 0x013 => some x.sr.toNat
  | _ => none
def NumRegs.write (x : NumRegs) (n v t : Nat) : NumRegs :=
  match n with
  | 0x010 => { x with fflags := x.raised.clear x.fflags (BitVec.ofNat 6 v) t }
  | 0x011 => { x with sigen := bits v 5 5 == 1, thr := BitVec.ofNat 5 v }
  | 0x012 => { x with tagbase := BitVec.ofNat 49 v }
  | 0x013 => { x with sr := if v % 2 ^ 32 = 0 then 1 else BitVec.ofNat 32 v }
  | _ => x

/-- R359's registers 0x0C0 to 0x0C4, by their low digit. -/
def TrapRegs.read (t : TrapRegs) (i : Nat) : Nat :=
  match i with
  | 0 => t.code.toNat * 2 ^ 24 + t.src.toNat * 2 ^ 20 + flag t.intrap 8 + t.cause.toNat
  | 1 => t.pc.toNat
  | 2 => t.addr.toNat
  | 3 => t.seq.toNat
  | _ => t.save.toNat

/-- A ring entry's word (R360). -/
def RingEnt.word (r : RingEnt) : Nat := r.seq.toNat * 2 ^ 56 + r.src.toNat * 2 ^ 52 + flag r.done 32 + r.pc.toNat

def Slot.word (x : Slot) : Nat := flag x.valid 63 + flag x.done 62 + x.promise.toNat

/-- The dense core's registers (R77, R210, R236, R346), for any of its streams. MKOUT above 65,535 reads as its low 16 bits (DESIGN
CHOICE, log 102). -/
def Dense.read (d : Dense) (n : Nat) : Option Nat :=
  match n with
  | 0x022 => some (d.markers % 65536)
  | 0x032 => some d.bankstall.toNat
  | 0x033 => some ((List.range 8).foldl (fun v i => v + Tab.get 0 d.q i * 256 ^ i) 0)
  | 0x034 => some d.fq.length
  | 0x035 => some d.grant.toNat
  | 0x036 => some d.mengok.toNat
  | 0x037 => some d.efbt.toNat
  | n =>
    if 0x040 ≤ n ∧ n ≤ 0x04E then some (Tab.get 0 d.k (n - 0x040)).toNat
    else if 0x060 ≤ n ∧ n ≤ 0x07F then
      let t := Tab.get {} d.t ((n - 0x060) / 2)
      some (if n % 2 = 0 then t.base.toNat else t.attr.toNat)
    else if 0x0E0 ≤ n ∧ n ≤ 0x0E7 then some (Tab.get {} d.w (n - 0x0E0)).word
    else none
def Dense.write (d : Dense) (n v : Nat) : Dense :=
  match n with
  | 0x032 => { d with bankstall := BitVec.ofNat 48 v }
  | 0x037 => { d with efbt := BitVec.ofNat 8 v }
  | n =>
    if 0x040 ≤ n ∧ n ≤ 0x04E then { d with k := Tab.set d.k (n - 0x040) (BitVec.ofNat 64 v) }
    else if 0x060 ≤ n ∧ n ≤ 0x07F then
      let i := (n - 0x060) / 2
      let t := Tab.get {} d.t i
      let t' : TReg := if n % 2 = 0 then { t with base := BitVec.ofNat 64 v }
        else { t with attr := BitVec.ofNat 64 (setBits (setBits v 61 56 0) 31 24 0) }
      { d with t := Tab.set d.t i t', bad := d.bad.filter (· != .t (n - 0x060)) }
    else d

/-- A carry register, or a wait for its granule (R345, R372). -/
def State.carryAt (s : State) (u : UnitId) (i : Nat) : Eff (Nat × Carry) :=
  match s.nodeOf u with
  | none => .error (.trap .illegal 0 s)
  | some n =>
    let cl := clusterOf n.corner
    let c := (s.cluster cl).carry
    let hi := decide (4 ≤ i)
    if (if hi then c.absentHi else c.absentLo) then .error (.wait (.carry hi)) else .ok (cl, c)

/-- Supervisor control registers. -/
def State.readSup (s : State) (n : Nat) : Nat :=
  match n with
  | 0x100 => s.preemptMargin.toNat
  | 0x101 => s.flogBase.toNat
  | 0x102 => s.flogHead.toNat * 2 ^ 32 + s.flogN.toNat
  | 0x103 => s.flogDrop.toNat
  | 0x104 => s.scrubHbm.toNat * 2 ^ 16 + s.scrubSram.toNat
  | 0x110 => s.hostUdp.toNat
  | 0x111 => s.hostDrop.toNat
  | 0x112 => s.evDest.toNat
  | _ => s.ordel.udp.toNat
def State.writeSup (s : State) (n v : Nat) : State :=
  match n with
  | 0x100 => { s with preemptMargin := BitVec.ofNat 64 v }
  | 0x101 => { s with flogBase := BitVec.ofNat 48 v }
  | 0x102 => { s with flogN := BitVec.ofNat 32 v, flogUsed := 0 }
  | 0x103 => { s with flogDrop := BitVec.ofNat 64 v }
  | 0x104 => { s with scrubHbm := BitVec.ofNat 16 (v / 2 ^ 16), scrubSram := BitVec.ofNat 16 v }
  | 0x110 => { s with hostUdp := BitVec.ofNat 16 v }
  | 0x111 => { s with hostDrop := s.hostDrop &&& ~~~ BitVec.ofNat 64 v }
  | 0x112 => { s with evDest := BitVec.ofNat 64 v }
  | _ => { s with ordel := { s.ordel with udp := BitVec.ofNat 16 v } }

/-- The sequencer whose numeric and trap registers a unit names: an epilogue names the compute sequencer's. -/
def crOwner : UnitId → UnitId
  | .epi c _ => .compute c
  | u => u

/-- Read a control register: ILLEGAL for an unknown number, PRIV for another's. -/
def State.readCr (s : State) (u : UnitId) (n : Nat) : Eff Nat :=
  let own := crOwner u
  let unknown : Eff Nat := .error (.trap .illegal 0 s)
  let badT (u : UnitId) (n : Nat) : Bool := decide (0x060 ≤ n ∧ n ≤ 0x07F) && match u with
    | .scalar c | .compute c | .epi c _ => (s.dense c).bad.elem (.t (n - 0x060))
    | _ => false
  if supNumber n then (if u.isSup then .ok (s.readSup n) else .error (.trap .priv 0 s))
  else if n = 0x01A ∨ n = 0x01B then
    match u with
    | .scalar c => .ok (if n = 0x01A then (s.dense c).ld.num.tagbase.toNat else (s.dense c).st.num.tagbase.toNat)
    | _ => .error (.trap .priv 0 s)
  else if 0x050 ≤ n ∧ n ≤ 0x057 then
    match s.carryAt u (n - 0x050) with
    | .error e => .error e
    | .ok (_, c) => .ok (Tab.get 0 c.g (n - 0x050)).toNat
  else if 0x0C0 ≤ n ∧ n ≤ 0x0C4 then .ok ((s.trapRegs own).read (n - 0x0C0))
  else match NumRegs.read (s.num u) n with
    | some v => .ok v
    | none => if badT u n then .error (.trap .poison 0 s) else match u with
      | .ctx k c =>
        let x := s.ctx k c
        let nd := s.nodeOf u
        match n with
        | 0x020 => .ok (c * 256 + flag x.act.isSome 7 + flag x.actCommitted 6 + (match x.act with | some a => a.chan | none => 0))
        | 0x021 => .ok x.laneDone.toNat
        | 0x022 => .ok (x.markers % 65536)
        | 0x024 => .ok (match nd with | some n => n.levelInt | none => 8192)
        | 0x025 => .ok (match nd with | some n => n.levelTh | none => 16)
        | _ => unknown
      | .scalar c =>
        let d := s.dense c
        if n = 0x030 then .ok (flag d.sc.sbchk 0)
        else if 0x0C8 ≤ n ∧ n ≤ 0x0CC then .ok (d.cp.trap.read (n - 0x0C8))
        else if n = 0x0CD then .ok d.ringidx.toNat
        else if n = 0x0CE then .ok (Tab.get {} d.ring (d.ringidx.toNat % 64)).word
        else match d.read n with | some v => .ok v | none => unknown
      | .compute c | .epi c _ =>
        let d := s.dense c
        if n = 0x030 then .ok (flag d.cp.sbchk 0)
        else if n = 0x031 then .ok d.vdom.toNat
        else if n = 0x0C5 then .ok d.ringidx.toNat
        else if n = 0x0C6 then .ok (Tab.get {} d.ring (d.ringidx.toNat % 64)).word
        else match d.read n with | some v => .ok v | none => unknown
      | .sup i =>
        if n = 0x022 then .ok ((s.sup i).markers % 65536)
        else if n = 0x030 then .ok (flag (s.sup i).sbchk 0)
        else unknown
      | _ => unknown

/-- Write a control register by its access codes (R3). -/
def State.writeCr (s : State) (u : UnitId) (n v : Nat) : Eff State :=
  -- a write of half a t register replaces a poisoned one
  let half : Bool := decide (0x060 ≤ n ∧ n ≤ 0x07F) && match u with | .scalar _ | .compute _ | .epi .. => true | _ => false
  match (if half then .ok 0 else s.readCr u n) with
  | .error e => .error e
  | .ok _ =>
    if supNumber n then .ok (s.writeSup n v)
    else if n = 0x01A then .ok (s.onDense u.cl fun d => { d with ld := { d.ld with num := d.ld.num.write 0x012 v s.time } })
    else if n = 0x01B then .ok (s.onDense u.cl fun d => { d with st := { d.st with num := d.st.num.write 0x012 v s.time } })
    else if 0x050 ≤ n ∧ n ≤ 0x057 then
      match s.carryAt u (n - 0x050) with
      | .error e => .error e
      | .ok (cl, c) => .ok (s.onCluster cl fun x => { x with carry := { c with g := Tab.set c.g (n - 0x050) (BitVec.ofNat 64 v) } })
    else if n = 0x0C4 then .ok (s.setTrap u { s.trapRegs u with save := BitVec.ofNat 49 v })
    else if 0x010 ≤ n ∧ n ≤ 0x013 then .ok (s.setNum u ((s.num u).write n v s.time))
    else match u with
      | .ctx k c => .ok (if n = 0x021 then s.onCtx k c fun x => { x with laneDone := BitVec.ofNat 8 v } else s)
      | .scalar c => .ok (s.onDense c fun d =>
          if n = 0x030 then { d with sc := { d.sc with sbchk := bits v 0 0 == 1 } }
          else if n = 0x0CC then { d with cp := { d.cp with trap := { d.cp.trap with save := BitVec.ofNat 49 v } } }
          else if n = 0x0CD then { d with ringidx := BitVec.ofNat 8 v }
          else d.write n v)
      | .compute c => .ok (s.onDense c fun d =>
          if n = 0x030 then { d with cp := { d.cp with sbchk := bits v 0 0 == 1 } }
          else if n = 0x031 then { d with vdom := BitVec.ofNat 2 v }
          else if n = 0x0C5 then { d with ringidx := BitVec.ofNat 8 v }
          else d.write n v)
      | .sup i => .ok (if n = 0x030 then s.onSup i fun x => { x with sbchk := bits v 0 0 == 1 } else s)
      | _ => .ok s

/-! ## Fences -/

/-- A fence at issue (R202, R319): ACQ waits for the unit's outstanding loads; REL, FULL and LOOP until its earlier accesses are
performed. -/
def State.fence (s : State) (u : UnitId) (kind : FenceKind) : Eff State :=
  match kind with
  | .acq => if s.loadsOut u then .error (.wait .retry) else .ok s
  | _ => s.release u

def FenceKind.num : FenceKind → Nat
  | .acq => 0
  | .rel => 1
  | .full => 2
  | .loop => 3

/-! ## Markers (R37, R204, R352) -/

/-- A marker counts in its issuer's MKOUT (R346). -/
def State.addMarkers (s : State) (u : UnitId) (n : Int) : State :=
  let f (x : Nat) : Nat := (x + n).toNat
  match u with
  | .ctx k c => s.onCtx k c fun x => { x with markers := f x.markers }
  | .sup i => s.onSup i fun x => { x with markers := f x.markers }
  | u => s.onDense u.cl fun d => { d with markers := f d.markers }

/-- The plain accesses parked at the homes of a cluster, or of every cluster for a supervisor core (R352). -/
def State.parkedAt (s : State) (who : Option UnitId) (cl : Nat) : List (Nat × Parked) :=
  let here (k : Nat) : Bool := match who with
    | some (.sup _) => true
    | _ => clusterOf k == cl
  s.cores.flatMap fun (k, c) => if here k then c.fq.filterMap fun p => match p with
    | .row .. => none
    | p => some (k, p) else []

/-- Place a marker in each queue the mask names. -/
def State.mark (s : State) (who : Option UnitId) (cl launch mask : Nat) : State :=
  let qs := (List.range 6).filter fun i => bits mask i i == 1
  let s := { s with markersOut := s.markersOut ++ qs.map fun q =>
    ({ who := who, queue := q, cl := cl, id := s.nextId, launch := launch, parked := if q = 4 then s.parkedAt who cl else [] } : Marker) }
  match who with
  | some u => (s.addMarkers u qs.length).stamp
  | none => s.stamp

/-! ## Barrier slots (R203, R353, R354) -/

/-- One arrival at a slot: unconfigured, or beyond the count of an unreleased phase, is BARRIER. -/
def BarSlot.arrive (b : BarSlot) : Option BarSlot :=
  if b.valid && decide (b.count < b.cnt) then some { b with count := b.count + 1 } else none

/-- The phase a WAIT waits for: that of the last arrival, else the one in progress; as the count of phases to be released. -/
def waitTarget (seen : Tab Nat) (slot : Nat) (b : BarSlot) : Nat :=
  let t := Tab.get 0 seen slot
  if t = 0 then b.phase + 1 else t

/-- Does a BAR word make an arrival, which releases (R203)? -/
def barArrives (op : BarOp) (started : Bool) : Bool :=
  match op with
  | .wait => false
  | .arrive => true
  | .both => !started

/-- BAR at a slot: ARRIVE releases and counts, WAIT sleeps until the phase is released and acquires (R203). `started`: the
word already waits, so BOTH has made its arrival. -/
def barStep (op : BarOp) (started : Bool) (slot : Nat) (b : BarSlot) (seen : Tab Nat) : Option (BarSlot × Tab Nat × Bool) :=
  if !b.valid then none
  else
    let wait (b : BarSlot) (seen : Tab Nat) : BarSlot × Tab Nat × Bool :=
      let t := waitTarget seen slot b
      if b.phase ≥ t then (b, Tab.drop seen slot, false) else (b, Tab.set seen slot t, true)
    match op with
    | .wait => some (wait b seen)
    | .arrive => b.arrive.map fun b => (b, Tab.set seen slot (b.phase + 1), false)
    | .both =>
      if started then some (wait b seen)
      else b.arrive.map fun b => wait b (Tab.set seen slot (b.phase + 1))

/-! ## Tokens (R27, R86, R208) -/

/-- The queues a sequencer sends on and waits on (R27). -/
def sendsOn : UnitId → Nat → Bool
  | .scalar _, q => q == 0 || q == 1 || q == 2
  | .load _, q => q == 3 || q == 7
  | .store _, q => q == 5 || q == 7
  | .compute _, q => q == 4 || q == 6 || q == 7
  | _, _ => false
def waitsOn : UnitId → Nat → Bool
  | .scalar _, q => q == 7
  | .load _, q => q == 0 || q == 5 || q == 6
  | .store _, q => q == 2 || q == 4
  | .compute _, q => q == 1 || q == 3
  | _, _ => false

/-- n tokens reach a queue; an addition to q7 sets the scalar sequencer's event latch (R237). -/
def Dense.addTokens (d : Dense) (q n : Nat) : Dense :=
  { d with q := Tab.set d.q q (Tab.get 0 d.q q + n), sc := { d.sc with latch := d.sc.latch || q == 7 } }

/-- TSEND: reserve, release at CLUSTER scope, add. In a handler, or on another's queue, it is ILLEGAL (R363). -/
def State.tsend (s : State) (u : UnitId) (q n idle : Nat) : Eff State :=
  let cl := u.cl
  let d := s.dense cl
  let started := decide (s.wait u = .sending q n)
  if !sendsOn u q || d.frozen.isSome then .error (.trap .illegal 0 s)
  else if n = 0 then .ok (s.retire u idle)
  else if !started && decide (Tab.get 0 d.q q + Tab.get 0 d.qres q + n > 255) then .error (.trap .tokenOverflow 0 s)
  else
    let s := if started then s else s.onDense cl fun d => { d with qres := Tab.set d.qres q (Tab.get 0 d.qres q + n) }
    let s := s.drain u
    if s.unreleased u then .ok ((s.setWait u (.sending q n)).setReadyAt u (s.time + 1))
    else
      .ok ((s.onDense cl fun d => { d with qres := Tab.set d.qres q (Tab.get 0 d.qres q - n) }.addTokens q n).retire u idle)

/-- TWAIT: block until the count is at least n, then subtract it and acquire. -/
def State.twait (s : State) (u : UnitId) (q n idle : Nat) : Eff State :=
  let d := s.dense u.cl
  if !waitsOn u q || d.frozen.isSome then .error (.trap .illegal 0 s)
  else if n = 0 then .ok (s.retire u idle)
  else if Tab.get 0 d.q q < n then .error (.wait (.token q n))
  else .ok ((s.onDense u.cl fun d => { d with q := Tab.set d.q q (Tab.get 0 d.q q - n) }).retire u idle)

/-! ## Promises (R78) -/

/-- The copy command of an identity. -/
def CopyEng.find (e : CopyEng) (id : Nat) : Option CopyCmd := (e.q.flatMap (·.2)).find? fun c => decide (c.id = id)

/-- Is a promise reached, comparing 56-bit values? -/
def promiseReached (time promise : Nat) : Bool := decide ((time + (2 ^ 56 - promise % 2 ^ 56)) % 2 ^ 56 < 2 ^ 55)

/-- A slot's command that is suspended or failed is not checked against its promise. -/
def heldCommand (c : Option CopyCmd) : Bool :=
  match c with
  | some c => c.state == .suspended || c.state == .failed
  | none => false

/-- WAITP: sleep until the slot is done or its promise reached; a missed promise is refreshed before the trap. -/
def State.waitp (s : State) (u : UnitId) (w idle : Nat) : Eff State :=
  let d := s.dense u.cl
  let x := Tab.get {} d.w w
  let c := x.cmd.bind fun id => (s.cluster u.cl).ce.find id
  if d.frozen.isSome then .error (.trap .illegal 0 s)
  else if !x.valid || x.done then .ok (s.retire u idle)
  else if heldCommand c || !promiseReached s.time x.promise.toNat then .error (.wait (.promise w))
  else
    let s := match c with
      | some c => s.refreshPromise u.cl c
      | none => s
    .error (.trap .promiseMissed 0 s)

/-! ## The tag plane (R132) -/

/-- The address of the tag byte of the element at an address: none when its offset leaves the address's field. -/
def tagAddr (base : BitVec 49) (a : W64) : Option W64 :=
  let w := match addrSpace a with
    | 0 | 8 => 60
    | 9 => 44
    | _ => 49
  let o := base.toNat + a.toNat % 2 ^ w / 4
  if o < 2 ^ w then some (BitVec.ofNat 64 (a.toNat / 2 ^ w * 2 ^ w + o)) else none

/-- The byte that a tagged store writes (R133). -/
def byteOfTag (t : Tag) : Byte := BitVec.ofNat 8 (0x80 + min t.toNat 24)

end Sys2Proof.Machine
end

