-- ==== Sys2Proof/Machine/MatrixIssue.lean ====
section
/-! DEFINITION. Tile commands at issue: format words (R213, R283), geometry (R214, R262), operands (R264, R267), the checks of
R286, capture and ADV (R279, R280), for the compute stream and for follow-ons alike. -/

namespace Sys2Proof.Machine

/-! ## Format words (R213) -/

def fmtA (f : W32) : Nat := bits f.toNat 3 0
def fmtB (f : W32) : Nat := bits f.toNat 7 4
def fmtAcc (f : W32) : Nat := bits f.toNat 10 8
def fmtRm (f : W32) : Rm :=
  match bits f.toNat 12 11 with
  | 0 => .rne
  | 1 => .rtz
  | 2 => .sr
  | _ => .rna
def fmtScale (f : W32) : Nat := bits f.toNat 14 13
def fmtDomain (f : W32) : Nat := bits f.toNat 16 15
def fmtSigen (f : W32) : Bool := f.getLsbD 17
def fmtEpi (f : W32) : Nat := bits f.toNat 21 18
def fmtDtag (f : W32) : Bool := f.getLsbD 22
def fmtChk (f : W32) : Bool := f.getLsbD 23

/-- A reserved field or code (R212): of an element type 12, CB3, which only copy descriptors have, and 13 to 15 (R33). -/
def fmtReserved (f : W32) : Bool :=
  bits f.toNat 31 24 ≠ 0 || fmtAcc f > 2 || fmtScale f = 3 || fmtDomain f = 3 ||
    decide (fmtA f ≥ 12) || decide (fmtB f ≥ 12)

/-! ## Tile words -/

inductive MOp where
  | mma | mmac | mmak | mzero | mdrain | mldacc
deriving DecidableEq, Repr

/-- A tile command's fields: t registers, bank, SET, SKIP, ADV. -/
structure MWord where
  op : MOp
  a : Nat := 0
  b : Nat := 0
  bank : Bool := false
  set : Bool := false
  skip : Bool := false
  adv : Bool := false
deriving DecidableEq, Repr

def mword : Instr → Option MWord
  | .mma _ a b n s k v => some { op := .mma, a := a.toNat, b := b.toNat, bank := n, set := s, skip := k, adv := v }
  | .mmac _ a b n s k v => some { op := .mmac, a := a.toNat, b := b.toNat, bank := n, set := s, skip := k, adv := v }
  | .mmak _ a b n s v => some { op := .mmak, a := a.toNat, b := b.toNat, bank := n, set := s, adv := v }
  | .mzero _ n => some { op := .mzero, bank := n }
  | .mdrain _ c n v => some { op := .mdrain, a := c.toNat, bank := n, adv := v }
  | .mldacc _ a n v => some { op := .mldacc, a := a.toNat, bank := n, adv := v }
  | _ => none

/-- A command that multiplies. -/
def MOp.multiplies : MOp → Bool
  | .mma | .mmac | .mmak => true
  | _ => false
def MOp.pops : MOp → Bool
  | .mzero => false
  | _ => true

/-- The accumulator kind of a type pair and the SCALE codes it permits (R283). -/
def pairKind (a b : ElemType) : Option (Nat × List Nat) :=
  let q8 (e : ElemType) : Bool := e = .e4m3 || e = .e5m2 || e = .m8
  let h (e : ElemType) : Bool := e = .bf16 || e = .fp16
  if q8 a && q8 b then some (0, if a = .m8 || b = .m8 then [0, 2] else [0, 1, 2])
  else if a = .fp4 && b = .fp4 then some (0, [0, 1, 2])
  else if (h a && h b) || (a = .fp32 && b = .fp32) then some (0, [0, 2])
  else if a = .int8 && b = .int8 then some (1, [0])
  else none

/-- The format word a command accepts (R283). -/
def fmtOk (op : MOp) (f : W32) : Bool :=
  let acc := fmtAcc f
  let pair := match ElemType.ofCode (fmtA f), ElemType.ofCode (fmtB f) with
    | some a, some b => pairKind a b
    | _, _ => none
  match op with
  | .mma => match pair with
    | some (k, ss) => acc == k && decide (fmtDomain f ≤ 1) && ss.elem (fmtScale f)
    | none => false
  | .mmac => match pair with
    | some (k, _) => k == 0 && acc == 2 && fmtDomain f == 2 && fmtScale f == 0 && !fmtChk f
    | none => false
  | .mmak => match pair with
    | some (k, ss) => acc == k && fmtDomain f == 0 && fmtScale f != 1 && ss.elem (fmtScale f)
    | none => false
  | .mzero => true
  | .mdrain => !fmtDtag f || acc == 0
  | .mldacc => !fmtDtag f || acc == 0 || acc == 2

/-! ## Geometry -/

/-- What a command covers: mode, rows, columns of B, PE columns, bytes of K. -/
structure Geo where
  mode : Nat
  m : Nat
  n : Nat
  cols : Nat
  k : Nat
deriving DecidableEq, Repr

/-- The geometry of a grant (R214, R285): a complex tile takes N as complex outputs. -/
def geoOf (complex : Bool) (grant : W64) : Geo :=
  let g := grant.toNat
  let mode := bits g 49 48
  let n := if complex then min (bits g 31 16) (if mode = 2 then 16 else 32) else bits g 31 16
  { mode := mode, m := bits g 15 0, n := n, cols := if complex then 2 * n else n, k := bits g 47 32 }

/-- The geometry of a captured command. -/
def MCmd.geo (c : MCmd) : Geo :=
  let g := geoOf (fmtAcc c.fmt == 2) c.grant
  match c.word with
  | .mmak .. => { g with k := c.kprime }
  | _ => g

/-- Does the command have work: M and N, and K for a multiplication (R285)? -/
def Geo.live (g : Geo) : Bool := g.m != 0 && g.n != 0

/-! ## Operands (R264) -/

def TReg.layout (t : TReg) : Nat := bits t.attr.toNat 63 62
def TReg.grouped (t : TReg) : Bool := t.layout == 0
def TReg.step (t : TReg) : W64 := BitVec.ofInt 64 (sext 24 (bits t.attr.toNat 55 32))
def TReg.rstride (t : TReg) : Nat := bits t.attr.toNat 23 0
def TReg.advance (t : TReg) : TReg := { t with base := t.base + t.step }

/-- Offset of bytes 16g to 16g + 15 of operand row i. -/
def TReg.segOff (t : TReg) (i g : Nat) : Nat :=
  if t.grouped then i / 16 * t.rstride + 256 * g + 16 * (i % 16) else i * t.rstride + 16 * g

/-- Bytes from the base that `rows` rows of n bytes reach. -/
def TReg.extent (t : TReg) (rows n : Nat) : Nat :=
  (List.range rows).foldl (fun m i => max m (if t.grouped then t.segOff i ((n + 15) / 16 - 1) + 16 else i * t.rstride + n)) 0

/-- An operand's place: the cluster's scratchpad, or, where it is ROWMAJOR, a tile memory of the cluster (R264). -/
def State.operandPlace (s : State) (cl : Nat) (t : TReg) (n : Nat) : Except Cause Place :=
  match s.resolve (s.who (.compute cl)) t.base n with
  | .error c => .error c
  | .ok (.inl (.scratch c o)) => if c = cl then .ok (.scratch c o) else .error .space
  | .ok (.inl (.tile k o)) => if !t.grouped && clusterOf k == cl then .ok (.tile k o) else .error .space
  | .ok _ => .error .space

/-- A failed check: its cause and address. -/
abbrev Check := Except (Cause × W64) Unit

/-- Check an operand register (R210, R264, R289, R290): layout, space, alignment, extent. -/
def State.checkOperand (s : State) (cl : Nat) (t : TReg) (groupedOk : Bool) (align rows n : Nat) : Check :=
  if t.layout ≥ 2 || (!groupedOk && t.grouped) then .error (.illegal, 0)
  else match s.operandPlace cl t 1 with
    | .error c => .error (c, t.base)
    | .ok _ =>
      let al := if t.grouped then 256 else align
      if t.base.toNat % al ≠ 0 ∨ t.rstride % al ≠ 0 then .error (.align, t.base)
      else if rows = 0 ∨ n = 0 then .ok ()
      else match s.operandPlace cl t (t.extent rows n) with
        | .error c => .error (c, t.base)
        | .ok _ => .ok ()

/-- The register that holds an operand's scales must be ROWMAJOR and its bytes must lie in its space (R267). -/
def State.checkScale (s : State) (cl : Nat) (t : TReg) (f : W32) (e : Nat) (rows k : Nat) : Check :=
  if t.layout ≠ 1 then .error (.illegal, 0)
  else match s.operandPlace cl t 1 with
    | .error c => .error (c, t.base)
    | .ok _ =>
      let elems := k * 8 / ElemType.bits ((ElemType.ofCode e).getD .fp32)
      let span := if fmtScale f = 1 then (rows - 1) * t.rstride + (elems + 31) / 32 else 4 * rows
      if fmtScale f = 2 ∧ t.base.toNat % 4 ≠ 0 then .error (.align, t.base)
      else if rows = 0 ∨ k = 0 then .ok ()
      else match s.operandPlace cl t span with
        | .error c => .error (c, t.base)
        | .ok _ => .ok ()

/-- Tag bytes of rows at an operand (R132, R289, R290). -/
def State.checkTags (s : State) (cl : Nat) (t : TReg) (tagbase : BitVec 49) (rows n : Nat) : Check :=
  (List.range rows).foldl (fun r i =>
    match r with
    | .error e => .error e
    | .ok _ => match tagAddr tagbase (t.base + BitVec.ofNat 64 (i * t.rstride)) with
      | none => .error (.space, t.base)
      | some a => match s.operandPlace cl { t with base := a } n with
        | .error c => .error (c, a)
        | .ok _ => .ok ()) (.ok ())

def Check.andThen (a : Check) (b : Check) : Check :=
  match a with
  | .error e => .error e
  | .ok _ => b

/-- The issue-time checks of a captured command, in R286's order. -/
def State.checkCmd (s : State) (cl : Nat) (w : MWord) (c : MCmd) (epis : List Nat) : Check :=
  let f := c.fmt
  let g := c.geo
  let t (i : Nat) : TReg := c.regs.getD i {}
  let fmtCheck : Check := if w.op.pops && (fmtReserved f || !fmtOk w.op f) then .error (.illegal, 0) else .ok ()
  let epiCheck : Check :=
    if w.op = .mdrain ∧ fmtEpi f ≠ 0 ∧ epis.getD (fmtEpi f) 0xFFFFFFFF = 0xFFFFFFFF then .error (.illegal, 0) else .ok ()
  let live := g.live && (!w.op.multiplies || g.k != 0)
  let rows (n : Nat) : Nat := if live then n else 0
  Check.andThen fmtCheck <| Check.andThen epiCheck <|
  match w.op with
  | .mma | .mmac | .mmak =>
    let kCheck : Check :=
      if w.op = .mmak ∧ (c.kprime > bits c.grant.toNat 47 32 ∨ c.kprime % 16 ≠ 0) then .error (.illegal, 0) else .ok ()
    let grp : Check := if w.op = .mmak ∧ !((t 0).grouped && (t 2).grouped) then .error (.illegal, 0) else .ok ()
    Check.andThen grp <| Check.andThen kCheck <|
    Check.andThen (s.checkOperand cl (t 0) true 16 (rows g.m) g.k) <|
    Check.andThen (s.checkOperand cl (t 2) true 16 (rows g.n) g.k) <|
    if fmtScale f = 0 then .ok ()
    else Check.andThen (s.checkScale cl (t 1) f (fmtA f) (rows g.m) g.k) (s.checkScale cl (t 3) f (fmtB f) (rows g.n) g.k)
  | .mzero => .ok ()
  | .mdrain =>
    Check.andThen (s.checkOperand cl (t 0) false 32 (rows g.m) 256)
      (if fmtDtag f then s.checkTags cl (t 0) c.tagbase (rows g.m) 64 else .ok ())
  | .mldacc =>
    Check.andThen (s.checkOperand cl (t 0) false 16 (rows g.m) (4 * g.cols))
      (if fmtDtag f then s.checkTags cl (t 0) c.tagbase (rows g.m) g.cols else .ok ())

/-! ## Capture (R279, R280, R288) -/

/-- The t registers a command advances, each once: operands, and their scale registers when SCALE is used. -/
def MWord.advances (w : MWord) (f : W32) : List Nat :=
  let ops := match w.op with
    | .mma | .mmac | .mmak => [w.a, w.b]
    | .mzero => []
    | .mdrain | .mldacc => [w.a]
  let scales := if w.op.multiplies && fmtScale f != 0 then ops.map fun n => (n + 1) % 16 else []
  (ops ++ scales).eraseDups

/-- The condenser's K' output and whether it is busy (R307). -/
def Dense.condenserK (d : Dense) : Nat := bits (Tab.get 0 (d.engine 1).act 11).toNat 28 20
def Dense.condenserBusy (d : Dense) : Bool := (d.engine 1).busy

/-- Pop, capture, check and advance. A failed check leaves the pop of a compute-stream command standing: the state of the trap
holds it; a follow-on's caller discards that state (R286). A follow-on does not pop in a clk in which the compute stream has (R212);
an empty queue is found before MMAK waits for the condenser (R71, R80). -/
def State.captureCmd (s : State) (cl : Nat) (i : Instr) (w : MWord) (pc : W32) (follow : Bool) : Eff (MCmd × State) :=
  let d := s.dense cl
  if follow ∧ w.op.pops ∧ d.popAt = s.time + 1 then .error (.wait .retry)
  else match w.op.pops, d.fq with
    | true, [] => .error (.trap .fqUnderflow 0 s)
    | pops, fq =>
      if w.op = .mmak ∧ d.condenserBusy then .error (.wait .retry) else
      let f : W32 := if pops then fq.headD 0 else 0
      let s1 := if pops then s.onDense cl fun d => { d with fq := d.fq.drop 1, fqBad := d.fqBad.filterMap (fun i => if i = 0 then none else some (i - 1)), popAt := if follow then d.popAt else s.time + 1 } else s
      let t (n : Nat) : TReg := Tab.get {} d.t (n % 16)
      let named : List Nat := if w.op.multiplies then [w.a, w.a + 1, w.b, w.b + 1] else if w.op = .mzero then [] else [w.a]
      let num := d.cp.num
      let c : MCmd :=
        { word := i, fmt := f, grant := d.grant, kprime := d.condenserK, tagbase := num.tagbase, seq := d.cp.seq, pc := pc
          regs := if w.op.multiplies then [t w.a, t (w.a + 1), t w.b, t (w.b + 1)] else [t w.a]
          thr := if num.sigen then some num.thr else none, follow := follow }
      let epis := match s.nodeOf (.compute cl) with | some n => n.epis | none => []
      -- a poisoned format word or t register is consumed (R375, R376)
      if (pops && d.fqBad.elem 0) || named.any (fun n => d.bad.elem (.t (2 * (n % 16))) || d.bad.elem (.t (2 * (n % 16) + 1))) then
        .error (.trap .poison 0 s1)
      else match s.checkCmd cl w c epis with
      | .error (q, a) => .error (.trap q a s1)
      | .ok _ =>
        let regs := if w.adv then w.advances f else []
        .ok (c, s1.onDense cl fun d =>
          { d with t := regs.foldl (fun t n => Tab.set t n (Tab.get {} t n).advance) d.t })

/-- May the arbiter accept a command: one in a clk, into a queue of eight (R281)? -/
def State.arbiterFree (s : State) (cl : Nat) : Bool :=
  decide ((s.dense cl).mq.length < 8) && decide ((s.dense cl).mqAt ≤ s.time)
/-- The arbiter accepts a command into the queue: it takes its place among queued work. -/
def State.acceptCmd (s : State) (cl : Nat) (c : MCmd) : State :=
  (s.onDense cl fun d => { d with mq := d.mq ++ [{ c with id := s.nextId }], mqAt := s.time + 1 }).stamp

end Sys2Proof.Machine
end

