-- ==== Sys2Proof/Machine/CopyDesc.lean ====
section
/-! DEFINITION. Copy descriptors (R66 to R71, R91, R101, R102, R105): their fields, the acceptance checks in the order of R71,
promises (R76), and the acceptance of a command. -/

namespace Sys2Proof.Machine

/-! ## Fields (R66, R67) -/

structure Desc where
  src : W64
  dst : W64
  res : W64
  tbl : W64
  tblrdy : W64
  step : W64
  ckv : W64
  follow : Nat
  ctrl : Nat
  flags : Nat
  blk : Nat
  tileb : Nat
  size : List Nat
  sstr : List Int
  dstr : List Int
  reserved : List Byte
  stat : Nat

def field (bs : List Byte) (off n : Nat) : Nat := leNat ((bs.drop off).take n)

/-- The fields of 256 bytes. The three lists hold all twelve dimensions. -/
def Desc.ofBytes (bs : List Byte) : Desc :=
  let w (off : Nat) : W64 := BitVec.ofNat 64 (field bs off 8)
  { src := w 0, dst := w 8, res := w 0x10, tbl := w 0x18, tblrdy := w 0x20, step := w 0x28, ckv := w 0x30
    follow := field bs 0x38 4, ctrl := field bs 0x3C 4, flags := field bs 0x40 4
    blk := field bs 0x44 2, tileb := field bs 0x46 2
    size := (List.range 12).map fun i => field bs (0x48 + 4 * i) 4
    sstr := (List.range 12).map fun i => sext 32 (field bs (0x78 + 4 * i) 4)
    dstr := (List.range 12).map fun i => sext 32 (field bs (0xA8 + 4 * i) 4)
    reserved := (bs.drop 0xD8).take 32
    stat := field bs 0xF8 8 }

def Desc.ddom (d : Desc) : Nat := bits d.ctrl 25 24
def Desc.cks (d : Desc) : Nat := bits d.ctrl 23 22
def Desc.retCode (d : Desc) : Nat := bits d.ctrl 21 18
def Desc.ndim (d : Desc) : Nat := bits d.ctrl 17 14
def Desc.mode (d : Desc) : Nat := bits d.ctrl 13 11
def Desc.rmCode (d : Desc) : Nat := bits d.ctrl 10 8
def Desc.detCode (d : Desc) : Nat := bits d.ctrl 7 4
def Desc.setCode (d : Desc) : Nat := bits d.ctrl 3 0
def Desc.det (d : Desc) : ElemType := etOf d.detCode
def Desc.set (d : Desc) : ElemType := etOf d.setCode
def Desc.ret (d : Desc) : ElemType := etOf d.retCode
def Desc.rm (d : Desc) : Rm := (Rm.ofCode d.rmCode).getD .rne
def Desc.tagcopy (d : Desc) : Bool := bits d.flags 0 0 == 1
def Desc.framerel (d : Desc) : Bool := bits d.flags 3 3 == 1
/-- Elements per codebook block: 0 means 128 (R91). -/
def Desc.block (d : Desc) : Nat := if d.blk = 0 then 128 else d.blk

/-- The sizes of the command's dimensions and the element count. -/
def Desc.sizes (d : Desc) : List Nat := d.size.take d.ndim
def Desc.total (d : Desc) : Nat := d.sizes.foldl (· * ·) 1
def Desc.size0 (d : Desc) : Nat := d.size.headD 0

/-- Bits of the offset field of an address (R42). -/
def offWidth (a : W64) : Nat :=
  match addrSpace a with
  | 0 | 8 => 60
  | 9 => 44
  | _ => 49
def offsetOf (a : W64) : Nat := a.toNat % 2 ^ offWidth a
/-- The address at a distance from a base, in the same space. -/
def addrPlus (a : W64) (d : Int) : W64 :=
  BitVec.ofNat 64 (a.toNat / 2 ^ offWidth a * 2 ^ offWidth a + wrapN (offWidth a) (offsetOf a + d))

/-! ## The checks of R69 and the mode rules -/

def four (e : ElemType) : Bool := ElemType.bits e == 4
/-- Element size in whole bytes. -/
def esize (e : ElemType) : Nat := max 1 (ElemType.bits e / 8)

/-- Fields that must be zero for the mode, and reserved fields, bits 59:56 of STAT among them (R68); a descriptor register's STAT is
ignored, so a CPY gives zero there. -/
def Desc.reservedOk (d : Desc) : Bool :=
  bits d.stat 59 56 == 0 && bits d.ctrl 31 26 == 0 && bits d.flags 31 4 == 0 && d.reserved.all (· == 0) &&
  (d.mode == 2 || (d.res == 0 && d.retCode == 0)) &&
  (d.mode == 3 || (d.tbl == 0 && d.tblrdy == 0 && d.blk == 0)) &&
  (d.mode == 4 || d.tileb == 0) && (d.cks != 0 || d.ckv == 0)

/-- A side with a 4-bit type (R70). -/
def Desc.packOk (d : Desc) (e : ElemType) (str : List Int) : Bool := !four e || (str.headD 0 == 0 && d.size0 % 2 == 0)

/-- The checksum rules of R101 and R102. -/
def Desc.cksOk (d : Desc) : Bool :=
  match d.cks with
  | 1 => bits d.ckv.toNat 63 32 == 0
  | 2 =>
    let run := d.size0 * ElemType.bits d.det
    offsetOf d.dst % 4 == 0 && (d.total == 0 || run % 32 == 0 && (four d.det || d.size0 == 1 || d.dstr.headD 0 == (esize d.det : Int)) &&
      ((d.sizes.zip d.dstr).drop 1).all fun (n, x) => n ≤ 1 || x % 4 == 0)
  | _ => true

/-- The rules of a mode (R91, R105). -/
def Desc.modeOk (d : Desc) : Bool :=
  let set := d.set
  let det := d.det
  let noTags := !d.tagcopy
  match d.mode with
  | 0 | 1 => noTags || (set == .fp32 && det == .fp32)
  | 2 =>
    noTags && [ElemType.fp32, .bf16, .fp16].elem set && [ElemType.bf16, .fp16, .e4m3, .e5m2, .m8, .fp4].elem det &&
    ElemType.isFloat d.ret && d.retCode < 13 && d.retCode != 12 && ElemType.bits d.ret == ElemType.bits det &&
    offsetOf d.res % esize det == 0
  | 3 =>
    noTags && set == .cb3 && (det == .bf16 || det == .fp32) && d.rmCode == 0 && d.sstr.all (· == 0) &&
    d.tbl.toNat % 16 == 0 && d.tblrdy.toNat % 4 == 0 && offsetOf d.src % 4 == 0
  | _ =>
    let n := d.sstr.headD 0
    noTags && set == .uint8 && det == .uint8 && d.rmCode == 0 && decide (1 ≤ n) && (d.sstr.drop 1).all (· == 0) &&
    [32, 64, 128, 256, 512, 1024, 2048, 4096].elem d.tileb && d.total % d.tileb == 0

/-- Every check of R69 but the overlap: they all raise DESCRIPTOR. -/
def Desc.ok (d : Desc) : Bool :=
  d.reservedOk && decide (1 ≤ d.ndim) && decide (d.ndim ≤ 12) &&
  (d.size.drop d.ndim).all (· == 0) && (d.sstr.drop d.ndim).all (· == 0) && (d.dstr.drop d.ndim).all (· == 0) &&
  decide (d.mode ≤ 4) && decide (d.rmCode ≤ 5) && decide (d.cks ≤ 2) &&
  decide (d.setCode ≤ 12) && decide (d.detCode ≤ 12) && d.det != .cb3 && (d.set != .cb3 || d.mode == 3) &&
  (d.mode != 0 || d.setCode == d.detCode) && bits d.flags 2 1 != 3 && decide (d.total ≤ 2 ^ 36) &&
  (d.mode == 3 || d.mode == 4 || d.packOk d.set d.sstr) && d.packOk d.det d.dstr && d.modeOk && d.cksOk

/-! ## Traversal (R70) -/

/-- The indices of element p, innermost first. -/
def digits : List Nat → Nat → List Nat
  | [], _ => []
  | n :: ns, p => p % n :: digits ns (p / n)

/-- Bytes from the base to element p of a side; a 4-bit side packs dimension 0 two to a byte. -/
def elemOff (sizes : List Nat) (str : List Int) (isFour : Bool) (p : Nat) : Int :=
  let ds := digits sizes p
  let sum := (ds.zip str).foldl (fun v (i, x) => v + i * x) (0 : Int)
  if isFour then sum + ds.headD 0 / 2 else sum

/-- Lowest and highest byte of a side, from its base: the highest is exclusive. -/
def spanOf (sizes : List Nat) (str : List Int) (e : ElemType) : Int × Int :=
  let (lo, hi) := (sizes.zip str).foldl (fun (lo, hi) (n, x) =>
    let v : Int := (n - 1 : Nat) * x
    (lo + min 0 v, hi + max 0 v)) ((0 : Int), (0 : Int))
  (lo, hi + if four e then ((sizes.headD 0 / 2 : Nat) : Int) else (esize e : Int))

/-- A side of a command: base, span from it, the permission it needs, the bytes of its first element. -/
structure Side where
  base : W64
  lo : Int
  hi : Int
  perm : Perm
  first : Nat
  align : Option (ElemType × List Int) := none

/-- The sides in the order SRC, DST, RES, TBL, TBLRDY, then the tag spans (R71, R91, R105). -/
def Desc.sides (d : Desc) (tagbase : BitVec 49) : List Side :=
  let n := d.total
  let src : Side := match d.mode with
    | 3 => { base := d.src, lo := 0, hi := 4 * ((3 * n + 31) / 32 : Nat), perm := .r, first := 4 }
    | 4 => { base := d.src, lo := 0, hi := d.sstr.headD 0, perm := .r, first := 1 }
    | _ =>
      let (lo, hi) := spanOf d.sizes d.sstr d.set
      { base := d.src, lo := lo, hi := hi, perm := .r, first := esize d.set, align := some (d.set, d.sstr.take d.ndim) }
  let (lo, hi) := spanOf d.sizes d.dstr d.det
  let dst : Side := { base := d.dst, lo := lo, hi := hi, perm := .w, first := esize d.det, align := some (d.det, d.dstr.take d.ndim) }
  let tags : List Side :=
    if d.tagcopy then
      let tag (x : Side) : Side := match tagAddr tagbase x.base with
        | some a => { base := a, lo := x.lo / 4, hi := (x.hi + 3) / 4, perm := x.perm, first := 1 }
        | none => { base := x.base, lo := 0, hi := 2 ^ 63, perm := x.perm, first := 1 }
      [tag src, tag dst]
    else []
  [src, dst] ++ (if d.mode = 2 then [{ dst with base := d.res }] else []) ++
  (if d.mode = 3 then
    [{ base := d.tbl, lo := 0, hi := 16 * ((n + d.block - 1) / d.block : Nat), perm := .r, first := 16 },
     { base := d.tblrdy, lo := 0, hi := 4, perm := .r, first := 4 }] else []) ++ tags

/-- A span must lie in its space and inside the fence (R44, R45). -/
def State.sideSpace (s : State) (w : Who) (x : Side) : Option Cause :=
  if (offsetOf x.base : Int) + x.lo < 0 ∨ (offsetOf x.base : Int) + x.hi > 2 ^ offWidth x.base then some .space
  else match s.resolve w (addrPlus x.base x.lo) (x.hi - x.lo).toNat with
    | .error c => some c
    | .ok _ => none

def Side.misaligned (x : Side) : Bool :=
  match x.align with
  | none => false
  | some (e, str) => offsetOf x.base % esize e != 0 || str.any fun v => v % (esize e : Int) != 0

/-- Do two spans share a byte under one space and coordinates? -/
def Side.overlaps (w : Who) (x y : Side) : Bool :=
  let a := nameOf w x.base
  let b := nameOf w y.base
  let ax : Int := offsetOf a
  let bx : Int := offsetOf b
  decide (a.toNat / 2 ^ offWidth a = b.toNat / 2 ^ offWidth b ∧ offWidth a = offWidth b) &&
  decide (ax + x.lo < bx + y.hi) && decide (bx + y.lo < ax + x.hi)

/-- The class of a place: 0 SRAM, 1 HBM, 2 PEER, 3 HOST (R76). -/
def classOf : Place → Nat
  | .hbm _ => 1
  | .peer .. => 2
  | .host _ => 3
  | _ => 0
def CopyEng.allow (e : CopyEng) (c : Nat) : Nat :=
  match c with
  | 0 => bits e.allow0.toNat 31 0
  | 1 => bits e.allow0.toNat 63 32
  | 2 => bits e.allow1.toNat 31 0
  | _ => bits e.allow1.toNat 63 32

/-- The parts of the first elements, or the first that fails to translate. -/
def State.firstPlaces (s : State) (w : Who) : List Side → Eff (List Part × State)
  | [] => .ok ([], s)
  | x :: xs => match s.locate w x.base x.first x.perm with
    | .error e => .error e
    | .ok (ps, s) => match s.firstPlaces w xs with
      | .error e => .error e
      | .ok (qs, s) => .ok (ps ++ qs, s)

/-- The checks of R71 in its order: SPACE rows, ALIGN rows, overlap, translation. The parts of the first elements. -/
def State.checkCopy (s : State) (w : Who) (d : Desc) (tagbase : BitVec 49) : Eff (List Part × State) :=
  let sides := d.sides tagbase
  if !d.ok then .error (.trap .descriptor 0 s)
  else if d.total = 0 then
    match sides.find? Side.misaligned with
    | some x => .error (.trap .align x.base s)
    | none => .ok ([], s)
  else match sides.findSome? fun x => (s.sideSpace w x).map fun c => (c, x.base) with
    | some (c, a) => .error (.trap c a s)
    | none => match sides.find? Side.misaligned with
      | some x => .error (.trap .align x.base s)
      | none =>
        let src := sides.getD 0 { base := 0, lo := 0, hi := 0, perm := .r, first := 0 }
        let dst := sides.getD 1 src
        let res := sides.getD 2 src
        if src.overlaps w dst || (d.mode == 2 && (src.overlaps w res || dst.overlaps w res)) then .error (.trap .descriptor 0 s)
        else s.firstPlaces w sides

/-! ## Acceptance (R76 to R84, R192) -/

/-- Bytes a command's promise counts (R76). -/
def Desc.bytes (d : Desc) : Nat :=
  let n := d.total
  let dst := n * ElemType.bits d.det / 8
  if d.mode = 3 ∨ d.mode = 4 then dst else max (n * ElemType.bits d.set / 8) dst

/-- A copy engine resolves as its command's issuer does (R43, R44), through its own translation caches. -/
def State.copyWho (s : State) (cl q : Nat) (issuer : UnitId) : Who := { s.who issuer with u := .copy cl q }

/-- STEP (R81): SRC and DST of a descriptor's bytes. -/
def stepDesc (bs : List Byte) : List Byte :=
  let d := Desc.ofBytes bs
  w64Bytes (d.src + d.step) ++ w64Bytes (d.dst + d.step) ++ bs.drop 16

/-- What a unit has not yet performed; `typed`: its row jobs too. -/
def State.earlier (s : State) (u : UnitId) (typed : Bool) : Earlier :=
  { stores := (s.storesOut.filter fun f => f.who == u).map fun f => { f with id := 0 }
    puts := match u with
      | .ctx k c => s.cores.flatMap fun (_, x) => ((x.vn0 ++ x.puts).filter fun m =>
          m.put.isSome && m.srcDev == Config.deviceNumber && m.srcCore == k && m.srcCtx == c).map (·.id)
      | _ => []
    fills := s.fillsOf u
    rows := if typed then (s.rowsOut.filter fun j => j.of u).map (·.id) else [] }
/-- Is one of those accesses still to be performed? -/
def State.stillOut (s : State) (u : UnitId) (e : Earlier) : Bool :=
  (s.storesOut.any fun f => e.stores.elem { f with id := 0 }) ||
  (s.cores.any fun (_, x) => (x.vn0 ++ x.puts).any fun m => m.put.isSome && e.puts.elem m.id) ||
  ((s.fillsOf u).any fun i => e.fills.elem i) || (!e.rows.isEmpty && s.rowsOut.any fun j => e.rows.elem j.id)
/-- Those of them that are in flight are performed. -/
def State.settleEarlier (s : State) (e : Earlier) : State := s.performFlights fun f => e.stores.elem { f with id := 0 }

/-- The engine accepts a checked command: its promise, its place in the queue, and what its acquire, its release or its pages'
type orders before it (R79, R324, R326). The classes of every side count for Allow, those of RES, TBL, TBLRDY and the tag spans
among them (DESIGN CHOICE, log 98). Max is of plain 56-bit numbers (DESIGN CHOICE, log 132). -/
def State.enqueueCopy (s : State) (cl q : Nat) (c : CopyCmd) (sides : List Part) : State × CopyCmd :=
  let e := (s.cluster cl).ce
  let d := Desc.ofBytes c.desc
  let n := if d.total = 0 then 0 else d.bytes
  let allow := if d.total = 0 then 0 else sides.foldl (fun a p => max a (e.allow (classOf p.place))) 0
  let r := e.rateOf q
  let base := max (s.time % 2 ^ 56) (Tab.get 0 e.last q).toNat
  let p : BitVec 56 := BitVec.ofNat 56 (base + (n + r - 1) / r + allow)
  let mtype := sides.foldl (fun m p => max m p.mtype) 0
  let c := { c with
    id := s.nextId, q := q, promise := p, allow := allow, left := n, mtype := mtype
    before := if c.acq || c.rel || mtype ≥ 2 then s.earlier c.issuer (decide (mtype ≥ 2)) else {} }
  ((s.onCe cl fun e => { e with q := Tab.set e.q q (Tab.get [] e.q q ++ [c]), last := Tab.set e.last q p }).stamp, c)

end Sys2Proof.Machine
end

