-- ==== Sys2Proof/Machine/MatrixArray.lean ====
section
/-! DEFINITION. What the array computes: operand segments and scales (R264 to R267), the dot group (R268, R269, R131), its
accumulation and zero skipping (R270 to R273), the checksum column (R274), and the rows of a drain (R275). -/

namespace Sys2Proof.Machine

/-! ## Segments -/

/-- Sixteen bytes of an operand row with the metadata of the block that holds them (R218, R266). -/
structure Seg where
  codes : List Nat
  z : Bool
  nf : Bool
  dom : Nat
  poison : Bool

def placeOff : Place → Nat
  | .tile _ o | .scratch _ o | .cmem _ o | .hbm o | .reg _ _ o | .peer _ o | .host o => o

def State.segment (s : State) (base : Place) (t : TReg) (e : ElemType) (i g : Nat) : Seg :=
  let p := base.add (t.segOff i g)
  let a := (s.key p).getD 0
  let (z, nf, dom) := match p with
    | .scratch cl o => s.blockMeta cl (o / 256)
    | _ => (false, true, 3)
  { codes := unpackCodes e (s.readKey a 16), z := z, nf := nf, dom := dom, poison := s.poisoned a 16 }

/-- The DOMAIN rule on a fetched block (R287): `role` 1 for A, 2 for B. -/
def domainOk (domain role dom : Nat) : Bool := if domain = 0 then dom == 0 || dom == 3 else dom == role

/-- The scale of an operand row in a group, and whether it is poisoned (R118, R267). -/
def State.scaleOf (s : State) (base : Place) (t : TReg) (mode : Nat) (elems i g : Nat) : Num × Bool :=
  if mode = 0 then (.fin false 1 1 0, false)
  else
    let (o, n) := if mode = 1 then (i * t.rstride + g * elems / 32, 1) else (4 * i, 4)
    let a := (s.key (base.add o)).getD 0
    let v := leNat (s.readKey a n)
    let x : Num := if mode = 1 then (if v = 255 then .nan else .fin false 1 1 ((v : Int) - 127)) else decodeNum .fp32 v
    (x, s.poisoned a n)

/-! ## The dot group -/

/-- A product with its tag and the flags that forming it raised. -/
structure Prod where
  val : Num
  tag : Nat
  flags : Flags

/-- An exact scaled product with its MulTag (R130, R267). -/
def scaledProduct (ea eb : ElemType) (a b : Nat) (sa sb : Num) (negate : Bool) : Prod :=
  let x := decodeNum ea a
  let y := decodeNum eb b
  let (p, f) := exactMul x y
  let (q, g) := exactMul p sa
  let (r, h) := exactMul q sb
  let pa := precision ea a
  let pb := precision eb b
  { val := if negate then r.negate else r, tag := exactMulTag .fp32 x pa pa y pb pb, flags := f ||| g ||| h }

/-- The products of a group for a real element, or for the real or imaginary PE of a complex one (R265). -/
def groupProducts (complex imag : Bool) (ea eb : ElemType) (a b : List Nat) (sa sb : Num) : List Prod :=
  if complex then
    (List.range (a.length / 2)).flatMap fun j =>
      let ar := a.getD (2 * j) 0
      let ai := a.getD (2 * j + 1) 0
      let br := b.getD (2 * j) 0
      let bi := b.getD (2 * j + 1) 0
      if imag then [scaledProduct ea eb ar bi sa sb false, scaledProduct ea eb ai br sa sb false]
      else [scaledProduct ea eb ar br sa sb false, scaledProduct ea eb ai bi sa sb true]
  else (a.zip b).map fun (x, y) => scaledProduct ea eb x y sa sb false

/-- The window of R268. -/
def windowOf (e : ElemType) : Int :=
  match e with
  | .fp32 => 50
  | .bf16 | .fp16 => 34
  | _ => 25

/-- The magnitude of a finite value in units of 2^u, toward zero. -/
def unitsOf (x : Num) (u : Int) : Int :=
  match x with
  | .fin neg n d e =>
    let m : Int := n * pow2 (e - u) / (d * pow2 (u - e))
    if neg then -m else m
  | _ => 0

/-- A group's sum, its tag, its flags, and the sum of its truncated magnitudes. -/
structure GSum where
  val : Num
  tag : Nat
  flags : Flags
  mag : Num

def maxInt : Int → List Int → Int
  | m, [] => m
  | m, x :: xs => maxInt (if m < x then x else m) xs

/-- R268, R269 and R131. -/
def groupSum (w : Int) (qs : List Prod) : GSum :=
  let fl := qs.foldl (fun f q => f ||| q.flags) (0 : Flags)
  let nan := qs.any fun q => q.val.isNan
  let pinf := qs.any fun q => q.val.isInf && !q.val.isNeg
  let ninf := qs.any fun q => q.val.isInf && q.val.isNeg
  if nan then ⟨.nan, 0, fl, .nan⟩
  else if pinf && ninf then ⟨.nan, 0, fl ||| fInvalid, .nan⟩
  else if pinf || ninf then ⟨.inf ninf, 0, fl, .inf false⟩
  else
    match qs.filter fun q => !q.val.isZero with
    | [] => ⟨.zero false, 24, fl, .zero false⟩
    | q :: rest =>
      let nz := q :: rest
      let e := maxInt q.val.exp (rest.map fun q => q.val.exp)
      let u := e - w + 2
      let ts := nz.map fun q => unitsOf q.val u
      let sum : Int := ts.foldl (· + ·) 0
      let mag : Num := .fin false (ts.foldl (fun m t => m + t.natAbs) 0) 1 u
      if sum = 0 then ⟨.zero false, 24, fl, mag⟩
      else
        let sg : Num := .fin (decide (sum < 0)) sum.natAbs 1 u
        let ref := maxInt (e - w + 1) (nz.map fun q => q.val.exp - q.tag)
        ⟨sg, min (sg.exp - ref).toNat 24, fl, mag⟩

/-- An INT8 group's exact sum. -/
def intGroup (a b : List Nat) : Int := (a.zip b).foldl (fun v (x, y) => v + sext 8 x * sext 8 y) 0

/-! ## Accumulation (R270) -/

/-- An accumulator element: +0 with tag 24 where nothing was written. -/
def AccBank.elem (b : AccBank) (key : Nat) : Lane := Tab.get { val := 0, tag := 24 } b.el key

/-- Add a group's sum to an element in one rounding. -/
def accumulate (rm : Rm) (sigen : Bool) (old : Lane) (g : GSum) (gen : W32) : Lane × Flags × W32 :=
  let x := decodeNum .fp32 old.val.toNat
  let (v, f) := exactAdd rm x g.val
  let (c, h, gen') := roundSr .fp32 rm gen v
  let t := if sigen then addTag .fp32 x (min old.tag.toNat 24) 24 g.val g.tag 24 (decodeNum .fp32 c) else 24
  ({ val := BitVec.ofNat 32 c, tag := BitVec.ofNat 5 t }, f ||| h ||| g.flags, gen')

/-! ## Engines and elements (R262, R276) -/

/-- The chain that computes a tile row of a mode, under the engines usable. -/
def rowChain (ok : BitVec 4) (i : Nat) : Nat :=
  if ok.getLsbD 0 && ok.getLsbD 2 then i / 16 else if ok.getLsbD 2 then 1 else 0
def engineOf (chain c : Nat) : Nat := 2 * chain + if c ≥ 32 then 1 else 0
/-- The key of an element: KSPLIT part 1 stands in rows 16 up. -/
def elemKey (part i c : Nat) : Nat := 64 * (i + 16 * part) + c

/-- What a running command has done so far. -/
structure ARun where
  bank : AccBank
  gens : Tab W32
  flags : Flags := 0
  wrote : Tab Tag := []
  fault : Option Cause := none

def ARun.put (r : ARun) (key : Nat) (x : Lane) : ARun :=
  { r with bank := { r.bank with el := Tab.set r.bank.el key x, bad := r.bank.bad.filter (· != key) }, wrote := Tab.set r.wrote key x.tag }

/-! ## Multiplication -/

/-- What a multiplication reads and how: operands with their places, types, scales. -/
structure MCtx where
  s : State
  cl : Nat
  c : MCmd
  w : MWord
  g : Geo
  ea : ElemType
  eb : ElemType
  pa : Place
  psa : Place
  pb : Place
  psb : Place

def MCtx.t (x : MCtx) (i : Nat) : TReg := x.c.regs.getD i {}
def MCtx.integer (x : MCtx) : Bool := fmtAcc x.c.fmt == 1
def MCtx.complex (x : MCtx) : Bool := fmtAcc x.c.fmt == 2
def MCtx.ok (x : MCtx) : BitVec 4 := (x.s.dense x.cl).mengok
def MCtx.elems (_x : MCtx) (e : ElemType) : Nat := 128 / ElemType.bits e
def MCtx.segA (x : MCtx) (i g : Nat) : Seg := x.s.segment x.pa (x.t 0) x.ea i g
def MCtx.segB (x : MCtx) (j g : Nat) : Seg := x.s.segment x.pb (x.t 2) x.eb j g
def MCtx.scaleA (x : MCtx) (i g : Nat) : Num × Bool := x.s.scaleOf x.psa (x.t 1) (fmtScale x.c.fmt) (x.elems x.ea) i g
def MCtx.scaleB (x : MCtx) (j g : Nat) : Num × Bool := x.s.scaleOf x.psb (x.t 3) (fmtScale x.c.fmt) (x.elems x.eb) j g

/-- A chain's share of a step: its KSPLIT part, its group, its rows, and the chain. -/
structure Work where
  part : Nat
  g : Nat
  rows : List Nat
  chain : Nat

/-- The works of step t (R262, R271). -/
def MCtx.works (x : MCtx) (t : Nat) : List Work :=
  let gs := x.g.k / 16
  if x.g.mode = 1 then
    [0, 1].filterMap fun p => if 2 * t + p < gs then some { part := p, g := 2 * t + p, rows := List.range x.g.m, chain := p } else none
  else
    [0, 1].filterMap fun h =>
      let rows := (List.range x.g.m).filter fun i => i / 16 == h
      if rows.isEmpty then none else some { part := 0, g := t, rows := rows, chain := rowChain x.ok (16 * h) }
def MCtx.steps (x : MCtx) : Nat := let gs := x.g.k / 16; if x.g.mode = 1 then (gs + 1) / 2 else gs

/-- The fault of a step: DOMAIN or POISON in what it fetches (R287). -/
def MCtx.stepFault (x : MCtx) (ws : List Work) : Option Cause :=
  let dom := fmtDomain x.c.fmt
  ws.findSome? fun w =>
    let as := w.rows.map fun i => (x.segA i w.g, (x.scaleA i w.g).2)
    let bs := (List.range x.g.n).map fun j => (x.segB j w.g, (x.scaleB j w.g).2)
    if as.any (fun a => !domainOk dom 1 a.1.dom) || bs.any (fun b => !domainOk dom 2 b.1.dom) then some .domain
    else if as.any (fun a => a.1.poison || a.2) || bs.any (fun b => b.1.poison || b.2) then some .poison
    else none

/-- Does a chain skip its group (R272)? -/
def MCtx.skips (x : MCtx) (w : Work) : Bool :=
  x.w.skip && (x.t 0).grouped && (x.t 2).grouped &&
    (match w.rows with | i :: _ => (x.segA i w.g).z | [] => false) &&
    !(List.range x.g.n).any fun j => (x.segB j w.g).nf

/-- One element's group. -/
def MCtx.elemGroup (x : MCtx) (a b : Seg) (sa sb : Num) (c : Nat) : GSum :=
  groupSum (windowOf x.ea) (groupProducts x.complex (c % 2 == 1) x.ea x.eb a.codes b.codes sa sb)

/-- The check column of one engine's row in one group (R274). -/
def MCtx.checkRow (x : MCtx) (r : ARun) (e i : Nat) (a : Seg) (sa : Num) (cols : List (Nat × Seg × Num)) : ARun :=
  let key := 16 * e + i % 16
  let old := Tab.get 0 r.bank.chk key
  if x.integer then
    let v := cols.foldl (fun v (_, b, _) => v + intGroup a.codes b.codes) 0
    { r with bank := { r.bank with chk := Tab.set r.bank.chk key (old + BitVec.ofInt 32 v) } }
  else
    let dot := (List.range a.codes.length).foldl (fun acc n =>
      let bsum := cols.foldl (fun v (_, b, sb) => (exactAdd .rne v (exactMul (decodeNum x.eb (b.codes.getD n 0)) sb).1).1) (Num.zero false)
      (exactAdd .rne acc (exactMul (exactMul (decodeNum x.ea (a.codes.getD n 0)) sa).1 bsum).1).1) (Num.zero false)
    let chk := (roundTo .fp32 .rne 0 (exactAdd .rne (decodeNum .fp32 old.toNat) dot).1).1
    let mag := cols.foldl (fun v (c, b, sb) => (exactAdd .rne v (x.elemGroup a b sa sb c).mag).1) (Num.zero false)
    let u := (roundTo .fp32 .rup 0 (exactAdd .rne (decodeNum .fp32 (Tab.get 0 r.bank.bound key).toNat) mag).1).1
    { r with bank := { r.bank with
        chk := Tab.set r.bank.chk key (BitVec.ofNat 32 chk), bound := Tab.set r.bank.bound key (BitVec.ofNat 32 u) } }

/-- A chain's group: rows ascending, then columns ascending within each engine. -/
def MCtx.work (x : MCtx) (r : ARun) (w : Work) : ARun :=
  if x.skips w then r
  else
    let rm := fmtRm x.c.fmt
    let sigen := fmtSigen x.c.fmt && !x.integer
    let cols := (List.range x.g.cols).filter fun c => x.ok.getLsbD (engineOf w.chain c)
    let bs := (List.range x.g.n).map fun j => (x.segB j w.g, (x.scaleB j w.g).1)
    let bOf (c : Nat) : Seg × Num := bs.getD (if x.complex then c / 2 else c) (⟨[], true, false, 0, false⟩, .zero false)
    w.rows.foldl (fun r i =>
      let a := x.segA i w.g
      let sa := (x.scaleA i w.g).1
      let r := cols.foldl (fun r c =>
        let key := elemKey w.part i c
        let old := r.bank.elem key
        let (b, sb) := bOf c
        if x.integer then r.put key { val := old.val + BitVec.ofInt 32 (intGroup a.codes b.codes), tag := 31 }
        else
          let e := engineOf w.chain c
          let (lane, f, gen) := accumulate rm sigen old (x.elemGroup a b sa sb c) (Tab.get 1 r.gens e)
          { r.put key lane with flags := r.flags ||| f, gens := Tab.set r.gens e gen }) r
      if fmtChk x.c.fmt then
        [0, 1].foldl (fun r east =>
          let mine := cols.filter fun c => decide (c / 32 = east)
          if mine.isEmpty then r
          else x.checkRow r (2 * w.chain + east) i a sa (mine.map fun c => (c, (bOf c).1, (bOf c).2))) r
      else r) r

/-- Steps from t on: `n` remain; a fault stops the command before its step changes anything. -/
def MCtx.run (x : MCtx) : Nat → Nat → ARun → ARun
  | _, 0, r => r
  | t, n + 1, r =>
    let ws := x.works t
    match x.stepFault ws with
    | some q => { r with fault := some q }
    | none =>
      if ws.any fun w => w.rows.any fun i => (List.range x.g.cols).any fun c => r.bank.bad.elem (elemKey w.part i c) then
        { r with fault := some .poison }
      else x.run (t + 1) n (ws.foldl x.work r)

/-- MMA, MMAC and MMAK on a bank (R285). -/
def MCtx.multiply (x : MCtx) (bank : AccBank) (gens : Tab W32) : ARun :=
  if !x.g.live then { bank := bank, gens := gens }
  else
    let zero : Lane := { val := 0, tag := if x.integer then 31 else 24 }
    let bank := if x.w.set then { bank with kind := some (fmtAcc x.c.fmt, x.g.mode) } else bank
    let bank :=
      if x.w.set && fmtChk x.c.fmt then { bank with chkValid := true, chk := [], bound := [] }
      else if !x.w.set && !fmtChk x.c.fmt then { bank with chkValid := false }
      else bank
    let r : ARun := { bank := bank, gens := gens }
    let parts := if x.g.mode = 1 then [0, 1] else [0]
    let r := if x.w.set then
        parts.foldl (fun r p => (List.range x.g.m).foldl (fun r i => (List.range x.g.cols).foldl (fun r c =>
          let chain := if x.g.mode = 1 then p else rowChain x.ok i
          if x.ok.getLsbD (engineOf chain c) then r.put (elemKey p i c) zero else r) r) r) r
      else r
    x.run 0 x.steps r

/-! ## Loads and drains -/

/-- MLDACC (R290): the bank loaded, or POISON. -/
def loadAcc (s : State) (cl : Nat) (c : MCmd) (base : Place) (bank : AccBank) : Except Cause AccBank :=
  let g := c.geo
  let t := c.regs.getD 0 {}
  let acc := fmtAcc c.fmt
  let ok := (s.dense cl).mengok
  (List.range g.m).foldl (fun r i =>
    match r with
    | .error q => .error q
    | .ok bank =>
      let a := (s.key (base.add (i * t.rstride))).getD 0
      let tagKey := if fmtDtag c.fmt then
          (tagAddr c.tagbase (t.base + BitVec.ofNat 64 (i * t.rstride))).bind fun ta =>
            match s.operandPlace cl { t with base := ta } g.cols with
            | .ok p => s.key p
            | .error _ => none
        else none
      if s.poisoned a (4 * g.cols) || (match tagKey with | some k => s.poisoned k g.cols | none => false) then .error .poison
      else
        let bs := s.readKey a (4 * g.cols)
        .ok ((List.range g.cols).foldl (fun (b : AccBank) col =>
          let put (b : AccBank) (chain part : Nat) (x : Lane) : AccBank :=
            if ok.getLsbD (engineOf chain col) then
              { b with bad := b.bad.filter (· != elemKey part i col), el := Tab.set b.el (elemKey part i col) x }
            else b
          let x : Lane :=
            let tag : Tag := if acc = 1 then 31 else match tagKey with
              | some k => tagOfByte ((s.readKey (k + col) 1).headD 0)
              | none => 24
            { val := BitVec.ofNat 32 (leNat ((bs.drop (4 * col)).take 4)), tag := tag }
          if g.mode = 1 then put (put b 0 0 x) 1 1 { val := 0, tag := 24 } else put b (rowChain ok i) 0 x) bank))
    (.ok (if g.live then { bank with kind := some (acc, g.mode), chkValid := false } else bank))

/-- One row of a drain: its lanes, flags, whether a checked KSPLIT sum is low, the generators (R271, R273, R275). -/
structure RowOut where
  lanes : List Lane
  flags : Flags := 0
  low : Bool := false
  gens : Tab W32

def drainLane (c : MCmd) (g : Geo) (ok : BitVec 4) (bank : AccBank) (free : Nat → Lane) (i : Nat) (r : RowOut) (col : Nat) : RowOut :=
  let lane (x : Lane) : RowOut := { r with lanes := r.lanes ++ [x] }
  if col ≥ g.cols then lane { val := 0, tag := 24 }
  else if g.mode = 1 && !(ok.getLsbD (engineOf 0 col) && ok.getLsbD (engineOf 1 col)) then lane (free col)
  else if g.mode = 1 then
    let a := bank.elem (elemKey 0 i col)
    let b := bank.elem (elemKey 1 i col)
    if fmtAcc c.fmt = 1 then lane { val := a.val + b.val, tag := 31 }
    else
      let e := if col < 32 then 0 else 2
      let x := decodeNum .fp32 a.val.toNat
      let y := decodeNum .fp32 b.val.toNat
      let rm := fmtRm c.fmt
      let (v, f) := exactAdd rm x y
      let (code, h, gen) := roundSr .fp32 rm (Tab.get 1 r.gens e) v
      let t := addTag .fp32 x (min a.tag.toNat 24) 24 y (min b.tag.toNat 24) 24 (decodeNum .fp32 code)
      let low := fmtSigen c.fmt && (match c.thr with | some h => decide (t < h.toNat) | none => false)
      { lanes := r.lanes ++ [{ val := BitVec.ofNat 32 code, tag := BitVec.ofNat 5 t }]
        flags := r.flags ||| f ||| h, low := r.low || low, gens := Tab.set r.gens e gen }
  else if !ok.getLsbD (engineOf (rowChain ok i) col) then lane (free col)
  else
    let x := bank.elem (elemKey 0 i col)
    lane (if fmtAcc c.fmt = 1 then { x with tag := 31 } else x)

/-- Does an engine's row miss its check (R274)? -/
def rowMiss (integer : Bool) (bank : AccBank) (e i part : Nat) (cols : List Nat) : Bool :=
  let chk := Tab.get 0 bank.chk (16 * e + i % 16)
  let xs := cols.map fun c => (bank.elem (elemKey part i c)).val
  if integer then decide (chk ≠ xs.foldl (· + ·) 0)
  else
    let vs := xs.map fun x => decodeNum .fp32 x.toNat
    let k := decodeNum .fp32 chk.toNat
    if !k.isFinite || vs.any (fun v => !v.isFinite) then false
    else
      let sum := vs.foldl (fun a v => (exactAdd .rne a v).1) (Num.zero false)
      let diff := (exactAdd .rne k sum.negate).1.abs
      let bound := (exactAdd .rne (decodeNum .fp32 (Tab.get 0 bank.bound (16 * e + i % 16)).toNat) k.abs).1.scale (-8)
      bound.lt diff

/-- Does any row of a drain miss? An engine's sum S(i) takes all 32 of its columns, granted and drained or not (R274; DEDUCED, log
118). -/
def drainMiss (c : MCmd) (ok : BitVec 4) (bank : AccBank) : Bool :=
  let g := c.geo
  fmtChk c.fmt && bank.chkValid &&
    (List.range g.m).any fun i => (if g.mode = 1 then [0, 1] else [0]).any fun p => [0, 1].any fun east =>
      let chain := if g.mode = 1 then p else rowChain ok i
      let cols := (List.range 64).filter fun col => decide (col / 32 = east)
      ok.getLsbD (2 * chain + east) && rowMiss (fmtAcc c.fmt == 1) bank (2 * chain + east) i p cols

end Sys2Proof.Machine
end

