-- ==== Sys2Proof/Machine/MatrixWords.lean ====
section
/-! DEFINITION. The M words of the compute stream (R279, R285), and the matrix array's own events: a command's start and
completion, an epilogue's start, the release of a drained row (R275, R281, R284, R287, R289). -/

namespace Sys2Proof.Machine

/-- A word that only the compute stream has: in an epilogue it is ILLEGAL, late (R31). -/
def computeOnly (s : State) (f : Nat → Eff State) : Host.Outcome State Fault Refusal :=
  match s.cur with
  | .compute cl => .next (s.settle s.cur (f cl))
  | u => .next (s.raise u .illegal 0)

/-- A tile command: a full queue stalls it, and a command accepted in the same clk (R281); the stream's stores come before its reads
(R327). In a handler it is ILLEGAL (R363). -/
def tileWord (s : State) (w : BitVec 3) (i : Instr) : Host.Outcome State Fault Refusal :=
  computeOnly s fun cl =>
    let u : UnitId := .compute cl
    match mword i with
    | none => .error (.trap .illegal 0 s)
    | some mw =>
      if (s.dense cl).frozen.isSome then .error (.trap .illegal 0 s)
      else if !s.arbiterFree cl then .error (.wait .retry)
      else match (s.drain u).captureCmd cl i mw (s.pc u) false with
        | .error q => .error q
        | .ok (c, s) => .ok ((s.acceptCmd cl c).retire u w.toNat)

/-- MNOP: its issue slot and sequence number. -/
def execMnop (w : BitVec 3) (s : State) : Host.Outcome State Fault Refusal :=
  computeOnly s fun cl =>
    if (s.dense cl).frozen.isSome then .error (.trap .illegal 0 s) else .ok (s.retire (.compute cl) w.toNat)
def execMma (w : BitVec 3) (a b : BitVec 4) (n sf k v : Bool) (s : State) : Host.Outcome State Fault Refusal :=
  tileWord s w (.mma w a b n sf k v)
def execMmac (w : BitVec 3) (a b : BitVec 4) (n sf k v : Bool) (s : State) : Host.Outcome State Fault Refusal :=
  tileWord s w (.mmac w a b n sf k v)
def execMmak (w : BitVec 3) (a b : BitVec 4) (n sf v : Bool) (s : State) : Host.Outcome State Fault Refusal :=
  tileWord s w (.mmak w a b n sf v)
def execMzero (w : BitVec 3) (n : Bool) (s : State) : Host.Outcome State Fault Refusal :=
  tileWord s w (.mzero w n)
def execMdrain (w : BitVec 3) (c : BitVec 4) (n v : Bool) (s : State) : Host.Outcome State Fault Refusal :=
  tileWord s w (.mdrain w c n v)
def execMldacc (w : BitVec 3) (a : BitVec 4) (n v : Bool) (s : State) : Host.Outcome State Fault Refusal :=
  tileWord s w (.mldacc w a n v)

/-- Commands accepted and not complete. -/
def Dense.cmdIds (d : Dense) : List Nat := (d.mq ++ d.running).map (·.id)

/-- MSYNC: the stream waits for the commands accepted before it. -/
def State.msync (s : State) (cl idle : Nat) : Eff State :=
  let u : UnitId := .compute cl
  let d := s.dense cl
  let ids := match s.wait u with
    | .msync ids => ids.filter fun i => d.cmdIds.elem i
    | _ => d.cmdIds
  if d.frozen.isSome then .error (.trap .illegal 0 s)
  else if ids.isEmpty then .ok (s.retire u idle)
  else .error (.wait (.msync ids))
def execMsync (w : BitVec 3) (s : State) : Host.Outcome State Fault Refusal :=
  computeOnly s fun cl => s.msync cl w.toNat

/-! ## The array's events -/

def Dense.bank (d : Dense) (b : Bool) : AccBank := if b then d.bank1 else d.bank0
def Dense.setBank (d : Dense) (b : Bool) (x : AccBank) : Dense := if b then { d with bank1 := x } else { d with bank0 := x }

/-- The late fault of a command. -/
def MCmd.lateFault (c : MCmd) (q : Cause) (a : W64) (resume : W32) : LateFault :=
  { cause := q, addr := a, seq := c.seq, src := if c.follow then 8 else 3, pc := c.pc, resume := resume }
def State.failCmd (s : State) (cl : Nat) (c : MCmd) (q : Cause) (a : W64) : State :=
  s.raiseLate cl (c.lateFault q a (s.dense cl).cp.pc)

/-- The bank state check of an accumulate form or a drain (R284). -/
def bankOk (b : AccBank) (acc mode : Nat) : Bool :=
  match b.kind with
  | none => true
  | some k => k == (acc, mode)

/-- Free lanes, with free tags, for the elements of an engine that takes no part (R276; log 44). -/
def State.freeLanes (s : State) (n : Nat) : List Lane × State :=
  let (bs, s) := s.freeBytes (5 * n)
  ((List.range n).map fun i =>
    { val := BitVec.ofNat 32 (leNat ((bs.drop (5 * i)).take 4)), tag := (bs.getD (5 * i + 4) 0).setWidth 5 }, s)

/-- The operand context of a multiplication, or the cause that its places now have. -/
def State.mctx (s : State) (cl : Nat) (c : MCmd) (w : MWord) : Except Cause MCtx :=
  let t (i : Nat) : TReg := c.regs.getD i {}
  let place (i : Nat) : Except Cause Place := s.operandPlace cl (t i) 1
  let scale (i : Nat) : Except Cause Place := if fmtScale c.fmt = 0 then .ok (.scratch cl 0) else place i
  match place 0, scale 1, place 2, scale 3 with
  | .ok pa, .ok psa, .ok pb, .ok psb =>
    .ok { s := s, cl := cl, c := c, w := w, g := c.geo, ea := etOf (fmtA c.fmt), eb := etOf (fmtB c.fmt)
          pa := pa, psa := psa, pb := pb, psb := psb }
  | .error q, _, _, _ | _, .error q, _, _ | _, _, .error q, _ | _, _, _, .error q => .error q

/-- The rows of a drain enter the buffer, in ascending order. -/
def State.drainRows (s : State) (cl : Nat) (c : MCmd) (bank : AccBank) : State :=
  let g := c.geo
  let t := c.regs.getD 0 {}
  let d := s.dense cl
  let acc := fmtAcc c.fmt
  let (s, low, fl) := (List.range g.m).foldl (fun ((s, low, fl) : State × Bool × Flags) i =>
    let (free, s) := s.freeLanes (if d.mengok = 0xF then 0 else 64)
    let r := (List.range 64).foldl (drainLane c g d.mengok bank (fun n => free.getD n {}) i)
      { lanes := [], gens := (s.dense cl).mxsr }
    let row : DrainRow :=
      { id := s.nextId, cmd := c.id, lanes := r.lanes, row := i, out := t.base + BitVec.ofNat 64 (i * t.rstride)
        epi := fmtEpi c.fmt, state := if fmtEpi c.fmt = 0 then 2 else 0
        bytes := if fmtEpi c.fmt = 0 then r.lanes.flatMap fun x => leBytes 4 x.val.toNat else []
        tags := if fmtEpi c.fmt = 0 then r.lanes.map fun x => byteOfTag x.tag else []
        fmt := c.fmt, tagbase := c.tagbase, et := if acc = 1 then 7 else 0, last := decide (i + 1 = g.m) }
    ((s.onDense cl fun d => { d with drain := d.drain ++ [row], mxsr := r.gens }).stamp, low || r.low, fl ||| r.flags))
    (s, false, (0 : Flags))
  let c := { c with flags := c.flags ||| fl, low := c.low || low, miss := drainMiss c d.mengok bank }
  s.onDense cl fun d => { d with running := d.running ++ [c] }

/-- The next queued command starts and does its work, unless gating holds issue (R406); a fault drops it (R277, R284, R287), but a drain whose check misses is reported
once all its rows are in the buffer, and stays there (R274, R287). -/
def State.startCmd (s : State) (cl : Nat) : State :=
  let d := s.dense cl
  let stopped := match s.nodeOf (.matrix cl) with | some n => n.stopped | none => true
  match d.mq with
  | [] => s
  | c :: rest =>
    if d.mfault || stopped || s.gated then s
    else match mword c.word with
      | none => s
      | some w =>
        let g := c.geo
        let bank := d.bank w.bank
        let run (s : State) (c : MCmd) : State := s.onDense cl fun d => { d with running := d.running ++ [c] }
        let s1 := s.onDense cl fun d => { d with mq := rest }
        match w.op with
        | .mzero => run (s1.onDense cl fun d => d.setBank w.bank { chkValid := true }) c
        | op =>
          if !g.live then run s1 c
          else if ((op.multiplies && !w.set) || op = .mdrain) && !bankOk bank (fmtAcc c.fmt) g.mode then s1.failCmd cl c .illegal 0
          else match op with
            | .mdrain =>
              let hit := (List.range g.m).any fun i => (List.range g.cols).any fun j => [0, 1].any fun p => bank.bad.elem (elemKey p i j)
              if d.drain.length + g.m > 32 then s
              else if hit then s1.failCmd cl c .poison 0
              else
                let s2 := s1.drainRows cl c bank
                if (s2.dense cl).running.any fun x => x.id == c.id && x.miss then s2.failCmd cl c .matrixCheck 0 else s2
            | .mldacc =>
              match s.operandPlace cl (c.regs.getD 0 {}) 1 with
              | .error q => s1.failCmd cl c q (c.regs.getD 0 {}).base
              | .ok base => match loadAcc s cl c base bank with
                | .error q => s1.failCmd cl c q 0
                | .ok b => run (s1.onDense cl fun d => d.setBank w.bank b) c
            | _ => match s.mctx cl c w with
              | .error q => s1.failCmd cl c q 0
              | .ok x =>
                let r := x.multiply bank d.mxsr
                let s2 := s1.onDense cl fun d => { d.setBank w.bank r.bank with mxsr := r.gens }
                match r.fault with
                | some q => s2.failCmd cl c q 0
                | none =>
                  let low := fmtSigen c.fmt && !x.integer &&
                    (match c.thr with | some h => r.wrote.any fun (_, t) => decide (t.toNat < h.toNat) | none => false)
                  run s2 { c with flags := r.flags, low := low }

/-- Has a command rows still to be released, or writes of its rows still to be performed? -/
def State.drains (s : State) (cl : Nat) (c : MCmd) : Bool :=
  ((s.dense cl).drain.any fun r => r.cmd == c.id) || s.flights.any fun f => f.who == .matrix cl && f.elem == c.id

/-- The first running command that can complete does: flags, ring entry, then what it raises (R285, R273, R274). -/
def State.completeCmd (s : State) (cl : Nat) : State :=
  let d := s.dense cl
  match d.running.find? fun c => !s.drains cl c with
  | none => s
  | some c =>
    let u : UnitId := .compute cl
    let s := s.onDense cl fun d => { d with running := d.running.filter fun x => x.id != c.id }
    let s := s.collect u c.flags (s.num u).sr
    let s := s.ringDone cl c.seq
    if c.low then s.failCmd cl c .sigThreshold 0 else s

/-- The event names the cluster (a); the head of its matrix queue starts. -/
def execMatrixCommandStart (s : State) : Host.Outcome State Fault Refusal := .next (s.startCmd s.arg.a)
/-- The event names the cluster (a); its first running command that can complete does. -/
def execMatrixCommandComplete (s : State) : Host.Outcome State Fault Refusal := .next (s.completeCmd s.arg.a)

/-- EPILOGUE_START: e0 is the drained row, e1 to e3 zero with tag 24, k15 the row's index (R209, R258, R275). -/
def State.startEpilogue (s : State) (cl : Nat) : State :=
  let d := s.dense cl
  match d.drain.find? (fun r => r.state == 0), (List.range 4).find? (fun e => !(d.epiCtx e).live), s.nodeOf (.compute cl) with
  | some r, some e, some n =>
    if d.frozen.isSome || n.stopped then s
    else
      let zero : List Lane := List.replicate 64 { val := 0, tag := 24 }
      s.onDense cl fun d =>
        let x := d.epiCtx e
        { d.setEpi e { live := true, pc := BitVec.ofNat 32 (n.epis.getD r.epi 0), sr := x.sr
                       e := [(0, r.lanes), (1, zero), (2, zero), (3, zero)], k15 := BitVec.ofNat 64 r.row, row := r.id } with
          drain := d.drain.map fun y => if y.id = r.id then { y with state := 1 } else y }
  | _, _, _ => s
def execEpilogueStart (s : State) : Host.Outcome State Fault Refusal := .next (s.startEpilogue s.arg.a)

/-- The store of a drained row's bytes: a part of its command's work (R316). -/
def DrainRow.store (r : DrainRow) (cl : Nat) (a : W64) (p : Place) (bs : List Byte) (wr : Writer) : Flight :=
  { who := .matrix cl, name := a, place := p, bytes := bs, wr := wr, elem := r.cmd }

/-- DRAIN_ROW_RELEASE: the oldest row, once its epilogue has ended, writes its tag bytes and then its bytes, granule by granule (R275,
R289, R316). -/
def State.releaseRow (s : State) (cl : Nat) : State :=
  match (s.dense cl).drain with
  | [] => s
  | r :: rest =>
    if r.state ≠ 2 then s
    else
      let s := s.onDense cl fun d => { d with drain := rest }
      let attr : W64 := 1#64 <<< 62
      let fail (q : Cause) (a : W64) : State := match (s.dense cl).running.find? fun c => c.id == r.cmd with
        | some c => s.failCmd cl c q a
        | none => s
      if r.bytes.isEmpty then s
      else match s.operandPlace cl { base := r.out, attr := attr } r.bytes.length with
        | .error q => fail q r.out
        | .ok p =>
          let out (s : State) : State :=
            s.issueStore (r.store cl r.out p r.bytes (some (if fmtDomain r.fmt = 0 then 0 else 1, etOf r.et)))
          if !fmtDtag r.fmt then out s
          else match tagAddr r.tagbase r.out with
            | none => fail .space r.out
            | some a => match s.operandPlace cl { base := a, attr := attr } 64 with
              | .error q => fail q a
              | .ok tp => out (s.issueStore (r.store cl a tp r.tags none))
def execDrainRowRelease (s : State) : Host.Outcome State Fault Refusal := .next (s.releaseRow s.arg.a)

end Sys2Proof.Machine
end

