-- ==== Sys2Proof/Machine/CopyMove.lean ====
section
/-! DEFINITION. The data phase of copy commands: bursts (R64), PLAIN and CONVERT (R73, R74), EFB (R92), CODEBOOK (R94 to R96),
WSTREAM (R97 to R100), checksums (R101 to R103), tags (R105), suspension, failure and completion (R65, R82, R281). -/

namespace Sys2Proof.Machine

/-- A byte with its poison. -/
abbrev PByte := Byte × Bool

/-! ## Access -/

/-- The granule accesses of a part of a burst; those of a whole cluster memory block pass the Lantern by while it is not resident
(R109). -/
def Part.burstPieces (p : Part) : List Part :=
  p.pieces.map fun q => match p.place, q.place with
    | .cmem _ o, .cmem _ x => { q with direct := decide (o ≤ x / 256 * 256 ∧ x / 256 * 256 + 256 ≤ o + p.len) }
    | _, _ => q

/-- Read granules with their poison; a poisoned byte's value is free (DESIGN CHOICE, log 4). -/
def State.copyPieces (s : State) (w : Who) : List Part → Eff (List PByte × State)
  | [] => .ok ([], s)
  | p :: ps => match s.readPart w p with
    | .error e => .error e
    | .ok (bs, po, s) =>
      let (bs, s) := if po then s.freeBytes p.len else (bs, s)
      match s.copyPieces w ps with
      | .error e => .error e
      | .ok (cs, s) => .ok (bs.map (fun b => (b, po)) ++ cs, s)

/-- Read n bytes of a burst. -/
def State.copyRead (s : State) (w : Who) (a : W64) (n : Nat) (perm : Perm) : Eff (List PByte × State) :=
  match s.locate w a n perm with
  | .error e => .error e
  | .ok (ps, s) => s.copyPieces w (ps.flatMap Part.burstPieces)

/-- Frames of this device's HBM that parts touch. -/
def framesOf (ps : List Part) : List (Nat × Nat) :=
  ps.flatMap fun p => match p.place with
    | .hbm a => (List.range ((a % 2 ^ 30 + p.len - 1) / 65536 - a % 2 ^ 30 / 65536 + 1)).map fun i =>
        (a / 2 ^ 30, a % 2 ^ 30 / 65536 + i)
    | _ => []

/-- One write of a burst: an address and its bytes. -/
structure CWrite where
  addr : W64
  bytes : List PByte
  wr : Writer := none

/-- Locate every write of a burst before any is performed. A register that does not take its write refuses the burst (R416), and
the command is suspended with that cause (DESIGN CHOICE, log 99). -/
def State.admitWrites (s : State) (w : Who) : List CWrite → Eff (List (List Part × CWrite) × State)
  | [] => .ok ([], s)
  | x :: xs => match s.locate w x.addr x.bytes.length .w with
    | .error e => .error e
    | .ok (ps, s) =>
      let refused (p : Part) : Option Cause := match p.place with
        | .reg k cl o => match s.writeRegs w.u k cl o (List.replicate p.len 0) with
          | .ok _ => none
          | .error c => some c
        | _ => none
      match ps.findSome? refused with
      | some c => .error (.trap c x.addr s)
      | none => match s.admitWrites w xs with
        | .error e => .error e
        | .ok (ys, s) => .ok ((ps, x) :: ys, s)

/-- A part of an engine's write as a store: poisoned bytes poison their granules (R82). -/
def Part.flight (p : Part) (w : Who) (elem : Nat) (framerel : Bool) (bs : List PByte) (wr : Writer) : Flight :=
  { who := w.u, name := p.name, place := p.place, bytes := bs.map (·.1), wr := wr, mtype := p.mtype
    bad := ((List.range bs.length).zip bs).filterMap fun (i, b) => if b.2 then some i else none
    cmd := w.cmd, elem := elem, framerel := framerel }

/-- The writes of a burst are issued; `elem` is the element it starts at. -/
def State.writeAll (s : State) (w : Who) (elem : Nat) (framerel : Bool) (ys : List (List Part × CWrite)) : State :=
  ys.foldl (fun s (ps, x) =>
    (ps.foldl (fun (s, bs) p => (s.issueStore (p.flight w elem framerel (bs.take p.len) x.wr), bs.drop p.len)) (s, x.bytes)).1) s

/-! ## Elements -/

/-- One side's geometry. -/
structure Shape where
  base : W64
  sizes : List Nat
  str : List Int
  e : ElemType

def Shape.addr (x : Shape) (p : Nat) : W64 := addrPlus x.base (elemOff x.sizes x.str (four x.e) p)
/-- Do the elements of dimension 0 follow one another? -/
def Shape.contiguous (x : Shape) : Bool := four x.e || x.str.headD 0 == (esize x.e : Int)
/-- Bytes of n elements of a contiguous run. -/
def Shape.runBytes (x : Shape) (n : Nat) : Nat := if four x.e then (n + 1) / 2 else n * esize x.e

/-- Codes of n elements from p on, each with its poison, and the source bytes that a CRC covers (R101). -/
def State.readElems (s : State) (w : Who) (x : Shape) (perm : Perm) : Nat → Nat → Eff (List (Nat × Bool) × List PByte × State)
  | 0, _ => .ok ([], [], s)
  | n + 1, p =>
    let par := p % x.sizes.headD 1 % 2
    match s.copyRead w (x.addr p) (esize x.e) perm with
    | .error e => .error e
    | .ok (bs, s) =>
      let raw := leNat (bs.map (·.1))
      let c := if four x.e then raw / 16 ^ par % 16 else raw
      match s.readElems w x perm n (p + 1) with
      | .error e => .error e
      | .ok (cs, rs, s) => .ok ((c, bs.any (·.2)) :: cs, (if four x.e && par == 1 then [] else bs) ++ rs, s)

/-- The same for a run of one setting of the outer indices: one access where the elements are contiguous. -/
def State.readRun (s : State) (w : Who) (x : Shape) (perm : Perm) (p n : Nat) : Eff (List (Nat × Bool) × List PByte × State) :=
  if x.contiguous && (!four x.e || (p % x.sizes.headD 1 % 2 == 0 && n % 2 == 0)) then
    match s.copyRead w (x.addr p) (x.runBytes n) perm with
    | .error e => .error e
    | .ok (bs, s) =>
      let codes := unpackCodes x.e (bs.map (·.1))
      let per := ElemType.bits x.e
      let cs := ((List.range n).zip codes).map fun (i, c) =>
        (c, ((bs.drop (i * per / 8)).take (esize x.e)).any (·.2))
      .ok (cs, bs, s)
  else s.readElems w x perm n p

/-- Elements packed as bytes of a run, with the poison of each. -/
def packRun (e : ElemType) (cs : List (Nat × Bool)) : List PByte :=
  let bs := packCodes e (cs.map (·.1))
  ((List.range bs.length).zip bs).map fun (i, b) =>
    (b, if four e then (cs.getD (2 * i) (0, false)).2 || (cs.getD (2 * i + 1) (0, false)).2
        else (cs.getD (i / esize e) (0, false)).2)

/-- The writes of n elements from p on: one where they are contiguous. -/
def Shape.writes (x : Shape) (p : Nat) (cs : List (Nat × Bool)) (wr : Writer) : List CWrite :=
  if x.contiguous then [{ addr := x.addr p, bytes := packRun x.e cs, wr := wr }]
  else ((List.range cs.length).zip cs).map fun (i, c) => { addr := x.addr (p + i), bytes := packRun x.e [c], wr := wr }

/-! ## Checksums -/

/-- CRC-32C, one byte at a time, over the reflected polynomial (R101). -/
def crcBits : Nat → Nat → Nat
  | 0, c => c
  | n + 1, c => crcBits n (if c % 2 = 1 then Nat.xor (c / 2) 0x82F63B78 else c / 2)
def crcBytes (c : W32) (bs : List Byte) : W32 :=
  bs.foldl (fun c b => BitVec.ofNat 32 (crcBits 8 (Nat.xor c.toNat b.toNat))) c

/-- DSTSUM's terms of a run of bytes from a byte distance on (R102). The sum is linear in the bytes of a word, so byte k of word
j adds b × 2^(8k) × (2j + 1), and a word that two bursts share counts once. -/
def sumBytes (i : Int) : List Byte → W64 → W64
  | [], v => v
  | b :: bs, v => sumBytes (i + 1) bs (v + BitVec.ofInt 64 ((b.toNat : Int) * 2 ^ (8 * (i % 4).toNat) * (2 * (i / 4) + 1)))

/-! ## Modes -/

/-- Elements transformed, with their flags and the generator; EFB also gives residues. -/
structure Moved where
  out : List (Nat × Bool) := []
  res : List (Nat × Bool) := []
  flags : Flags := 0
  sr : W32

/-- PLAIN, CONVERT and EFB of one element. -/
def moveElem (d : Desc) (m : Moved) (c : Nat × Bool) : Moved :=
  match d.mode with
  | 0 => { m with out := m.out ++ [c] }
  | 2 =>
    let x := decodeNum d.set c.1
    let (q, f, g) := roundSr d.det d.rm m.sr x
    let (r, f2) : Nat × Flags := if x.isFinite then roundTo d.ret .rne 0 (exactAdd .rne x (decodeNum d.det q).negate).1 else (0, 0)
    { out := m.out ++ [(q, c.2)], res := m.res ++ [(r, c.2)], flags := m.flags ||| f ||| f2, sr := g }
  | _ =>
    if d.setCode = d.detCode then { m with out := m.out ++ [c] }
    else
      let x := if ElemType.isFloat d.set then decodeNum d.set c.1 else Num.ofInt (intVal d.set c.1)
      let (q, f, g) := roundSr d.det d.rm m.sr x
      { m with out := m.out ++ [(q, c.2)], flags := m.flags ||| f, sr := g }

/-- Code n of a 3-bit stream given as a number. -/
def code3 (v n : Nat) : Nat := v / 8 ^ n % 8
/-- A BF16 table entry as the destination takes it (R95). -/
def tableEntry (det : ElemType) (tbl : List Byte) (c : Nat) : Nat :=
  let x := field tbl (2 * c) 2
  if det = .fp32 then widen .bf16 x else x

/-- A WSTREAM record decoded: its tile, source bytes after the kind byte, the bytes a CRC covers. -/
structure Record where
  tile : List PByte
  next : Nat
  raw : List PByte

/-- The tile of a CB record (R97). -/
def cbTile (tileb : Nat) (bs : List PByte) : List PByte :=
  let tbl := bs.take 16
  let codes := bs.drop 16
  let v := leNat (codes.map (·.1))
  (List.range (tileb / 2)).flatMap fun n =>
    let c := code3 v n
    let e := (tbl.drop (2 * c)).take 2
    let bad := e.any (·.2) || ((codes.drop (3 * n / 8)).take ((3 * n + 2) / 8 - 3 * n / 8 + 1)).any (·.2)
    e.map fun b => (b.1, bad)

/-- The granule of an address. -/
def granuleOf (a : W64) : W64 := BitVec.ofNat 64 (a.toNat / 32 * 32)
/-- Granules read whole, each once. -/
def State.readGranules (s : State) (w : Who) : List W64 → Eff (List (W64 × List PByte) × State)
  | [] => .ok ([], s)
  | g :: gs => match s.copyRead w g 32 .r with
    | .error e => .error e
    | .ok (bs, s) => match s.readGranules w gs with
      | .error e => .error e
      | .ok (xs, s) => .ok ((g, bs) :: xs, s)

/-- Read tile u back from the destination, granule by granule, once the command's own writes of it are acknowledged (R98). -/
def State.readBack (s : State) (w : Who) (x : Shape) (tileb u : Nat) : Eff (List PByte × State) :=
  if s.storesOut.any fun f => f.cmd == w.cmd && decide (f.elem < (u + 1) * tileb) then
    .error (.again fun s => s.performFlights fun f => f.cmd == w.cmd)
  else
    let as := (List.range tileb).map fun i => x.addr (u * tileb + i)
    match s.readGranules w ((as.map granuleOf).eraseDups) with
    | .error e => .error e
    | .ok (gs, s) => .ok (as.map fun a => match gs.find? fun g => g.1 == granuleOf a with
        | some (_, bs) => bs.getD (a.toNat % 32) (0, false)
        | none => (0, false), s)

/-- Decode the next record: none is a stream error (R100). -/
def State.decodeRecord (s : State) (w : Who) (d : Desc) (c : CopyCmd) (x : Shape) : Eff (Option Record × State) :=
  let len := (d.sstr.headD 0).toNat
  let at' (o : Nat) : W64 := addrPlus d.src o
  let t := c.pos / d.tileb
  if c.srcPos ≥ len then .ok (none, s)
  else match s.copyRead w (at' c.srcPos) 1 .r with
    | .error e => .error e
    | .ok (kb, s) =>
      let k := (kb.headD (0, false)).1.toNat
      let bad := kb.any (·.2)
      let need := match k with
        | 1 => some d.tileb
        | 2 => some 2
        | 3 => some 0
        | 4 => some (16 + 3 * d.tileb / 16)
        | _ => none
      match need with
      | none => .ok (none, s)
      | some n =>
        if c.srcPos + 1 + n > len then .ok (none, s)
        else match (if n = 0 then .ok ([], s) else s.copyRead w (at' (c.srcPos + 1)) n .r) with
          | .error e => .error e
          | .ok (bs, s) =>
            let fin (tile : List PByte) (bad : Bool) (s : State) : Eff (Option Record × State) :=
              .ok (some { tile := tile.map fun b => (b.1, b.2 || bad), next := c.srcPos + 1 + n, raw := kb ++ bs }, s)
            match k with
            | 1 => fin bs bad s
            | 3 => fin (List.replicate d.tileb (0, false)) bad s
            | 4 => fin (cbTile d.tileb bs) bad s
            | _ =>
              let u := leNat (bs.map (·.1))
              let bad := bad || bs.any (·.2)
              if u ≥ t then .ok (none, s)
              else match c.cache.find? fun e => e.1 == u with
                | some (_, tile) => fin tile bad s
                | none => match s.readBack w x d.tileb u with
                  | .error e => .error e
                  | .ok (tile, s) => fin tile bad s

/-- What an attempt at a burst comes to. -/
inductive Burst where
  | moved (c : CopyCmd) (s : State)
  | failed (c : CopyCmd) (cause : Cause) (s : State)

/-- Elements of one burst from the command's position: to the end of dimension 0, of the 256-byte block, and of `limit`. -/
def burstLen (x : Shape) (pos limit : Nat) : Nat :=
  let size0 := x.sizes.headD 1
  let room := size0 - pos % size0
  if !x.contiguous then 1
  else
    let bytes := 256 - offsetOf (x.addr pos) % 256
    max 1 (min limit (min room (if four x.e then 2 * bytes else bytes / esize x.e)))

/-- Tag bytes of elements copied with their values (R105); in a scratchpad their block has an unknown type (DESIGN CHOICE, log 137). -/
def State.tagWrites (s : State) (w : Who) (src dst : Shape) (base : BitVec 49) : Nat → Nat → Eff (List CWrite × State)
  | 0, _ => .ok ([], s)
  | n + 1, p => match tagAddr base (src.addr p), tagAddr base (dst.addr p) with
    | some a, some b => match s.copyRead w a 1 .r with
      | .error e => .error e
      | .ok (bs, s) => match s.tagWrites w src dst base n (p + 1) with
        | .error e => .error e
        | .ok (xs, s) => .ok ({ addr := b, bytes := bs } :: xs, s)
    | _, _ => .error (.trap .space (dst.addr p) s)

/-- Record the elements written: position, bytes left, flags, checksums, frames. -/
def CopyCmd.advance (c : CopyCmd) (d : Desc) (n : Nat) (dist : Int) (raw : List PByte) (out : List PByte) (flags : Flags)
    (frames : List (Nat × Nat)) : CopyCmd :=
  let pos := c.pos + n
  { c with
    pos := pos, left := d.bytes * (d.total - pos) / d.total, flags := c.flags ||| flags
    crc := if d.cks = 1 then crcBytes c.crc (raw.map (·.1)) else c.crc
    sum := if d.cks = 2 then sumBytes dist (out.map (·.1)) c.sum else c.sum
    frames := if d.framerel then (c.frames ++ frames).eraseDups else c.frames }

/-- The progress record at the first record of a WSTREAM chunk (R99). -/
def CopyCmd.chunked (c : CopyCmd) : CopyCmd :=
  if (Desc.ofBytes c.desc).mode = 4 ∧ c.pos % 4096 = 0 ∧ c.tile.isEmpty then
    { c with chunkSrc := c.srcPos, chunkCrc := c.crc, chunkPos := c.pos, chunkSum := c.sum } else c

/-- One burst of a command (R64): its elements read, transformed and written. -/
def State.burst (s : State) (cl : Nat) (c : CopyCmd) : Eff Burst :=
  let d := Desc.ofBytes c.desc
  let w := { s.copyWho cl c.q c.issuer with cmd := c.id }
  let dst : Shape := { base := d.dst, sizes := d.sizes, str := d.dstr, e := d.det }
  let src : Shape := { base := d.src, sizes := d.sizes, str := d.sstr, e := d.set }
  let wr (e : ElemType) : Writer := if d.mode = 0 then none else some (d.ddom, e)   -- a PLAIN copy has no type (R217)
  let dist : Int := elemOff d.sizes d.dstr (four d.det) c.pos
  let done (s : State) (c : CopyCmd) (n : Nat) (raw : List PByte) (out : List (Nat × Bool)) (flags : Flags) (xs : List CWrite) :
      Eff Burst :=
    match s.admitWrites w xs with
    | .error e => .error e
    | .ok (ys, s) =>
      let c := { c with poisoned := c.poisoned || xs.any fun x => x.bytes.any (·.2) }
      .ok (.moved (c.advance d n dist raw (packRun d.det out) flags (framesOf (ys.flatMap (·.1)))) (s.writeAll w c.pos d.framerel ys))
  if c.q = 3 then   -- a transform's spill carries its bytes (R63) and no type
    let n := burstLen dst c.pos (c.spill.length - c.pos)
    let out := ((c.spill.drop c.pos).take n).map fun b => (b.1.toNat, b.2)
    done s c n [] out 0 (dst.writes c.pos out none)
  else match d.mode with
  | 3 =>
    let b := c.pos / d.block
    let n := burstLen dst c.pos (d.block - c.pos % d.block)
    let first := 3 * c.pos / 32
    let last := (3 * (c.pos + n) + 31) / 32
    -- words already covered are read again but not counted again
    let counted := (3 * c.pos + 31) / 32
    match s.copyRead w (addrPlus d.src (4 * first)) (4 * (last - first)) .r with
    | .error e => .error e
    | .ok (bs, s) =>
      let v := leNat (bs.map (·.1)) / 2 ^ (3 * c.pos - 32 * first)
      let bad (i : Nat) : Bool :=
        let lo := 3 * (c.pos + i) - 32 * first
        ((bs.drop (lo / 8)).take ((lo + 2) / 8 - lo / 8 + 1)).any (·.2)
      let out := (List.range n).map fun i => (tableEntry d.det c.tbl (code3 v i), c.tblPoison || bad i)
      let c := if c.pos + n = (b + 1) * d.block then { c with tblFor := none } else c
      done s c n (bs.drop (4 * (counted - first))) out 0 (dst.writes c.pos out (wr d.det))
  | 4 =>
    let step (s : State) (c : CopyCmd) (raw : List PByte) : Eff Burst :=
      let n := burstLen dst c.pos c.tile.length
      let out := (c.tile.take n).map fun b => (b.1.toNat, b.2)
      done s { c with tile := c.tile.drop n } n raw out 0 (dst.writes c.pos out (wr .uint8))
    if !c.tile.isEmpty then step s c []
    else match s.decodeRecord w d c dst with
      | .error e => .error e
      | .ok (none, s) => .ok (.failed c .descriptor s)
      | .ok (some r, s) =>
        step s { c with tile := r.tile, srcPos := r.next, cache := ((c.pos / d.tileb, r.tile) :: c.cache).take 64 } r.raw
  | _ =>
    let n := burstLen dst c.pos (2 ^ 36)
    match s.readRun w src .r c.pos n with
    | .error e => .error e
    | .ok (cs, raw, s) =>
      let m := cs.foldl (moveElem d) { sr := Tab.get 1 (s.cluster cl).ce.sr c.q }
      let resShape : Shape := { dst with base := d.res, e := d.ret }
      let xs := dst.writes c.pos m.out (wr d.det) ++ (if d.mode = 2 then resShape.writes c.pos m.res (wr d.det) else [])
      match (if d.tagcopy then s.tagWrites w src dst c.tagbase n c.pos else .ok ([], s)) with
      | .error e => .error e
      | .ok (ts, s) =>
        let s := s.onCe cl fun e => { e with sr := Tab.set e.sr c.q m.sr }
        done s c n raw m.out m.flags (ts ++ xs)

/-! ## Suspension and failure (R82) -/

/-- A node stop for a copy command, at its issuer's node. -/
def State.stopCopy (s : State) (cl : Nat) (c : CopyCmd) (q : Cause) (a : W64) : State :=
  let r := mkReport q (.copy cl c.q) false (if c.statAt.isSome then 0 else BitVec.ofNat 32 c.who) 0 a
  s.stopUnit c.issuer { r with core := BitVec.ofNat 10 c.core }

/-- CEFAULT of a requester (R83). -/
def State.copyFault (s : State) (cl : Nat) (c : CopyCmd) (q : Cause) (st : Nat) : State :=
  s.onCe cl fun e => { e with fault := Tab.set e.fault c.q (BitVec.ofNat 64 (q.code * 2 ^ 56 + st * 2 ^ 52 + c.who)) }

/-- The completion record of a command. -/
def State.recordCopy (s : State) (cl : Nat) (c : CopyCmd) (cause : Nat) : State :=
  s.onCe cl fun e => { e with records := { id := c.id, who := c.who, q := c.q, cause := cause, poison := c.poisoned } :: e.records }

/-- SUSPENDED at the restart point of its mode: the first element not written, or the chunk's first record (R96, R99). Bursts before
it may still be refused. What its promise counts, of bytes that it will write again, stays as it was (DESIGN CHOICE, log 133). -/
def State.suspendCopy (s : State) (cl : Nat) (c : CopyCmd) (q : Cause) (a : W64) : State :=
  let d := Desc.ofBytes c.desc
  let c := { c with state := .suspended, tblFor := none, cache := [], tile := [] }
  let c := if d.mode = 4 then { c with pos := c.chunkPos, srcPos := c.chunkSrc, crc := c.chunkCrc, sum := c.chunkSum } else c
  let c := { c with marks := c.marks.filter fun m => decide (m.pos < c.pos) }
  (((((s.setCopy cl c).setWait (.copy cl c.q) .none).recordCopy cl c q.code).writeStat c 4).copyFault cl c q 4).stopCopy cl c q a

/-- A command as it stood at a mark. -/
def CopyCmd.backTo (c : CopyCmd) (m : CopyMark) : CopyCmd :=
  { c with
    pos := m.pos, left := m.left, crc := m.crc, sum := m.sum
    chunkSrc := m.chunkSrc, chunkCrc := m.chunkCrc, chunkPos := m.chunkPos, chunkSum := m.chunkSum }
def CopyCmd.mark (c : CopyCmd) (sr : W32) : CopyMark :=
  { pos := c.pos, left := c.left, crc := c.crc, sum := c.sum, chunkSrc := c.chunkSrc, chunkCrc := c.chunkCrc
    chunkPos := c.chunkPos, chunkSum := c.chunkSum, sr := sr }

/-- Does a command step its requester's generator (R75)? -/
def CopyCmd.random (c : CopyCmd) : Bool :=
  let d := Desc.ofBytes c.desc
  (d.mode == 1 || d.mode == 2) && d.rm == .sr

/-- Another device or the host refuses a write of a command's burst: it goes back to that burst and is suspended there (R82, R93,
R96, R99), unless it already stands before it, or has FAILED. -/
def State.refuseWrite (s : State) (cl : Nat) (f : Flight) (q : Cause) : State :=
  match (s.cluster cl).ce.find f.cmd with
  | none => s
  | some c => match (if c.state = .failed then [] else c.marks).find? fun m => m.pos == f.elem with
    | none => s
    | some m =>
      let s := if c.random then s.onCe cl fun e => { e with sr := Tab.set e.sr c.q m.sr } else s
      s.suspendCopy cl (c.backTo m) q f.name

/-- Another device or the host refuses a read of a command's burst: the burst has not moved (R82). -/
def State.refuseRead (s : State) (cl : Nat) (r : ExtRead) (q : Cause) : State :=
  match (s.cluster cl).ce.find r.cmd with
  | none => s
  | some c => if c.state = .suspended ∨ c.state = .failed then s else s.suspendCopy cl c.chunked q r.addr

/-- FAILED: nothing further is written or signalled; the frames of a FRAMEREL copy become POISONED (R59). -/
def State.failCopy (s : State) (cl : Nat) (c : CopyCmd) (q : Cause) : State :=
  let c := { c with state := .failed }
  let s := ((((s.setCopy cl c).setWait (.copy cl c.q) .none).recordCopy cl c q.code).writeStat c 5).copyFault cl c q 5
  let s := c.frames.foldl (fun s (h, f) => s.setFrame h f 2) s
  let s := s.item c.core (UnitId.copy cl c.q).src 1 q.code (s.launchId c.issuer) (BitVec.ofNat 64 c.who) (Desc.ofBytes c.desc).dst
  s.stopCopy cl c q 0

/-! ## Grants (R64) -/

/-- May a command move data? Its codebook block's table must have been read (R96). -/
def CopyCmd.movable (c : CopyCmd) : Bool :=
  let d := Desc.ofBytes c.desc
  (c.state == .queued || c.state == .running) && decide (c.pos < d.total) &&
    (d.mode != 3 || c.tblFor == some (c.pos / d.block))

/-- May a command move data before those accepted earlier on its requester? A generator steps in acceptance order (R75); a command
on strongly-ordered or device pages keeps its place among its issuer's accesses (R324). -/
def CopyCmd.follows (c : CopyCmd) (earlier : List CopyCmd) : Bool :=
  let mine := earlier.filter fun x => x.issuer == c.issuer
  !(c.random && earlier.any fun x => x.random && (decide (x.pos < (Desc.ofBytes x.desc).total) || !x.marks.isEmpty)) &&
  !(mine.any fun x => x.mtype == 3) && !(c.mtype == 3 && !mine.isEmpty) && !(c.mtype == 2 && mine.any fun x => decide (x.mtype ≥ 2))

/-- Does a command wait for its codebook's counter or table (R96)? -/
def CopyCmd.tableWait (c : CopyCmd) : Bool :=
  let d := Desc.ofBytes c.desc
  (c.state == .queued || c.state == .running) && d.mode == 3 && decide (c.pos < d.total) && c.tblFor != some (c.pos / d.block)

/-- Does a command leave those behind it free to start (R65, R82, R96)? -/
def CopyCmd.begun (c : CopyCmd) : Bool :=
  match c.state with
  | .suspended | .failed => false
  | .running => true
  | .queued => c.tableWait || decide (c.pos ≥ (Desc.ofBytes c.desc).total)

/-- The commands of a requester that may run: those before a suspended or failed one, and before one whose data phase may not start,
for data phases start in acceptance order (R65); one that waits for a codebook's table lets those behind it run (R96). -/
def runnable (earlier : List CopyCmd) : List CopyCmd → List CopyCmd
  | [] => []
  | c :: cs => match c.state with
    | .suspended | .failed => []
    | _ =>
      if c.movable then (if c.follows earlier then c :: runnable (earlier ++ [c]) cs else [])
      else runnable (earlier ++ [c]) cs

/-- Register once what a burst waits for: a frame, the Lantern, another device; or keep the granules it has read. -/
def State.copyWaits (s : State) (u : UnitId) (e : Stop) : State :=
  match e with
  | .park h p => if (s.core h).fq.elem p then s else (s.parkAt h p).1
  | .full cl b p => if (s.cluster cl).cm.parked.any fun x => x.acc == p then s else (s.parkBehind cl b p).1
  | .ext q => if s.extReads.any fun r => r.u == u && r.addr == q.name && r.len == q.len then s else s.sendAsk u q none
  | .refused h => s.refuseUnit u h
  | .again f => f s
  | .since f e => (f s).copyWaits u e
  | _ => s

/-- What a command's acquire or its pages' type orders before its first read (R324, R326): those in flight are performed; whether all
have been. -/
def State.openGate (s : State) (c : CopyCmd) : State × Bool :=
  if c.acq || decide (c.mtype ≥ 2) then
    let s := s.settleEarlier c.before
    (s, !s.stillOut c.issuer c.before)
  else (s, true)
/-- A command's data phase starts (R68). -/
def State.startPhase (s : State) (cl : Nat) (c : CopyCmd) : State :=
  if c.state = .queued then let c := { c with state := .running }; (s.setCopy cl c).writeStat c 2 else s

/-- Writes of a command that their points have not performed. -/
def State.copyOut (s : State) (id : Nat) : List Flight := s.storesOut.filter fun f => f.cmd == id

/-- A burst has moved: its writes that left for another device or the host make it a restart point (R82). -/
def State.noteMark (s : State) (c0 c : CopyCmd) (sr : W32) : CopyCmd :=
  let out := (s.copyOut c.id).filter fun f => match f.place with | .peer .. | .host _ => true | _ => false
  let held (pos : Nat) : Bool := out.any fun f => f.elem == pos
  { c with marks := (c.marks ++ [c0.mark sr]).filter fun m => held m.pos }

/-- Try the runnable commands of a requester in order until one moves a burst; whether one did. What is ordered before a command comes
first, and those behind it wait with it (R65, R326). A cause that R82 does not list for a running command suspends it as the listed ones do (DESIGN
CHOICE, log 99). -/
def State.tryBursts (s : State) (cl q : Nat) : List CopyCmd → State × Bool
  | [] => (s, false)
  | c0 :: cs =>
    let c := c0.chunked
    match s.openGate c with
    | (s, false) => (s, false)
    | (s, true) => match s.burst cl c with
      | .ok (.moved c' s') =>
        let sr := Tab.get 1 (s.cluster cl).ce.sr q
        let c' := s'.noteMark c { c' with state := .running } sr
        let s' := (s'.dropDelivered (.copy cl q)).setCopy cl c'
        (if c.state = .running then s' else s'.writeStat c' 2, true)
      | .ok (.failed c' cause s') => (s'.failCopy cl c' cause, true)
      | .error (.trap cause a t) => ((s.missOf t).suspendCopy cl c cause a, true)
      | .error e => ((s.startPhase cl c).copyWaits (.copy cl q) e).tryBursts cl q cs

def copyWeight (q : Nat) : Nat := [4, 4, 2, 1].getD q 1

/-- Grant one burst by weighted round robin: a requester with none ready gives up its turn. -/
def State.grantBurst (s : State) (cl : Nat) : Nat → State
  | 0 => s
  | n + 1 =>
    let e := (s.cluster cl).ce
    let q := e.turn
    let next (s : State) : State := s.onCe cl fun e => { e with turn := (e.turn + 1) % 4, used := 0 }
    if e.used ≥ copyWeight q then (next s).grantBurst cl n
    else match s.tryBursts cl q (runnable [] (Tab.get [] e.q q)) with
      | (s, true) => s.onCe cl fun e => { e with used := e.used + 1 }
      | (s, false) => (next s).grantBurst cl n

def execCopyBurst (s : State) : Host.Outcome State Fault Refusal := .next (s.grantBurst s.arg.a 9)

/-! ## The table of a codebook block (R96) -/

/-- A requester's first CODEBOOK command that waits reads its counter, and then its block's table. -/
def State.readTable (s : State) (cl q : Nat) : State :=
  let cs := Tab.get [] (s.cluster cl).ce.q q
  match cs.find? CopyCmd.tableWait with
  | none => s
  | some c => match (if (cs.takeWhile fun x => x.id != c.id).all CopyCmd.begun then s.openGate c else (s, false)) with
    | (s, false) => s
    | (s, true) =>
    let d := Desc.ofBytes c.desc
    let b := c.pos / d.block
    let w := { s.copyWho cl q c.issuer with cmd := c.id }
    let settle (e : Stop) : State := match e with
      | .trap cause a t => (s.missOf t).suspendCopy cl c cause a
      | e => s.copyWaits (.copy cl q) e
    match s.copyRead w d.tblrdy 4 .r with
    | .error e => settle e
    | .ok (cnt, s1) =>
      if cnt.any (·.2) then s1.failCopy cl c .poison
      else if leNat (cnt.map (·.1)) < b + 1 then s1.dropDelivered (.copy cl q)
      else match s1.copyRead w (addrPlus d.tbl (16 * b)) 16 .r with
        | .error e => settle e
        | .ok (bs, s2) =>
          (s2.dropDelivered (.copy cl q)).setCopy cl
            { c with tblFor := some b, tbl := bs.map (·.1), tblPoison := bs.any (·.2) }

def execTblrdyRead (s : State) : Host.Outcome State Fault Refusal := .next (s.readTable s.arg.a s.arg.b)

/-! ## Completion (R65, R103, R281) -/

/-- The CRC or the sum that CKLAST shows. -/
def CopyCmd.check (c : CopyCmd) (d : Desc) : W64 := if d.cks = 1 then (c.crc ^^^ 0xFFFFFFFF).setWidth 64 else c.sum

/-- Everything after the follow-on's hand-off: slot or STAT, token or counter, flags, the completion record. A token that finds
its queue full is not added and raises TOKEN_OVERFLOW (R84). -/
def State.signalCopy (s : State) (cl : Nat) (c : CopyCmd) : State :=
  let full (q : Nat) : Bool := let d := s.dense cl; decide (Tab.get 0 d.q q + Tab.get 0 d.qres q + 1 > 255)
  let s := s.onCe cl fun e => { e with q := Tab.set e.q c.q ((Tab.get [] e.q c.q).filter fun x => x.id != c.id), cflags := e.cflags ||| c.flags, raised := e.raised.set c.flags s.time }
  let s := s.onDense cl fun d =>
    let mine := d.w.any fun (i, x) => some i == c.slot && x.cmd == some c.id
    if mine then
      { d with w := d.w.map (fun (i, x) => (i, if some i = c.slot then { x with done := true } else x)), sc := { d.sc with latch := true } }
    else d
  let s := s.writeStat c 3
  let s := match c.counter with
    | some n => s.advance c.core n 1
    | none => s
  let s := (match c.tok with
  | none => s
  | some q => if full q then s else s.onDense cl fun d => d.addTokens q 1).recordCopy cl c 0
  match c.tok with
  | none => s
  | some q =>
    if full q then
      (s.copyFault cl c .tokenOverflow 3).stopUnit c.issuer (mkReport .tokenOverflow c.issuer false (BitVec.ofNat 32 c.who) 0 0)
    else s

/-- The arbiter accepts a follow-on: its sequence number, its ring entry with source 8, its place in the queue (R282). -/
def State.acceptFollow (s : State) (cl : Nat) (m : MCmd) : State :=
  let q := (s.dense cl).nextSeq
  let s := s.onDense cl fun d =>
    { d with nextSeq := d.nextSeq + 1, ring := Tab.set d.ring (d.nextSeq.toNat % 64) { seq := d.nextSeq, src := 8, pc := m.pc } }
  s.acceptCmd cl { m with seq := q, copy := 0 }

/-- Complete the first command of a requester, once its data are done and every write is acknowledged: checksum, release, frames,
follow-on, then the rest. A follow-on that finds no queue entry waits for the arbiter, and the rest with it. -/
def State.completeCopy (s : State) (cl q : Nat) : State :=
  match Tab.get [] (s.cluster cl).ce.q q with
  | [] => s
  | c :: _ =>
    let d := Desc.ofBytes c.desc
    let waiting := (s.dense cl).follow.any fun m => m.copy == c.id
    if waiting || c.state == .suspended || c.state == .failed || decide (c.pos < d.total) then s
    else
      let s := s.performFlights fun f => f.cmd == c.id
      let s := if c.rel then s.settleEarlier c.before else s
      if !(s.copyOut c.id).isEmpty || (c.rel && s.stillOut c.issuer c.before) then s
      else
        let s := if d.cks = 0 then s else s.onCe cl fun e => { e with cklast := Tab.set e.cklast q (c.check d) }
        if d.cks ≠ 0 ∧ c.check d ≠ d.ckv then s.failCopy cl c .checkMismatch
        else
          let s := c.frames.foldl (fun s (h, f) => s.setFrame h f 0) s
          match c.follow with
          | none => s.signalCopy cl c
          | some m =>
            if (s.dense cl).follow.isEmpty && s.arbiterFree cl then (s.acceptFollow cl m).signalCopy cl c
            else s.onDense cl fun x => { x with follow := x.follow ++ [{ m with copy := c.id }] }

def execCopyComplete (s : State) : Host.Outcome State Fault Refusal := .next (s.completeCopy s.arg.a s.arg.b)

/-- MATRIX_ARBITER_ACCEPT: the oldest waiting follow-on takes a free entry, and its copy signals the rest (R281). -/
def State.arbiterAccept (s : State) (cl : Nat) : State :=
  let d := s.dense cl
  match d.follow with
  | [] => s
  | m :: ms =>
    if !s.arbiterFree cl then s
    else
      let s := (s.onDense cl fun d => { d with follow := ms }).acceptFollow cl m
      match (s.cluster cl).ce.find m.copy with
      | some c => s.signalCopy cl c
      | none => s

def execMatrixArbiterAccept (s : State) : Host.Outcome State Fault Refusal := .next (s.arbiterAccept s.arg.a)

end Sys2Proof.Machine
end

