-- ==== Sys2Proof/Machine/Scalar.lean ====
section
/-! DEFINITION. The scalar sequencer's arithmetic, loads and stores, atomics and branches (R222 to R232): also run by
supervisor cores (R25). -/

namespace Sys2Proof.Machine

/-! ## Registers and interlocks -/

/-- Registers and the checking scoreboard of a scalar sequencer or a supervisor core. -/
def State.sregs (s : State) : UnitId → Tab SReg
  | .sup n => (s.sup n).s
  | u => (s.dense u.cl).s
def State.sbchkOf (s : State) : UnitId → Bool
  | .sup n => (s.sup n).sbchk
  | u => (s.dense u.cl).sc.sbchk

/-- A register as a word reads it: s0 is 0 with tag 31. -/
def State.sReg (s : State) (u : UnitId) (r : BitVec 5) : SReg := if r = 0 then {} else Tab.get {} (s.sregs u) r.toNat
def State.sVal (s : State) (u : UnitId) (r : BitVec 5) : W64 := (s.sReg u r).val

def State.addPend (s : State) (u : UnitId) (p : Pending) : State :=
  match u with
  | .sup n => s.onSup n fun x => { x with pend := x.pend ++ [p] }
  | u => s.onDense u.cl fun d => { d with pend := d.pend ++ [p] }

/-- Write a register `lat` clk after issue; s0 discards it. -/
def State.putS (s : State) (u : UnitId) (r : BitVec 5) (x : SReg) (lat : Nat) : State :=
  if r = 0 then s
  else if lat ≤ 1 then
    match u with
    | .sup n => s.onSup n fun y => { y with s := Tab.set y.s r.toNat x, bad := y.bad.erase r.toNat }
    | u => s.onDense u.cl fun d => d.put (.s r.toNat) (.sreg x)
  else s.addPend u { who := u, dest := .s r.toNat, val := .sreg x, due := some (s.time + lat) }

/-- The interlocks of R222: a read of an outstanding variable result waits, with SBCHK a read in a fixed result's shadow
is SHADOW, of a poisoned register POISON (R376); a writer waits for the writes that R222 puts before it. `dest` carries whether it is of
variable latency: such writes of s0, which discards them, stand one behind another as those of any register do (DEDUCED, log 130). -/
def State.interlock (s : State) (u : UnitId) (reads : List (BitVec 5)) (dest : Option (BitVec 5 × Bool)) : Eff Unit :=
  let ps := s.pendOf u
  let reads := reads.filter (· ≠ 0)
  let hits (r : BitVec 5) (p : Pending) : Bool := decide (p.dest = .s r.toNat)
  let bad (r : BitVec 5) : Bool := match u with
    | .sup n => (s.sup n).bad.elem r.toNat
    | u => (s.dense u.cl).bad.elem (.s r.toNat)
  if reads.any fun r => ps.any fun p => hits r p && p.waiting then .error (.wait .retry)
  else if reads.any bad then .error (.trap .poison 0 s)
  else if s.sbchkOf u && reads.any fun r => ps.any fun p => hits r p then .error (.trap .shadow 0 s)
  else match dest with
    | none => .ok ()
    | some (d, var) =>
      if ps.any fun p => hits d p && (if d = 0 then var && p.waiting else var || p.waiting) then .error (.wait .retry) else .ok ()

/-- A word of a scalar sequencer or a supervisor core. -/
def scalarWord (s : State) (f : UnitId → Eff State) : Host.Outcome State Fault Refusal :=
  match s.cur with
  | .scalar c => .next (s.settle s.cur (f (.scalar c)))
  | .sup n => .next (s.settle s.cur (f (.sup n)))
  | u => .next (s.raise u .illegal 0)

/-- A word that only a dense core's scalar sequencer has (R25). -/
def denseScalarWord (s : State) (f : UnitId → Eff State) : Host.Outcome State Fault Refusal :=
  match s.cur with
  | .scalar c => .next (s.settle s.cur (f (.scalar c)))
  | u => .next (s.raise u .illegal 0)

/-- A word that computes a register from registers: the latency, none when it is variable. With T it takes one issue slot
(DESIGN CHOICE, log 89). -/
def regWord (s : State) (w : BitVec 3) (d : BitVec 5) (reads : List (BitVec 5)) (lat : Option Nat) (f : UnitId → SReg) :
    Host.Outcome State Fault Refusal :=
  scalarWord s fun u =>
    match s.interlock u reads (some (d, lat.isNone)) with
    | .error q => .error q
    | .ok _ => .ok ((s.putS u d (f u) (lat.getD 1)).retire u w.toNat)

/-! ## Integer operations (R225 to R227) -/

/-- A register operation on two registers; its result carries tag 31. -/
def opr (s : State) (w : BitVec 3) (d a b : BitVec 5) (lat : Option Nat) (f : W64 → W64 → W64) :
    Host.Outcome State Fault Refusal :=
  regWord s w d [a, b] lat fun u => { val := f (s.sVal u a) (s.sVal u b) }

def boolWord (b : Bool) : W64 := if b then 1 else 0
/-- High half of the signed product. -/
def mulHigh (x y : W64) : W64 := BitVec.ofInt 64 (x.toInt * y.toInt / (2 ^ 64 : Int))
/-- Signed division truncated toward zero. -/
def divWord (x y : W64) : W64 := if y = 0 then BitVec.allOnes 64 else BitVec.ofInt 64 (x.toInt.tdiv y.toInt)
def remWord (x y : W64) : W64 := if y = 0 then x else BitVec.ofInt 64 (x.toInt.tmod y.toInt)
/-- Shift counts are sb[5:0]. -/
def shlWord (x y : W64) : W64 := x <<< (y.toNat % 64)
def shrWord (x y : W64) : W64 := x >>> (y.toNat % 64)
def sraWord (x y : W64) : W64 := x.sshiftRight (y.toNat % 64)

def execAdd (_z : Bool) (w : BitVec 3) (d a b : BitVec 5) (s : State) : Host.Outcome State Fault Refusal :=
  opr s w d a b (some 1) (· + ·)
def execSub (_z : Bool) (w : BitVec 3) (d a b : BitVec 5) (s : State) : Host.Outcome State Fault Refusal :=
  opr s w d a b (some 1) (· - ·)
def execAnd (_z : Bool) (w : BitVec 3) (d a b : BitVec 5) (s : State) : Host.Outcome State Fault Refusal :=
  opr s w d a b (some 1) (· &&& ·)
def execOr (_z : Bool) (w : BitVec 3) (d a b : BitVec 5) (s : State) : Host.Outcome State Fault Refusal :=
  opr s w d a b (some 1) (· ||| ·)
def execXor (_z : Bool) (w : BitVec 3) (d a b : BitVec 5) (s : State) : Host.Outcome State Fault Refusal :=
  opr s w d a b (some 1) (· ^^^ ·)
def execShl (_z : Bool) (w : BitVec 3) (d a b : BitVec 5) (s : State) : Host.Outcome State Fault Refusal :=
  opr s w d a b (some 1) shlWord
def execShr (_z : Bool) (w : BitVec 3) (d a b : BitVec 5) (s : State) : Host.Outcome State Fault Refusal :=
  opr s w d a b (some 1) shrWord
def execSra (_z : Bool) (w : BitVec 3) (d a b : BitVec 5) (s : State) : Host.Outcome State Fault Refusal :=
  opr s w d a b (some 1) sraWord
def execMul (_z : Bool) (w : BitVec 3) (d a b : BitVec 5) (s : State) : Host.Outcome State Fault Refusal :=
  opr s w d a b (some 3) (· * ·)
def execMulh (_z : Bool) (w : BitVec 3) (d a b : BitVec 5) (s : State) : Host.Outcome State Fault Refusal :=
  opr s w d a b (some 3) mulHigh
def execDiv (_z : Bool) (w : BitVec 3) (d a b : BitVec 5) (s : State) : Host.Outcome State Fault Refusal :=
  opr s w d a b none divWord
def execRem (_z : Bool) (w : BitVec 3) (d a b : BitVec 5) (s : State) : Host.Outcome State Fault Refusal :=
  opr s w d a b none remWord
def execSlt (_z : Bool) (w : BitVec 3) (d a b : BitVec 5) (s : State) : Host.Outcome State Fault Refusal :=
  opr s w d a b (some 1) fun x y => boolWord (x.slt y)
def execSltu (_z : Bool) (w : BitVec 3) (d a b : BitVec 5) (s : State) : Host.Outcome State Fault Refusal :=
  opr s w d a b (some 1) fun x y => boolWord (x.ult y)
def execMin (_z : Bool) (w : BitVec 3) (d a b : BitVec 5) (s : State) : Host.Outcome State Fault Refusal :=
  opr s w d a b (some 1) fun x y => if y.slt x then y else x
def execMax (_z : Bool) (w : BitVec 3) (d a b : BitVec 5) (s : State) : Host.Outcome State Fault Refusal :=
  opr s w d a b (some 1) fun x y => if x.slt y then y else x

/-- An operation with a sign-extended immediate. -/
def opi (s : State) (w : BitVec 3) (d a : BitVec 5) (i : BitVec 12) (f : W64 → W64 → W64) :
    Host.Outcome State Fault Refusal :=
  regWord s w d [a] (some 1) fun u => { val := f (s.sVal u a) (i.signExtend 64) }
/-- A shift by an immediate count. -/
def shiftImm (s : State) (w : BitVec 3) (d a : BitVec 5) (c : BitVec 6) (f : W64 → W64 → W64) :
    Host.Outcome State Fault Refusal :=
  regWord s w d [a] (some 1) fun u => { val := f (s.sVal u a) (c.setWidth 64) }

def execAddi (_z : Bool) (w : BitVec 3) (d a : BitVec 5) (i : BitVec 12) (s : State) : Host.Outcome State Fault Refusal :=
  opi s w d a i (· + ·)
def execAndi (_z : Bool) (w : BitVec 3) (d a : BitVec 5) (i : BitVec 12) (s : State) : Host.Outcome State Fault Refusal :=
  opi s w d a i (· &&& ·)
def execOri (_z : Bool) (w : BitVec 3) (d a : BitVec 5) (i : BitVec 12) (s : State) : Host.Outcome State Fault Refusal :=
  opi s w d a i (· ||| ·)
def execXori (_z : Bool) (w : BitVec 3) (d a : BitVec 5) (i : BitVec 12) (s : State) : Host.Outcome State Fault Refusal :=
  opi s w d a i (· ^^^ ·)
def execSlti (_z : Bool) (w : BitVec 3) (d a : BitVec 5) (i : BitVec 12) (s : State) : Host.Outcome State Fault Refusal :=
  opi s w d a i fun x y => boolWord (x.slt y)
def execShli (_z : Bool) (w : BitVec 3) (d a : BitVec 5) (c : BitVec 6) (s : State) : Host.Outcome State Fault Refusal :=
  shiftImm s w d a c shlWord
def execShri (_z : Bool) (w : BitVec 3) (d a : BitVec 5) (c : BitVec 6) (s : State) : Host.Outcome State Fault Refusal :=
  shiftImm s w d a c shrWord
def execSrai (_z : Bool) (w : BitVec 3) (d a : BitVec 5) (c : BitVec 6) (s : State) : Host.Outcome State Fault Refusal :=
  shiftImm s w d a c sraWord

/-- LUI: bits 31:15, sign-extended from bit 31. -/
def execLui (_z : Bool) (w : BitVec 3) (d : BitVec 5) (i : BitVec 17) (s : State) : Host.Outcome State Fault Refusal :=
  regWord s w d [] (some 1) fun _ => { val := (i ++ (0 : BitVec 15)).signExtend 64 }

/-! ## Floating point (R228, R229) -/

/-- A register as an FP32 operand: its code and its tag clamped to 24. -/
def SReg.fp (x : SReg) : Nat × Tag := (x.val.toNat % 2 ^ 32, BitVec.ofNat 5 (min x.tag.toNat 24))
def SReg.opd (x : SReg) : Opd := Sys2Proof.Machine.opd .fp32 x.fp.1 x.fp.2

/-- Write a floating-point result and its flags `lat` clk after issue; the generator steps at issue (R125, R223). -/
def State.putFp (s : State) (u : UnitId) (d : BitVec 5) (r : Res) (lat : Nat) : State :=
  let x : SReg := { val := BitVec.ofNat 64 r.code, tag := BitVec.ofNat 5 r.tag }
  if lat ≤ 1 then (s.putS u d x 1).collect u r.flags r.sr
  else (s.addPend u { who := u, dest := .s d.toNat, val := .sreg x, due := some (s.time + lat), flags := r.flags }).setNum u { s.num u with sr := r.sr }

/-- A floating-point word: the result and flags are written, then a checked tag below the threshold traps (R135); a result
that s0 discards is not checked. -/
def fpWord (s : State) (w : BitVec 3) (d : BitVec 5) (reads : List (BitVec 5)) (lat : Option Nat) (check : Bool)
    (f : UnitId → W32 → Res) : Host.Outcome State Fault Refusal :=
  scalarWord s fun u =>
    match s.interlock u reads (some (d, lat.isNone)) with
    | .error q => .error q
    | .ok _ =>
      let r := f u (s.num u).sr
      let s := s.putFp u d r (lat.getD 1)
      if check && d ≠ 0 && s.sigLow u r.tag then .error (.trap .sigThreshold 0 s) else .ok (s.retire u w.toNat)

def fop2 (s : State) (w : BitVec 3) (d a b : BitVec 5) (lat : Option Nat) (f : W32 → Opd → Opd → Res) :
    Host.Outcome State Fault Refusal :=
  fpWord s w d [a, b] lat true fun u sr => f sr (s.sReg u a).opd (s.sReg u b).opd

def execFadd (_z : Bool) (w : BitVec 3) (d a b : BitVec 5) (r : Rm) (s : State) : Host.Outcome State Fault Refusal :=
  fop2 s w d a b (some 4) (fpAdd .fp32 r)
def execFsub (_z : Bool) (w : BitVec 3) (d a b : BitVec 5) (r : Rm) (s : State) : Host.Outcome State Fault Refusal :=
  fop2 s w d a b (some 4) (fpSub .fp32 r)
def execFmul (_z : Bool) (w : BitVec 3) (d a b : BitVec 5) (r : Rm) (s : State) : Host.Outcome State Fault Refusal :=
  fop2 s w d a b (some 4) (fpMul .fp32 r)
def execFdiv (_z : Bool) (w : BitVec 3) (d a b : BitVec 5) (r : Rm) (s : State) : Host.Outcome State Fault Refusal :=
  fop2 s w d a b none (fpDiv .fp32 r)
def execFsqrt (_z : Bool) (w : BitVec 3) (d a : BitVec 5) (r : Rm) (s : State) : Host.Outcome State Fault Refusal :=
  fpWord s w d [a] none true fun u sr => fpSqrt .fp32 r sr (s.sReg u a).opd

/-- Lesser or greater operand with its tag. -/
def fminmax (s : State) (isMax : Bool) (w : BitVec 3) (d a b : BitVec 5) : Host.Outcome State Fault Refusal :=
  fpWord s w d [a, b] (some 4) false fun u => minMaxRes isMax .fp32 (s.sReg u a).fp (s.sReg u b).fp
def execFmin (_z : Bool) (w : BitVec 3) (d a b : BitVec 5) (s : State) : Host.Outcome State Fault Refusal :=
  fminmax s false w d a b
def execFmax (_z : Bool) (w : BitVec 3) (d a b : BitVec 5) (s : State) : Host.Outcome State Fault Refusal :=
  fminmax s true w d a b

/-- A sign change of an FP32 code; a NaN becomes canonical with tag 0. -/
def signRes (f : Nat → Nat) (x : Nat × Tag) : W32 → Res :=
  if (decodeNum .fp32 x.1).isNan then pureRes (canonicalNan .fp32) 0 else pureRes (f x.1) (readTag 24 x.2)
def absCode (c : Nat) : Nat := c % 2 ^ 31
def negCode (c : Nat) : Nat := Nat.xor c (2 ^ 31)
def execFabs (_z : Bool) (w : BitVec 3) (d a : BitVec 5) (s : State) : Host.Outcome State Fault Refusal :=
  fpWord s w d [a] (some 4) false fun u => signRes absCode (s.sReg u a).fp
def execFneg (_z : Bool) (w : BitVec 3) (d a : BitVec 5) (s : State) : Host.Outcome State Fault Refusal :=
  fpWord s w d [a] (some 4) false fun u => signRes negCode (s.sReg u a).fp

/-- A signed 64-bit integer to FP32. -/
def execFcvtif (_z : Bool) (w : BitVec 3) (d a : BitVec 5) (r : Rm) (s : State) : Host.Outcome State Fault Refusal :=
  fpWord s w d [a] (some 4) true fun u sr =>
    let (c, f, g) := roundSr .fp32 r sr (.ofInt (s.sVal u a).toInt)
    ⟨c, 24, f, g⟩

/-- FP32 to a signed 64-bit integer. -/
def fpToInt (r : Rm) (sr : W32) (x : Num) : Res :=
  let g := if r = .sr then lfsrStep sr else sr
  let (c, f) := roundInt (-(2 ^ 63)) (2 ^ 63 - 1) 64 r (g.toNat % 65536) x
  ⟨c, 31, f, g⟩
def execFcvtfi (_z : Bool) (w : BitVec 3) (d a : BitVec 5) (r : Rm) (s : State) : Host.Outcome State Fault Refusal :=
  fpWord s w d [a] (some 4) false fun u sr => fpToInt r sr (s.sReg u a).opd.val

def execFcvtn (_z : Bool) (w : BitVec 3) (d a : BitVec 5) (e : ElemType) (r : Rm) (s : State) :
    Host.Outcome State Fault Refusal :=
  fpWord s w d [a] (some 4) true fun u sr => convert e .fp32 r sr (s.sReg u a).fp.1 (s.sReg u a).fp.2
def execFcvtw (_z : Bool) (w : BitVec 3) (d a : BitVec 5) (e : ElemType) (s : State) : Host.Outcome State Fault Refusal :=
  fpWord s w d [a] (some 4) true fun u sr => convert .fp32 e .rne sr ((s.sVal u a).toNat % 2 ^ ElemType.bits e) (s.sReg u a).tag

/-- FCMP's mask: equal, less, greater, unordered. -/
def cmpMask (a b : Num) : Nat :=
  if a.isNan || b.isNan then 8 else flag (a.eqv b) 0 + flag (a.lt b) 1 + flag (b.lt a) 2
def execFcmp (_z : Bool) (w : BitVec 3) (d a b : BitVec 5) (s : State) : Host.Outcome State Fault Refusal :=
  fpWord s w d [a, b] (some 4) false fun u => pureRes (cmpMask (s.sReg u a).opd.val (s.sReg u b).opd.val) 31
def execFsigr (_z : Bool) (w : BitVec 3) (d a : BitVec 5) (s : State) : Host.Outcome State Fault Refusal :=
  fpWord s w d [a] (some 4) false fun u => pureRes (s.sReg u a).fp.2.toNat 31
def execFsigw (_z : Bool) (w : BitVec 3) (d a b : BitVec 5) (s : State) : Host.Outcome State Fault Refusal :=
  fpWord s w d [a, b] (some 4) false fun u => pureRes (s.sReg u a).fp.1 (min (s.sVal u b).toNat 24)

def execFma (_z : Bool) (w : BitVec 3) (d a b c : BitVec 5) (r : Rm) (s : State) : Host.Outcome State Fault Refusal :=
  fpWord s w d [a, b, c] (some 5) true fun u sr => fpFma .fp32 r sr false (s.sReg u a).opd (s.sReg u b).opd (s.sReg u c).opd
def execFms (_z : Bool) (w : BitVec 3) (d a b c : BitVec 5) (r : Rm) (s : State) : Host.Outcome State Fault Refusal :=
  fpWord s w d [a, b, c] (some 5) true fun u sr => fpFma .fp32 r sr true (s.sReg u a).opd (s.sReg u b).opd (s.sReg u c).opd

/-! ## Loads and stores (R230) -/

/-- One part of a load for register r: its bytes and whether poisoned, or the part left outstanding (R60, R111, R230). -/
def State.loadPart (s : State) (u : UnitId) (r : Nat) (p : Part) : Eff (Option (List Byte × Bool) × State) :=
  let left (x : State × Bool) : Eff (Option (List Byte × Bool) × State) := if x.2 then .ok (none, x.1) else .error (.wait .retry)
  match s.readPart (s.who u) p with
  | .ok (bs, po, s) => .ok (some (bs, po), s)
  | .error (.park h (.read _ f pl _ n)) => left ((s.settleName u p.name p.len).parkAt h (.load f u r pl n none p.mtype))
  | .error (.full cl b (.read _ _ pl _ n)) => left ((s.settleName u p.name p.len).parkBehind cl b (.load 0 u r pl n none p.mtype))
  | .error (.ext q) => .ok (none, s.sendAsk u q (some r))
  | .error q => .error q
def State.loadParts (s : State) (u : UnitId) (r : Nat) : List Part → Eff (List (Option (List Byte × Bool)) × State)
  | [] => .ok ([], s)
  | p :: ps => match s.loadPart u r p with
    | .error q => .error q
    | .ok (x, s) => match s.loadParts u r ps with
      | .error q => .error q
      | .ok (xs, s) => .ok (x :: xs, s)

/-- A load of parts into a register, converted by `conv`: it lands with its data, or stays outstanding while later words issue
past it (R230). -/
def State.loadInto (s0 s : State) (u : UnitId) (w : BitVec 3) (d : BitVec 5) (ps : List Part) (conv : Nat) : Eff State :=
  match s.loadParts u d.toNat ps with
  | .error q => .error q
  | .ok (xs, s) =>
    let come := xs.filterMap id
    if come.any (·.2) then .error (.trap .poison 0 s0)
    else if come.length = xs.length then .ok ((s.putS u d (loadConv conv (come.flatMap (·.1))) 1).retire u w.toNat)
    else
      .ok ((s.addPend u { who := u, dest := .s d.toNat, val := .wait, due := none, pc := s.pc u, conv := conv
                          half := come.head?.map (·.1) }).retire u w.toNat)

/-- Load n bytes at an address into a register: checks first, then the data. -/
def State.loadReg (s : State) (u : UnitId) (w : BitVec 3) (d : BitVec 5) (a : W64) (n conv : Nat) : Eff State :=
  if a.toNat % n ≠ 0 then .error (.trap .align a s)
  else match s.locate (s.who u) a n .r with
    | .error q => .error q
    | .ok (ps, s1) => s.loadInto s1 u w d ps conv

def loadWord (s : State) (w : BitVec 3) (d a : BitVec 5) (i : BitVec 12) (n conv : Nat) : Host.Outcome State Fault Refusal :=
  scalarWord s fun u =>
    match s.interlock u [a] (some (d, true)) with
    | .error q => .error q
    | .ok _ => s.loadReg u w d (s.sVal u a + i.signExtend 64) n conv

def execLdb (_z : Bool) (w : BitVec 3) (d a : BitVec 5) (i : BitVec 12) (s : State) : Host.Outcome State Fault Refusal :=
  loadWord s w d a i 1 0
def execLdh (_z : Bool) (w : BitVec 3) (d a : BitVec 5) (i : BitVec 12) (s : State) : Host.Outcome State Fault Refusal :=
  loadWord s w d a i 2 1
def execLdw (_z : Bool) (w : BitVec 3) (d a : BitVec 5) (i : BitVec 12) (s : State) : Host.Outcome State Fault Refusal :=
  loadWord s w d a i 4 2
def execLdd (_z : Bool) (w : BitVec 3) (d a : BitVec 5) (i : BitVec 12) (s : State) : Host.Outcome State Fault Refusal :=
  loadWord s w d a i 8 3

/-- LDC: a doubleword of the node's constant table. -/
def execLdc (_z : Bool) (w : BitVec 3) (d : BitVec 5) (i : BitVec 17) (s : State) : Host.Outcome State Fault Refusal :=
  scalarWord s fun u =>
    match s.interlock u [] (some (d, true)) with
    | .error q => .error q
    | .ok _ => match s.constAddr u i.toNat with
      | none => .error (.trap .space 0 s)
      | some a => s.loadReg u w d a 8 3

/-- What refuses an access to the registers that a part names (R416), if it names any. -/
def State.regCause (s : State) (u : UnitId) (p : Part) (perm : Perm) : Option Cause :=
  match p.place with
  | .reg k cl o => match perm with
    | .w => (match s.writeRegs u k cl o (List.replicate p.len 0) with | .error c => some c | .ok _ => none)
    | _ => (match s.readRegs k cl o p.len with | .error c => some c | .ok _ => none)
  | _ => none
/-- Both parts of a tagged access, located before either is performed (R133). -/
def State.locateTagged (s : State) (u : UnitId) (a : W64) (perm : Perm) : Eff (List Part × List Part × State) :=
  if a.toNat % 4 ≠ 0 then .error (.trap .align a s)
  else match s.locate (s.who u) a 4 perm with
    | .error q => .error q
    | .ok (ps, s1) => match tagAddr (s.num u).tagbase a with
      | none => .error (.trap .space a s)
      | some t => match s1.locate (s.who u) t 1 perm with
        | .error q => .error q
        | .ok (qs, s2) => match (ps ++ qs).findSome? fun p => (s2.regCause u p perm).map fun c => (c, p.raw) with
          | some (c, x) => .error (.trap c x s)
          | none => .ok (ps, qs, s2)

/-- LDWT: a word with its tag byte. -/
def execLdwt (_z : Bool) (w : BitVec 3) (d a : BitVec 5) (i : BitVec 12) (s : State) : Host.Outcome State Fault Refusal :=
  scalarWord s fun u =>
    match s.interlock u [a] (some (d, true)) with
    | .error q => .error q
    | .ok _ => match s.locateTagged u (s.sVal u a + i.signExtend 64) .r with
      | .error q => .error q
      | .ok (ps, qs, s1) => s.loadInto s1 u w d (ps ++ qs) 4

/-- Store the low n bytes of sb. -/
def storeWord (s : State) (w : BitVec 3) (b a : BitVec 5) (i : BitVec 12) (n : Nat) : Host.Outcome State Fault Refusal :=
  scalarWord s fun u =>
    match s.interlock u [a, b] none with
    | .error q => .error q
    | .ok _ =>
      let ad := s.sVal u a + i.signExtend 64
      if ad.toNat % n ≠ 0 then .error (.trap .align ad s)
      else match s.store u ad (leBytes n (s.sVal u b).toNat) with
        | .error q => .error q
        | .ok s => .ok (s.retire u w.toNat)

def execStb (w : BitVec 3) (b a : BitVec 5) (i : BitVec 12) (s : State) : Host.Outcome State Fault Refusal :=
  storeWord s w b a i 1
def execSth (w : BitVec 3) (b a : BitVec 5) (i : BitVec 12) (s : State) : Host.Outcome State Fault Refusal :=
  storeWord s w b a i 2
def execStw (w : BitVec 3) (b a : BitVec 5) (i : BitVec 12) (s : State) : Host.Outcome State Fault Refusal :=
  storeWord s w b a i 4
def execStd (w : BitVec 3) (b a : BitVec 5) (i : BitVec 12) (s : State) : Host.Outcome State Fault Refusal :=
  storeWord s w b a i 8

/-- STWT: a word and its tag byte. -/
def execStwt (w : BitVec 3) (b a : BitVec 5) (i : BitVec 12) (s : State) : Host.Outcome State Fault Refusal :=
  scalarWord s fun u =>
    match s.interlock u [a, b] none with
    | .error q => .error q
    | .ok _ => match s.locateTagged u (s.sVal u a + i.signExtend 64) .w with
      | .error q => .error q
      | .ok (ps, qs, s1) => match s1.writeParts (s.who u) none ps (leBytes 4 (s.sVal u b).toNat) with
        | .error q => .error q
        | .ok s2 => match s2.writeParts (s.who u) none qs [byteOfTag (s.sReg u b).tag] with
          | .error q => .error q
          | .ok s3 => .ok (s3.retire u w.toNat)

/-! ## Atomics (R231) -/

/-- AMO: sb is v, the old sd is c; the old value comes back when the operation is performed. -/
def execSAmo (w : BitVec 3) (d a b : BitVec 5) (op : Aop) (sc : Scope) (wide : Bool) (s : State) :
    Host.Outcome State Fault Refusal :=
  scalarWord s fun u =>
    match s.interlock u [a, b, d] (some (d, true)) with
    | .error q => .error q
    | .ok _ =>
      let ad := s.sVal u a
      let v := s.sVal u b
      let c := s.sVal u d
      let n := if wide then 8 else 4
      let mtype := match s.locate (s.who u) ad n .rw with
        | .ok (p :: _, _) => p.mtype
        | _ => 0
      let left (x : State × Bool) : Eff State :=
        if x.2 then
          .ok ((x.1.addPend u { who := u, dest := .s d.toNat, val := .wait, due := none, pc := s.pc u, conv := 3 }).retire u w.toNat)
        else .error (.wait .retry)
      if ad.toNat % n ≠ 0 then .error (.trap .align ad s)
      else match s.amo u sc ad op wide v c with
        | .ok (old, s) =>
          let (x, f) := amoResult op wide old v c
          .ok (((s.putS u d x 1).collect u f (s.num u).sr).retire u w.toNat)
        | .error (.park h (.amo _ f pl name ..)) =>
          left ((s.settleName u name n).parkAt h (.load f u d.toNat pl n (some (op, wide, v, c)) mtype))
        | .error (.full cl b (.amo _ _ pl name ..)) =>
          left ((s.settleName u name n).parkBehind cl b (.load 0 u d.toNat pl n (some (op, wide, v, c)) mtype))
        | .error (.ext q) => left (s.sendAsk u q (some d.toNat), true)
        | .error q => .error q

/-! ## Branches and jumps (R232) -/

/-- Compare two registers and branch. -/
def branchWord (s : State) (w : BitVec 3) (a b : BitVec 5) (o : BitVec 12) (test : W64 → W64 → Bool) :
    Host.Outcome State Fault Refusal :=
  scalarWord s fun u =>
    match s.interlock u [a, b] none with
    | .error q => .error q
    | .ok _ => s.branch u (test (s.sVal u a) (s.sVal u b)) (branchTarget (s.pc u) 12 o) w.toNat

def execBeq (w : BitVec 3) (a b : BitVec 5) (o : BitVec 12) (s : State) : Host.Outcome State Fault Refusal :=
  branchWord s w a b o fun x y => x == y
def execBne (w : BitVec 3) (a b : BitVec 5) (o : BitVec 12) (s : State) : Host.Outcome State Fault Refusal :=
  branchWord s w a b o fun x y => x != y
def execBlt (w : BitVec 3) (a b : BitVec 5) (o : BitVec 12) (s : State) : Host.Outcome State Fault Refusal :=
  branchWord s w a b o fun x y => x.slt y
def execBge (w : BitVec 3) (a b : BitVec 5) (o : BitVec 12) (s : State) : Host.Outcome State Fault Refusal :=
  branchWord s w a b o fun x y => y.sle x
def execBltu (w : BitVec 3) (a b : BitVec 5) (o : BitVec 12) (s : State) : Host.Outcome State Fault Refusal :=
  branchWord s w a b o fun x y => x.ult y
def execBgeu (w : BitVec 3) (a b : BitVec 5) (o : BitVec 12) (s : State) : Host.Outcome State Fault Refusal :=
  branchWord s w a b o fun x y => y.ule x

/-- BSIG: the tag, clamped to 24, below the threshold. -/
def execSBsig (w : BitVec 3) (a : BitVec 5) (h : BitVec 5) (o : BitVec 12) (s : State) : Host.Outcome State Fault Refusal :=
  scalarWord s fun u =>
    match s.interlock u [a] none with
    | .error q => .error q
    | .ok _ => s.branch u (decide ((s.sReg u a).fp.2.toNat < h.toNat)) (branchTarget (s.pc u) 12 o) w.toNat

/-- Link and jump: a target that faults leaves the link unwritten. R222 gives the link no latency: 1 clk (DESIGN CHOICE, log 131). -/
def State.linkJump (s : State) (u : UnitId) (w : BitVec 3) (d : BitVec 5) (target : W64) : Eff State :=
  if target.toNat % 4 ≠ 0 then .error (.trap .align target s)
  else if target.toNat ≥ 2 ^ 32 then .error (.trap .illegal 0 s)
  else match s.jumpTo u (target.setWidth 32) w.toNat with
    | .error q => .error q
    | .ok s1 => .ok (s1.putS u d { val := ((s.pc u) + 4).setWidth 64 } 1)

def execJal (w : BitVec 3) (d : BitVec 5) (o : BitVec 17) (s : State) : Host.Outcome State Fault Refusal :=
  scalarWord s fun u =>
    match s.interlock u [] (some (d, false)) with
    | .error q => .error q
    | .ok _ => s.linkJump u w d ((branchTarget (s.pc u) 17 o).setWidth 64)
def execJalr (w : BitVec 3) (d a : BitVec 5) (i : BitVec 12) (s : State) : Host.Outcome State Fault Refusal :=
  scalarWord s fun u =>
    match s.interlock u [a] (some (d, false)) with
    | .error q => .error q
    | .ok _ => s.linkJump u w d (s.sVal u a + i.signExtend 64)

end Sys2Proof.Machine
end

