-- ==== Sys2Proof/Machine/EngineXform.lean ====
section
/-! DEFINITION. The engines' common mechanism (R216, R233, R305) and the transform unit (R291 to R304). -/

namespace Sys2Proof.Machine

/-! ## Register sets -/

def Eng.index : Eng → Nat
  | .transform => 0
  | .condenser => 1
  | .merge => 2

/-- The bits that an EWR keeps of a shadow register: none where the map defines no writable register. -/
def ewrMask (e r : Nat) : Option Nat :=
  match e, r with
  | 0, 0 => some 0xFFFE0000
  | 0, 1 | 0, 2 => some (2 ^ 64 - 1)
  | 0, 3 | 0, 5 => some (2 ^ 32 - 1)
  | 0, 4 => some (2 ^ 48 - 1)
  | 0, 6 => some (2 ^ 49 - 1)
  | 1, 0 => some 0x01FFFFFFFFFF00FF
  | 2, 0 => some 0xFFFFFFFF0001FFFF
  | 1, r => if r ≤ 10 then some (2 ^ 64 - 1) else none
  | 2, r => if r ≤ 9 then some (2 ^ 64 - 1) else none
  | _, _ => none

/-- The index of an engine's status register. -/
def statusReg : Nat → Nat
  | 0 => 7
  | 1 => 11
  | _ => 10

/-- A register of the active set; the status register shows BUSY and SHREADY. -/
def Engine.read (x : Engine) (e r : Nat) : Option W64 :=
  let v := Tab.get 0 x.act r
  if r = statusReg e then some (v + BitVec.ofNat 64 (flag x.busy 15 + flag x.ready 14))
  else if (ewrMask e r).isSome then some v else none

/-- A register of the active set as a number. -/
def Engine.reg (x : Engine) (r : Nat) : Nat := (Tab.get 0 x.act r).toNat

def State.onEngine (s : State) (cl e : Nat) (f : Engine → Engine) : State :=
  s.onDense cl fun d => d.setEngine e (f (d.engine e))

/-- An operation ends with its status: BUSY clears and the event latch is set (R305). -/
def State.endEngine (s : State) (cl e : Nat) (status : Nat) : State :=
  let s := s.onEngine cl e fun x =>
    { x with busy := false, spill := [], result := none, act := Tab.set x.act (statusReg e) (BitVec.ofNat 64 status) }
  (s.dropDelivered (.engine cl e)).onDense cl fun d => { d with sc := { d.sc with latch := true } }

/-- FAILED with a cause. -/
def failStatus (c : Cause) (rest : Nat) : Nat := c.code * 2 ^ 56 + 2 ^ 13 + rest

/-- The node stops on an engine's cause (R304, R308). -/
def State.stopEngine (s : State) (cl e : Nat) (c : Cause) (a : W64) : State :=
  s.stopUnit (.engine cl e) (mkReport c (.engine cl e) false 0 0 a)

/-- The bytes of a descriptor of one run of bytes: SRC unused, DST, SETYPE and DETYPE UINT8, one dimension (R66). -/
def spillDesc (dst : W64) (n : Nat) : List Byte :=
  let zeros (n : Nat) : List Byte := List.replicate n 0
  let code := ElemType.code .uint8
  zeros 8 ++ w64Bytes dst ++ zeros 0x2C ++ leBytes 4 (2 ^ 14 + 16 * code + code) ++ zeros 8 ++ leBytes 4 n ++ zeros 0x2C ++
    leBytes 4 1 ++ zeros 0x2C ++ leBytes 4 1 ++ zeros 0x54

/-- The copy engine takes spill writes while its transform queue of 4 has room (R63); the unit stalls on the rest. What one command
of this requester covers is not stated: the model makes each contiguous run one command (DESIGN CHOICE, log 100). -/
def State.feedSpill (s : State) (cl e : Nat) : Nat → State
  | 0 => s
  | n + 1 =>
    match ((s.dense cl).engine e).spill with
    | [] => s
    | (a, bs) :: rest =>
      if (Tab.get [] (s.cluster cl).ce.q 3).length ≥ 4 then s
      else
        let c : CopyCmd := { id := 0, desc := spillDesc a bs.length, q := 3, issuer := .engine cl e, core := cornerCore cl, spill := bs }
        let (s, _) := s.enqueueCopy cl 3 c []
        (s.onEngine cl e fun x => { x with spill := rest }).feedSpill cl e n

/-- Writes of an operation that are not yet performed at their points. -/
def State.engineOut (s : State) (cl e : Nat) : Bool :=
  (s.storesOut.any fun f => f.who == .engine cl e) || (e == 0 && !(Tab.get [] (s.cluster cl).ce.q 3).isEmpty)

/-- An operation whose result stands ends once every write of it is performed, spill writes included: its release comes before it
reports completion (R216, R303). -/
def State.concludeEngine (s : State) (cl e : Nat) : State :=
  let s := s.feedSpill cl e 4
  let x := (s.dense cl).engine e
  match x.result with
  | none => s
  | some r =>
    if !x.spill.isEmpty || s.engineOut cl e then s
    else
      let s := s.endEngine cl e r.status
      match r.stop with
      | none => s
      | some (c, a) => s.stopEngine cl e c a

/-- An operation has made its writes: what it comes to when they are performed. -/
def State.resultEngine (s : State) (cl e : Nat) (r : EngEnd) : State :=
  (s.onEngine cl e fun x => { x with result := some r }).concludeEngine cl e

/-- An operation fails: it ends FAILED, and its node stops, when what it has written is performed (R216, R305). -/
def State.failOperation (s : State) (cl e : Nat) (c : Cause) (a : W64) : State :=
  (s.onEngine cl e fun x =>
    if (x.result.bind (·.stop)).isSome then x else { x with spill := [], result := some { status := failStatus c 0, stop := some (c, a) } }).concludeEngine cl e

/-- An operation under way goes on: its earlier writes first, as far as the agenda has not left them. -/
def State.pushEngine (s : State) (cl e : Nat) : State := (s.drain (.engine cl e)).concludeEngine cl e

/-! ## Spans at a swap -/

/-- Where bytes from an address on lie: a flat key of this device's memories, or a DVA on an axis of its own. -/
def State.spanKey (s : State) (w : Who) (a : W64) : Option Nat :=
  match s.resolve w a 0 with
  | .ok (.inl p) => s.key p
  | .ok (.inr dva) => some (2 ^ 60 + dva)
  | .error _ => none

/-- Do two spans share a byte? -/
def State.spansTouch (s : State) (w : Who) (a : W64) (n : Nat) (b : W64) (m : Nat) : Bool :=
  match s.spanKey w a, s.spanKey w b with
  | some x, some y => decide (0 < n ∧ 0 < m ∧ x < y + m ∧ y < x + n)
  | _, _ => false

/-- Which memories a span may lie in. -/
inductive Home where
  | scratch      -- the cluster's scratchpad
  | spill        -- the scratchpad, a CMEM, or memory behind translation
  | array        -- the cluster's scratchpad, its CMEM, its tile memories, or HBM
deriving DecidableEq, Repr

def homeOk (h : Home) (cl : Nat) (p : Place ⊕ Nat) : Bool :=
  match h, p with
  | _, .inl (.scratch c _) => c == cl
  | .spill, .inl (.cmem _ _) | .spill, .inr _ | .array, .inr _ => true
  | .array, .inl (.cmem c _) => c == cl
  | .array, .inl (.tile k _) => clusterOf k == cl
  | _, _ => false

/-- A span of n bytes inside its space, the fence and the memories allowed. -/
def State.spanOk (s : State) (w : Who) (cl : Nat) (h : Home) (a : W64) (n : Nat) : Bool :=
  match s.resolve w a n with
  | .ok p => homeOk h cl p
  | .error _ => false

/-! ## The transform unit's operation (R298, R299) -/

/-- cos(2πm/256) for m = 0 to 64, each correctly rounded to FP32 (R300). -/
def cosTable : List Nat :=
  [0x3F800000, 0x3F7FEC43, 0x3F7FB10F, 0x3F7F4E6D, 0x3F7EC46D, 0x3F7E1324, 0x3F7D3AAC, 0x3F7C3B28] ++
  [0x3F7B14BE, 0x3F79C79D, 0x3F7853F8, 0x3F76BA07, 0x3F74FA0B, 0x3F731447, 0x3F710908, 0x3F6ED89E] ++
  [0x3F6C835E, 0x3F6A09A7, 0x3F676BD8, 0x3F64AA59, 0x3F61C598, 0x3F5EBE05, 0x3F5B941A, 0x3F584853] ++
  [0x3F54DB31, 0x3F514D3D, 0x3F4D9F02, 0x3F49D112, 0x3F45E403, 0x3F41D870, 0x3F3DAEF9, 0x3F396842] ++
  [0x3F3504F3, 0x3F3085BB, 0x3F2BEB4A, 0x3F273656, 0x3F226799, 0x3F1D7FD1, 0x3F187FC0, 0x3F13682A] ++
  [0x3F0E39DA, 0x3F08F59B, 0x3F039C3D, 0x3EFC5D27, 0x3EF15AEA, 0x3EE63375, 0x3EDAE880, 0x3ECF7BCA] ++
  [0x3EC3EF15, 0x3EB8442A, 0x3EAC7CD4, 0x3EA09AE5, 0x3E94A031, 0x3E888E93, 0x3E78CFCC, 0x3E605C13] ++
  [0x3E47C5C2, 0x3E2F10A2, 0x3E164083, 0x3DFAB273, 0x3DC8BD36, 0x3D96A905, 0x3D48FB30, 0x3CC90AB0] ++
  [0]

structure Xform where
  op : Nat
  l : Nat
  iet : Nat
  oet : Nat
  tags : Bool
  src : W64
  dst : W64
  t : Nat
  q : Nat
  tpitch : Nat
  pitchc : Nat
  pitchr : Nat
  slstr : Nat
  tagb : BitVec 49

def Xform.ofEngine (x : Engine) : Xform :=
  let c := x.reg 0
  { op := bits c 31 30, l := bits c 29 26, iet := bits c 25 22, oet := bits c 21 18, tags := bits c 17 17 == 1
    src := Tab.get 0 x.act 1, dst := Tab.get 0 x.act 2, t := bits (x.reg 3) 31 16, q := bits (x.reg 3) 15 0
    tpitch := bits (x.reg 4) 47 32, pitchc := bits (x.reg 4) 31 16, pitchr := bits (x.reg 4) 15 0
    slstr := bits (x.reg 5) 31 0, tagb := BitVec.ofNat 49 (x.reg 6) }

def Xform.inv (x : Xform) : Bool := x.op == 1
def Xform.b (x : Xform) : Nat := 2 ^ x.l
/-- Element sizes of the frequency and of the time side. -/
def Xform.fsize (x : Xform) : Nat := ElemType.size (etOf (if x.inv then x.iet else x.oet))
def Xform.tsize (x : Xform) : Nat := ElemType.size (etOf (if x.inv then x.oet else x.iet))
def Xform.live (x : Xform) : Bool := x.t != 0 && x.q != 0

/-- Offset of half-complex position p of block j of token t (R293, R294). -/
def Xform.freqOff (x : Xform) (t j p : Nat) : Nat :=
  let sg := if p < 2 then p else p / 2 + 1
  sg * x.slstr + t * (if sg < 2 then x.pitchr else x.pitchc) + (if p < 2 then j else 2 * j + p % 2) * x.fsize
/-- Offset of element p of block j of token t of a time tensor. -/
def Xform.timeOff (x : Xform) (t j p : Nat) : Nat := t * x.tpitch + (j * x.b + p) * x.tsize

def Xform.fspan (x : Xform) : Nat := if x.live then x.b / 2 * x.slstr + x.t * x.pitchc else 0
def Xform.tspan (x : Xform) : Nat := if x.live then (x.t - 1) * x.tpitch + x.q * x.b * x.tsize else 0

/-- The checks of R299 in table order. -/
def State.checkXform (s : State) (cl : Nat) (x : Xform) : Option Cause :=
  let w := s.who (.engine cl 0)
  let fb := if x.inv then x.src else x.dst
  let tb := if x.inv then x.dst else x.src
  let n := if x.inv then x.fspan else x.tspan
  let m := if x.inv then x.tspan else x.fspan
  if x.op = 3 ∨ x.l < 2 ∨ x.l > 8 ∨ x.iet > 1 ∨ x.oet > 1 then some .descriptor
  else if x.tags && (x.iet != 0 || x.oet != 0) then some .descriptor
  else if x.pitchr < x.q * x.fsize ∨ x.pitchc < 2 * x.q * x.fsize ∨ x.tpitch < x.q * x.b * x.tsize
    ∨ x.pitchr % 16 ≠ 0 ∨ x.pitchc % 16 ≠ 0 ∨ x.tpitch % 16 ≠ 0 then some .descriptor
  else if x.slstr % 256 ≠ 0 ∨ x.slstr < x.t * max x.pitchr x.pitchc then some .descriptor
  else if s.spansTouch w x.src n x.dst m then some .descriptor
  else if fb.toNat % 256 ≠ 0 ∨ tb.toNat % 16 ≠ 0 then some .align
  else if !s.spanOk w cl .scratch x.src n || !s.spanOk w cl .spill x.dst m then some .space
  else none

/-! ## The algorithm (R300 to R302) -/

/-- A component: its FP32 code and tag. -/
abbrev Comp := Nat × Tag
/-- A complex value. -/
abbrev Cx := Comp × Comp

def cosCode (m : Nat) : Nat :=
  let m := m % 256
  let m := if m > 128 then 256 - m else m
  if m ≤ 64 then cosTable.getD m 0 else negCode (cosTable.getD (128 - m) 0)
/-- ω(m) of size b, m below b/2: the signs of zero as R301 gives them. -/
def twiddle (inv : Bool) (b m : Nat) : Nat × Nat :=
  let k := m * (256 / b)
  let sn := cosTable.getD (if k ≤ 64 then 64 - k else k - 64) 0
  (cosCode k, if k = 0 then 0 else if inv then sn else negCode sn)

def compOpd (c : Comp) : Opd := opd .fp32 c.1 c.2

/-- w1 * x1 ± w2 * x2: exact products, one rounding, and its tag. -/
def dot2 (minus : Bool) (w1 : Nat) (x1 : Comp) (w2 : Nat) (x2 : Comp) : Comp × Flags :=
  let a := compOpd (w1, 24)
  let b := compOpd x1
  let c := compOpd (w2, 24)
  let d := compOpd x2
  let (p1, f1) := exactMul a.val b.val
  let (p2, f2) := exactMul c.val d.val
  let p2 := if minus then p2.negate else p2
  let (v, f3) := exactAdd .rne p1 p2
  let (r, f4) := roundTo .fp32 .rne 0 v
  let t1 := exactMulTag .fp32 a.val 24 24 b.val b.tag 24
  let t2 := exactMulTag .fp32 c.val 24 24 d.val d.tag 24
  ((r, BitVec.ofNat 5 (addTag .fp32 p1 t1 24 p2 t2 24 (decodeNum .fp32 r))), f1 ||| f2 ||| f3 ||| f4)

/-- The tag of a component moved by ±1 or ±i; an infinity or NaN has none. -/
def keepTag (r : Comp) (t : Tag) : Comp := (r.1, if (decodeNum .fp32 r.1).isFinite then BitVec.ofNat 5 (min t.toNat 24) else 0)

/-- t = ω v. -/
def twist (inv : Bool) (b m : Nat) (v : Cx) : Cx × Flags :=
  let (wr, wi) := twiddle inv b m
  let (re, f) := dot2 true wr v.1 wi v.2
  let (im, g) := dot2 false wr v.2 wi v.1
  let t : Cx := if m = 0 then (keepTag re v.1.2, keepTag im v.2.2)
    else if 4 * m = b then (keepTag re v.2.2, keepTag im v.1.2)
    else (re, im)
  (t, f ||| g)

/-- R(c (u ± t)) of one component; its tag is that of the unscaled sum (R302). -/
def butterfly (minus half : Bool) (u t : Comp) : Comp × Flags :=
  let a := compOpd u
  let b := compOpd t
  let bv := if minus then b.val.negate else b.val
  let (v, f) := exactAdd .rne a.val bv
  let (r, g) := roundTo .fp32 .rne 0 (if half then Num.scale (-1) v else v)
  let (sum, _) := roundTo .fp32 .rne 0 v
  let tag := addTag .fp32 a.val a.tag 24 bv b.tag 24 (decodeNum .fp32 sum)
  ((r, BitVec.ofNat 5 (if (decodeNum .fp32 r).isFinite then tag else 0)), f ||| g)

def zeroCx : Cx := ((0, 24), (0, 24))

/-- One stage: h = 2^(s-1); element i of the result from its pair. -/
def stage (inv : Bool) (b h : Nat) (half : Bool) (a : List Cx) : List Cx × Flags :=
  (List.range b).foldl (fun (out, f) i =>
    let minus := decide (i % (2 * h) ≥ h)
    let lo := if minus then i - h else i
    let u := a.getD lo zeroCx
    let (t, f1) := twist inv b (lo % (2 * h) * (b / (2 * h))) (a.getD (lo + h) zeroCx)
    let (re, f2) := butterfly minus half u.1 t.1
    let (im, f3) := butterfly minus half u.2 t.2
    (out ++ [(re, im)], f ||| f1 ||| f2 ||| f3)) ([], 0)

def stages (inv : Bool) (b scaled : Nat) : Nat → Nat → List Cx → List Cx × Flags
  | 0, _, a => (a, 0)
  | n + 1, k, a =>
    let (a, f) := stage inv b (2 ^ (k - 1)) (decide (k ≤ scaled)) a
    let (r, g) := stages inv b scaled n (k + 1) a
    (r, f ||| g)

/-- The bits of an index reversed. -/
def bitReverse : Nat → Nat → Nat
  | 0, _ => 0
  | l + 1, n => n % 2 * 2 ^ l + bitReverse l (n / 2)

/-- One block vector (R300): its outputs and flags. -/
def transformVec (op l : Nat) (xs : List Comp) : List Comp × Flags :=
  let b := 2 ^ l
  let x (i : Nat) : Comp := xs.getD i (0, 24)
  let z (n : Nat) : Cx :=
    if op ≠ 1 then (x n, (0, 24))
    else if n = 0 then (x 0, (0, 24))
    else if n = b / 2 then (x 1, (0, 24))
    else if n < b / 2 then (x (2 * n), x (2 * n + 1))
    else let k := b - n; (x (2 * k), (negCode (x (2 * k + 1)).1, (x (2 * k + 1)).2))
  let scaled := if op = 0 then (l + 1) / 2 else if op = 1 then l / 2 else 0
  let (a, f) := stages (op == 1) b scaled l 1 ((List.range b).map fun i => z (bitReverse l i))
  let g (i : Nat) : Cx := a.getD i zeroCx
  (if op = 1 then (List.range b).map fun n => (g n).1
   else [(g 0).1, (g (b / 2)).1] ++ (List.range (b / 2 - 1)).flatMap fun k => [(g (k + 1)).1, (g (k + 1)).2], f)

/-! ## Running it (R303 to R305) -/

/-- What an operation has produced: elements by destination offset with their poison, tags by offset, flags, and the cause
that stopped it. -/
structure XRun where
  out : List (Nat × List PByte) := []
  tags : List (Nat × Nat) := []
  flags : Flags := 0
  fault : Option Cause := none

/-- The source of one vector: its components and whether any of its bytes is poisoned; or the cause that stops it. -/
def State.xformSource (s : State) (cl : Nat) (x : Xform) (t j : Nat) : Except Cause (List Comp × Bool) :=
  let w := s.who (.engine cl 0)
  let e := etOf x.iet
  let n := ElemType.size e
  (List.range x.b).foldl (fun r p => match r with
    | .error c => .error c
    | .ok (cs, bad) =>
      let a := addrPlus x.src ((if x.inv then x.freqOff t j p else x.timeOff t j p : Nat) : Int)
      match s.resolve w a n with
      | .ok (.inl (.scratch c o)) =>
        let (_, _, dom) := s.blockMeta c (o / 256)
        if (if x.inv then dom != 1 else dom == 1 || dom == 2) then .error .domain
        else
          let k := s.scratchKey c o
          let code := widen e (leNat (s.readKey k n))
          let plain : Except Cause (List Comp × Bool) := .ok (cs ++ [(code, fullTag e (leNat (s.readKey k n)))], bad || s.poisoned k n)
          if !x.tags then plain
          else match tagAddr x.tagb a with
            | none => .error .space
            | some ta => match s.resolve w ta 1 with
              | .ok (.inl (.scratch c2 o2)) =>
                let k2 := s.scratchKey c2 o2
                .ok (cs ++ [(code, tagOfByte (memGet s.mem k2))], bad || s.poisoned k n || s.poisoned k2 1)
              | .error q => .error q
              | .ok _ => .error .space
      | .error q => .error q
      | .ok _ => .error .space) (.ok ([], false))

/-- Zeros from a row's last element up to its pitch (R294). -/
def Xform.padding (x : Xform) (t : Nat) : List (Nat × List PByte) :=
  (List.range (x.b / 2 + 1)).filterMap fun sg =>
    let pitch := if sg < 2 then x.pitchr else x.pitchc
    let used := (if sg < 2 then x.q else 2 * x.q) * x.fsize
    if used < pitch then some (sg * x.slstr + t * pitch + used, List.replicate (pitch - used) (0, false)) else none

/-- Vectors in order, until one's source stops the operation. -/
def State.xformRun (s : State) (cl : Nat) (x : Xform) : Nat → Nat → XRun → XRun
  | 0, _, r => r
  | n + 1, v, r =>
    if r.fault.isSome then r
    else
      let t := v / x.q
      let j := v % x.q
      match s.xformSource cl x t j with
      | .error c => { r with fault := some c }
      | .ok (cs, bad) =>
        let (ys, f) := transformVec x.op x.l cs
        let e := etOf x.oet
        let r := ((List.range ys.length).zip ys).foldl (fun (r : XRun) (p, y) =>
          let off := if x.inv then x.timeOff t j p else x.freqOff t j p
          let z := convert e .fp32 .rne 0 y.1 y.2
          let bytes := (leBytes (ElemType.size e) z.code).map fun b => (b, bad)
          { r with out := r.out ++ [(off, bytes)], tags := r.tags ++ [(off, z.tag)], flags := r.flags ||| z.flags })
          { r with flags := r.flags ||| f }
        let r := if !x.inv && j + 1 == x.q then { r with out := r.out ++ x.padding t } else r
        s.xformRun cl x n (v + 1) r

/-- Pieces in rising offset joined where they touch. -/
def joinRuns : List (Nat × List PByte) → List (Nat × List PByte)
  | [] => []
  | (o, bs) :: xs => match joinRuns xs with
    | (o2, cs) :: ys => if o + bs.length = o2 then (o, bs ++ cs) :: ys else (o, bs) :: (o2, cs) :: ys
    | [] => [(o, bs)]

/-- The destination's DOM (R295). -/
def xformDom : Nat → Nat
  | 0 => 1
  | 2 => 2
  | _ => 0

/-- Does an address lie in a scratchpad? -/
def State.inScratch (s : State) (w : Who) (a : W64) : Bool :=
  match s.resolve w a 1 with
  | .ok (.inl (.scratch _ _)) => true
  | _ => false

/-- The writes of an operation inside the scratchpad; those outside, left for the copy engine. -/
def State.splitWrites (s : State) (w : Who) (xs : List CWrite) : List CWrite × List (W64 × List PByte) :=
  let (here, there) := xs.partition fun x => s.inScratch w x.addr
  (here, there.map fun x => (x.addr, x.bytes))

/-- The granules of its sources are checked for errors as they are read (R375). -/
def State.checkSources (s : State) (cl : Nat) (x : Xform) : State :=
  if s.soft.isEmpty && s.hard.isEmpty then s
  else
    let w := s.who (.engine cl 0)
    let n := ElemType.size (etOf x.iet)
    let at' (a : W64) (n : Nat) : List Nat := match s.resolve w a n with
      | .ok (.inl (.scratch c o)) => granules (s.scratchKey c o) n
      | _ => []
    let gs := (List.range (x.t * x.q)).flatMap fun v => (List.range x.b).flatMap fun p =>
      let a := addrPlus x.src ((if x.inv then x.freqOff (v / x.q) (v % x.q) p else x.timeOff (v / x.q) (v % x.q) p : Nat) : Int)
      at' a n ++ (if x.tags then ((tagAddr x.tagb a).map fun ta => at' ta 1).getD [] else [])
    gs.eraseDups.foldl State.checkGranule s

/-- TRANSFORM_COMPLETE: the operation's vectors, its writes, and its end when they are performed. Writes outside the scratchpad go
through the copy engine's transform requester (R299). -/
def State.runXform (s : State) (cl : Nat) : State :=
  let eng := (s.dense cl).engine 0
  if !eng.busy then s
  else if eng.result.isSome then s.pushEngine cl 0
  else
    let x := Xform.ofEngine eng
    let r := s.xformRun cl x (x.t * x.q) 0 {}
    let s := s.checkSources cl x
    let w := s.who (.engine cl 0)
    let sorted (l : List (Nat × List PByte)) : List (Nat × List PByte) := joinRuns (l.mergeSort fun a b => decide (a.1 ≤ b.1))
    let data : List CWrite := (sorted r.out).map fun (o, bs) =>
      { addr := addrPlus x.dst (o : Int), bytes := bs, wr := some (xformDom x.op, etOf x.oet) }
    let tags : Option (List (Nat × List PByte)) := if !x.tags then some [] else
      r.tags.mapM fun (o, t) => (tagAddr x.tagb (addrPlus x.dst (o : Int))).map fun a =>
        (a.toNat, [(byteOfTag (BitVec.ofNat 5 t), false)])
    let tags : Option (List CWrite) := tags.map fun l => (sorted l).map fun (a, bs) => { addr := BitVec.ofNat 64 a, bytes := bs }
    let least := if r.tags.isEmpty then 0 else r.tags.foldl (fun m t => min m t.2) 24
    let fault := if tags.isNone then some .space else r.fault
    let result : EngEnd := match fault with
      | some c => { status := failStatus c 0, stop := some (c, 0) }
      | none => { status := least * 2 ^ 8 + r.flags.toNat }
    let (here, there) := s.splitWrites w (data ++ tags.getD [])
    match s.admitWrites w here with
    | .error (.trap c _ t) => (s.missOf t).failOperation cl 0 c 0
    | .error e => s.copyWaits (.engine cl 0) e
    | .ok (ys, s) => ((s.writeAll w 0 false ys).onEngine cl 0 fun x => { x with spill := there }).resultEngine cl 0 result

end Sys2Proof.Machine
end

