-- ==== Sys2Proof/Machine/EngineSparse.lean ====
section
/-! DEFINITION. The condenser (R307 to R310) and the merge unit (R312, R313) over compressed-row arrays (R306). -/

namespace Sys2Proof.Machine

/-! ## Compressed rows (R306) -/

/-- A value of an array: its code and whether it is poisoned. -/
abbrev SVal := Nat × Bool

/-- The entries of each row, in order: index and value. -/
abbrev Rows := List (List (Nat × SVal))

/-- Why an input cannot be used: metadata, malformed or poisoned, or an access. -/
inductive Bad where
  | metadata (c : Cause)
  | access (e : Stop)

/-- Read n bytes of an input array, which may lie where R308 says; none at n = 0. -/
def State.readArray (s : State) (cl e : Nat) (a : W64) (n : Nat) : Except Bad (List PByte × State) :=
  let w := s.who (.engine cl e)
  if n = 0 then .ok ([], s)
  else match s.resolve w a n with
    | .error c => .error (.access (.trap c a s))
    | .ok p =>
      if !homeOk .array cl p then .error (.access (.trap .space a s))
      else match s.copyRead w a n .r with
        | .error x => .error (.access x)
        | .ok r => .ok r

/-- Entries of n bytes each. -/
def entriesOf (n : Nat) (bs : List PByte) : List SVal :=
  (List.range (bs.length / n)).map fun i =>
    let b := (bs.drop (n * i)).take n
    (leNat (b.map (·.1)), b.any (·.2))

/-- Do numbers never decrease? -/
def neverFalls : List Nat → Bool
  | x :: y :: xs => decide (x ≤ y) && neverFalls (y :: xs)
  | _ => true
/-- Do numbers strictly increase? -/
def rises : List Nat → Bool
  | x :: y :: xs => decide (x < y) && rises (y :: xs)
  | _ => true

/-- The rows that pointers cut from entries. -/
def cutRows {α : Type} (xs : List α) : List Nat → List (List α)
  | a :: b :: ps => (xs.drop a).take (b - a) :: cutRows xs (b :: ps)
  | _ => []

/-- A compressed-row matrix of r rows with values of n bytes and indices below a limit. -/
def State.readRows (s : State) (cl e : Nat) (rp ci val : W64) (r n limit : Nat) : Except Bad (Rows × State) :=
  match s.readArray cl e rp (4 * (r + 1)) with
  | .error x => .error x
  | .ok (bs, s) =>
    let ps := entriesOf 4 bs
    let at' := ps.map (·.1)
    if ps.any (·.2) then .error (.metadata .poison)
    else if at'.headD 0 ≠ 0 ∨ !neverFalls at' then .error (.metadata .descriptor)
    else
      let total := at'.getLastD 0
      match s.readArray cl e ci (4 * total) with
      | .error x => .error x
      | .ok (cs, s) =>
        let is := entriesOf 4 cs
        if is.any (·.2) then .error (.metadata .poison)
        else if (is.any fun i => decide (i.1 ≥ limit)) || (cutRows (is.map (·.1)) at').any fun x => !rises x then
          .error (.metadata .descriptor)
        else match s.readArray cl e val (n * total) with
          | .error x => .error x
          | .ok (vs, s) => .ok (cutRows ((is.map (·.1)).zip (entriesOf n vs)) at', s)

/-- A value counts as nonzero, and as non-finite, when it is poisoned. -/
def valNonzero (e : ElemType) (v : SVal) : Bool :=
  v.2 || (if ElemType.isFloat e then !(decodeNum e v.1).isZero else v.1 != 0)
def valNonFinite (e : ElemType) (v : SVal) : Bool := v.2 || (ElemType.isFloat e && !(decodeNum e v.1).isFinite)

/-- The value of a row at an index. -/
def rowAtIndex (row : List (Nat × SVal)) (k : Nat) : Option SVal := (row.find? fun x => x.1 == k).map (·.2)

/-! ## The condenser -/

structure CondSet where
  kcap : Nat
  klen : Nat
  kstart : Nat
  betCode : Nat
  aetCode : Nat
  adst : W64
  bdst : W64
  klist : W64
  bgstr : Nat
  agstr : Nat

def CondSet.ofEngine (x : Engine) : CondSet :=
  let c := x.reg 0
  { kcap := bits c 56 48, klen := bits c 47 32, kstart := bits c 31 16, betCode := bits c 7 4, aetCode := bits c 3 0
    adst := Tab.get 0 x.act 7, bdst := Tab.get 0 x.act 8, klist := Tab.get 0 x.act 9
    bgstr := bits (x.reg 10) 63 32, agstr := bits (x.reg 10) 31 0 }

def CondSet.aet (c : CondSet) : ElemType := etOf c.aetCode
def CondSet.bet (c : CondSet) : ElemType := etOf c.betCode
def CondSet.s (c : CondSet) : Nat := ElemType.size c.aet
/-- The row groups of an output at KCAP: each an address and its bytes; those of the list. -/
def condSpans (c : CondSet) (dst : W64) (stride n : Nat) : List (W64 × Nat) :=
  (List.range n).map fun h => (addrPlus dst ((h * stride : Nat) : Int), 16 * c.kcap)
def CondSet.listSpan (c : CondSet) : Nat := 4 * (c.kcap / c.s)

/-- Every output span at KCAP: 2 row groups of A′, 4 of B′, the list (R308). -/
def CondSet.spans (c : CondSet) : List (W64 × Nat) :=
  condSpans c c.adst c.agstr 2 ++ condSpans c c.bdst c.bgstr 4 ++ [(c.klist, c.listSpan)]

/-- Do two of some spans share a byte? -/
def State.anyTouch (s : State) (w : Who) : List (W64 × Nat) → Bool
  | [] => false
  | x :: xs => (xs.any fun y => s.spansTouch w x.1 x.2 y.1 y.2) || s.anyTouch w xs

/-- The types an operand may have (R308). -/
def condType (c : Nat) : Bool :=
  match ElemType.ofCode c with
  | some .fp32 | some .bf16 | some .fp16 | some .e4m3 | some .e5m2 | some .m8 | some .int8 => true
  | _ => false

/-- The checks of R308 in table order. -/
def State.checkCond (s : State) (cl : Nat) (c : CondSet) : Option Cause :=
  let w := s.who (.engine cl 1)
  let outs := c.spans
  if !condType c.aetCode || !condType c.betCode || ElemType.size c.aet != ElemType.size c.bet then some .descriptor
  else if c.kcap % 16 ≠ 0 ∨ c.kcap < 16 ∨ c.kcap > 384 ∨ c.kstart + c.klen > 65536 ∨ c.agstr % 256 ≠ 0 ∨ c.bgstr % 256 ≠ 0 then
    some .descriptor
  else if [c.adst, c.bdst, c.klist].any fun x => !s.spanOk w cl .scratch x 1 then some .space
  else if c.adst.toNat % 256 ≠ 0 ∨ c.bdst.toNat % 256 ≠ 0 ∨ c.klist.toNat % 4 ≠ 0 then some .align
  else if outs.any fun x => !s.spanOk w cl .scratch x.1 x.2 then some .space
  else if s.anyTouch w outs then some .descriptor
  else none

/-- The kept indices from k on, and the first index not examined when the limit stops it (R309). -/
def keepIndices (c : CondSet) (a b : Rows) : Nat → Nat → List Nat → List Nat × Option Nat
  | 0, _, kept => (kept, none)
  | n + 1, k, kept =>
    let as := a.filterMap fun row => rowAtIndex row k
    let bs := (b.getD (k - c.kstart) []).map (·.2)
    let keep := (as.any (valNonzero c.aet) && bs.any (valNonzero c.bet)) || as.any (valNonFinite c.aet) || bs.any (valNonFinite c.bet)
    if !keep then keepIndices c a b n (k + 1) kept
    else if 16 * (((kept.length + 1) * c.s + 15) / 16) > c.kcap then (kept, some k)
    else keepIndices c a b n (k + 1) (kept ++ [k])

/-- The blocks of an output: K groups of each row group, 16 rows of 16 bytes. -/
def condBlocks (dst : W64) (stride groups kout size : Nat) (e : ElemType) (val : Nat → Nat → SVal) : List CWrite :=
  (List.range groups).flatMap fun h => (List.range (kout / 16)).map fun g =>
    { addr := addrPlus dst ((h * stride + 256 * g : Nat) : Int)
      bytes := (List.range 16).flatMap fun r => (List.range (16 / size)).flatMap fun j =>
        let v := val (16 * h + r) (16 / size * g + j)
        (leBytes size v.1).map fun x => (x, v.2)
      wr := some (0, e) }

/-- Poison over n bytes at an address. -/
def poisonWrite (a : W64) (n : Nat) : List CWrite :=
  if n = 0 then [] else [{ addr := a, bytes := List.replicate n (0, true) }]

/-- An operation's writes and its end, when they are performed. -/
def State.finishSparse (s : State) (cl e : Nat) (xs : List CWrite) (status : Nat) : State :=
  let u : UnitId := .engine cl e
  let w := s.who u
  match s.admitWrites w xs with
  | .error (.trap c a t) => (s.missOf t).failOperation cl e c a
  | .error x => s.copyWaits u x
  | .ok (ys, s) => (s.writeAll w 0 false ys).resultEngine cl e { status := status }

/-- What an input that cannot be used comes to: poisoned outputs, or a failure that stops the node, or a wait (R308, R310). -/
def State.badInput (s : State) (cl e : Nat) (spoil : List CWrite) (rest : Nat) : Bad → State
  | .metadata c => s.finishSparse cl e spoil (failStatus c (2 * 2 ^ 8 + rest))
  | .access (.trap c a t) => (s.missOf t).failOperation cl e c a
  | .access x => s.copyWaits (.engine cl e) x

/-- CONDENSER_COMPLETE. -/
def State.runCond (s : State) (cl : Nat) : State :=
  let eng := (s.dense cl).engine 1
  if !eng.busy then s
  else if eng.result.isSome then s.pushEngine cl 1
  else
    let c := CondSet.ofEngine eng
    let r (i : Nat) : W64 := Tab.get 0 eng.act i
    let status (knext nkept kout st : Nat) : Nat := knext * 2 ^ 38 + nkept * 2 ^ 29 + kout * 2 ^ 20 + st * 2 ^ 8
    let spoil := c.spans.flatMap fun (a, n) => poisonWrite a n
    let bad := s.badInput cl 1 spoil (status (c.kstart + c.klen) 0 c.kcap 0)
    match s.readRows cl 1 (r 1) (r 2) (r 3) 32 c.s (2 ^ 32) with
    | .error x => bad x
    | .ok (a, s1) => match s1.readRows cl 1 (r 4) (r 5) (r 6) c.klen c.s 64 with
      | .error x => bad x
      | .ok (b, s2) =>
        let (kept, stopAt) := keepIndices c a b c.klen c.kstart []
        let kout := 16 * ((kept.length * c.s + 15) / 16)
        let zero : SVal := (0, false)
        let aval (i j : Nat) : SVal := match kept[j]? with
          | some k => (rowAtIndex (a.getD i []) k).getD zero
          | none => zero
        let bval (i j : Nat) : SVal := match kept[j]? with
          | some k => (rowAtIndex (b.getD (k - c.kstart) []) i).getD zero
          | none => zero
        let list : List CWrite := if kept.isEmpty then []
          else [{ addr := c.klist, bytes := kept.flatMap fun k => (leBytes 4 k).map fun x => (x, false) }]
        s2.finishSparse cl 1
          (condBlocks c.adst c.agstr 2 kout c.s c.aet aval ++ condBlocks c.bdst c.bgstr 4 kout c.s c.bet bval ++ list)
          (status (stopAt.getD (c.kstart + c.klen)) kept.length kout (if stopAt.isSome then 1 else 0))

/-! ## The merge unit -/

structure Mrg where
  ocap : Nat
  keepz : Bool
  rows : Nat
  base : Nat → W64

def Mrg.ofEngine (x : Engine) : Mrg :=
  { ocap := bits (x.reg 0) 63 32, keepz := bits (x.reg 0) 16 16 == 1, rows := bits (x.reg 0) 15 0, base := fun i => Tab.get 0 x.act i }

/-- The checks of R312: alignment, output spans, overlap. -/
def State.checkMerge (s : State) (cl : Nat) (m : Mrg) : Option Cause :=
  let w := s.who (.engine cl 2)
  let ptrs := 4 * (m.rows + 1)
  let outs := [(m.base 7, ptrs), (m.base 8, 4 * m.ocap), (m.base 9, 4 * m.ocap)]
  let o (i : Nat) : W64 × Nat := outs.getD i (0, 0)
  let meet (x y : W64 × Nat) : Bool := s.spansTouch w x.1 x.2 y.1 y.2
  if ((List.range 9).any fun i => decide ((m.base (i + 1)).toNat % 4 ≠ 0)) then some .align
  else if outs.any fun x => !s.spanOk w cl .array x.1 x.2 then some .space
  else if meet (o 0) (o 1) || meet (o 0) (o 2) || meet (o 1) (o 2) ||
      outs.any fun x => meet x (m.base 1, ptrs) || meet x (m.base 4, ptrs) then some .descriptor
  else none

/-- The union of two rows in ascending order: index, the value of each that holds it. -/
def unionRow : Nat → List (Nat × SVal) → List (Nat × SVal) → List (Nat × Option SVal × Option SVal)
  | 0, _, _ => []
  | _ + 1, [], ys => ys.map fun (c, v) => (c, none, some v)
  | _ + 1, xs, [] => xs.map fun (c, v) => (c, some v, none)
  | f + 1, (c, v) :: xs, (d, u) :: ys =>
    if c < d then (c, some v, none) :: unionRow f xs ((d, u) :: ys)
    else if d < c then (d, none, some u) :: unionRow f ((c, v) :: xs) ys
    else (c, some v, some u) :: unionRow f xs ys

/-- The result of one index and its flags: a poisoned operand poisons it. -/
def mergeVal : Option SVal → Option SVal → SVal × Flags
  | some x, some y =>
    if x.2 || y.2 then ((x.1, true), 0)
    else
      let (v, f) := exactAdd .rne (decodeNum .fp32 x.1) (decodeNum .fp32 y.1)
      let (c, g) := roundTo .fp32 .rne 0 v
      ((c, false), f ||| g)
  | some x, none => (x, 0)
  | none, some y => (y, 0)
  | none, none => ((0, false), 0)

/-- Entries and pointers written so far; `full`: an entry found no room. -/
structure MrgRun where
  ptrs : List Nat := [0]
  out : List (Nat × SVal) := []
  flags : Flags := 0
  full : Bool := false

def mergeRow (m : Mrg) (r : MrgRun) (xs : List (Nat × Option SVal × Option SVal)) : MrgRun :=
  xs.foldl (fun r (c, x, y) =>
    if r.full then r
    else
      let (v, f) := mergeVal x y
      let r := { r with flags := r.flags ||| f }
      if m.keepz || v.2 || !(decodeNum .fp32 v.1).isZero then
        if r.out.length = m.ocap then { r with full := true } else { r with out := r.out ++ [(c, v)] }
      else r) r

def mergeRows (m : Mrg) : Rows → Rows → MrgRun → MrgRun
  | x :: xs, y :: ys, r =>
    let r := mergeRow m r (unionRow (x.length + y.length + 1) x y)
    if r.full then r else mergeRows m xs ys { r with ptrs := r.ptrs ++ [r.out.length] }
  | _, _, r => r

/-- An INT32 or FP32 array as one write; none of no entries. -/
def arrayWrite (a : W64) (xs : List SVal) : List CWrite :=
  if xs.isEmpty then [] else [{ addr := a, bytes := xs.flatMap fun x => (leBytes 4 x.1).map fun b => (b, x.2) }]

/-- The result of two operands: the writes and the run. -/
def Mrg.writes (m : Mrg) (r : MrgRun) : List CWrite :=
  arrayWrite (m.base 7) (r.ptrs.map fun n => (n, false)) ++ arrayWrite (m.base 8) (r.out.map fun x => (x.1, false)) ++
    arrayWrite (m.base 9) (r.out.map (·.2))

/-- A state in which a free choice of the granules of an operation's arrays has been performed; each array has `room` of them. -/
def State.partlyWritten (s : State) (w : Who) (room : Nat) (xs : List CWrite) : State :=
  match s.admitWrites w xs with
  | .error _ => s
  | .ok (ys, t) =>
    ((List.range ys.length).zip ys).foldl (fun t (j, ps, x) =>
      let fs := (ps.foldl (fun (fs, bs) p => (fs ++ (p.flight w 0 false (bs.take p.len) x.wr).pieces, bs.drop p.len)) (([] : List Flight), x.bytes)).1
      ((List.range fs.length).zip fs).foldl (fun t (i, f) =>
        if (Config.freeByte (s.fresh + j * room + i)).getLsbD 0 then t.performStore f else t) t) t

/-- Does an output of an operation overlap an index or value array of n and m entries (R312)? -/
def State.selfTouch (s : State) (w : Who) (m : Mrg) (n k : Nat) : Bool :=
  [(m.base 7, 4 * (m.rows + 1)), (m.base 8, 4 * m.ocap), (m.base 9, 4 * m.ocap)].any fun o =>
    [(m.base 2, 4 * n), (m.base 3, 4 * n), (m.base 5, 4 * k), (m.base 6, 4 * k)].any fun i => s.spansTouch w o.1 o.2 i.1 i.2

/-- The operands of a merge. -/
def State.readOperands (s : State) (cl : Nat) (m : Mrg) : Except Bad (Rows × Rows × State) :=
  match s.readRows cl 2 (m.base 1) (m.base 2) (m.base 3) m.rows 4 (2 ^ 32) with
  | .error x => .error x
  | .ok (a, s) => match s.readRows cl 2 (m.base 4) (m.base 5) (m.base 6) m.rows 4 (2 ^ 32) with
    | .error x => .error x
    | .ok (b, s) => .ok (a, b, s)

/-- The operands with a free choice of granules new, until a result from them writes those granules as they were read. -/
def State.settleOperands (s : State) (cl : Nat) (m : Mrg) (room : Nat) : Nat → Rows → Rows → Except Bad (Rows × Rows)
  | 0, a, b => .ok (a, b)
  | n + 1, a, b => match (s.partlyWritten (s.who (.engine cl 2)) room (m.writes (mergeRows m a b {}))).readOperands cl m with
    | .error x => .error x
    | .ok (a', b', _) => if a' = a ∧ b' = b then .ok (a, b) else s.settleOperands cl m room n a' b'

/-- The operands as the unit reads them: each granule of an index or value array that an output overlaps is old or new, by a free
choice; new is what the operation itself writes there (R312; DESIGN CHOICE, log 60). -/
def State.mixedOperands (s : State) (cl : Nat) (m : Mrg) : Except Bad (Rows × Rows × State) :=
  match s.readOperands cl m with
  | .error x => .error x
  | .ok (a, b, s) =>
    let entries (r : Rows) : Nat := r.foldl (fun n x => n + x.length) 0
    if !s.selfTouch (s.who (.engine cl 2)) m (entries a) (entries b) then .ok (a, b, s)
    else
      let room := (m.rows + m.ocap + 1) / 8 + 2
      match s.settleOperands cl m room (3 * room) a b with
      | .error x => .error x
      | .ok (a, b) => .ok (a, b, { s with fresh := s.fresh + 3 * room })

/-- MERGE_COMPLETE. The spec gives no cause for FAILED_CAPACITY: CAUSE is free then (DESIGN CHOICE, log 4). -/
def State.runMerge (s : State) (cl : Nat) : State :=
  let eng := (s.dense cl).engine 2
  if !eng.busy then s
  else if eng.result.isSome then s.pushEngine cl 2
  else
    let m := Mrg.ofEngine eng
    let spoil := poisonWrite (m.base 7) (4 * (m.rows + 1)) ++ poisonWrite (m.base 8) (4 * m.ocap) ++ poisonWrite (m.base 9) (4 * m.ocap)
    let bad := s.badInput cl 2 spoil 0
    match s.mixedOperands cl m with
    | .error x => bad x
    | .ok (a, b, s) =>
      let r := mergeRows m a b {}
      let (free, s) := if r.full then s.freeBytes 1 else ([], s)
      let fail := if r.full then (free.headD 0).toNat * 2 ^ 56 + 2 ^ 13 + 3 * 2 ^ 8 else 0
      s.finishSparse cl 2 (m.writes r) (fail + r.out.length * 2 ^ 24 + r.flags.toNat)

end Sys2Proof.Machine
end

