-- ==== Sys2Proof/Machine/EngineWords.lean ====
section
/-! DEFINITION. EWR, ERD and ENGO (R233), the swap of an engine's register sets (R216, R299, R308, R312), and the completions
of operations. -/

namespace Sys2Proof.Machine

/-- The first failing check of an engine's active set. -/
def State.checkEngine (s : State) (cl e : Nat) : Option Cause :=
  let x := (s.dense cl).engine e
  match e with
  | 0 => s.checkXform cl (Xform.ofEngine x)
  | 1 => s.checkCond cl (CondSet.ofEngine x)
  | _ => s.checkMerge cl (Mrg.ofEngine x)

/-- Has the active set nothing to do (R299)? -/
def Dense.engineEmpty (d : Dense) (e : Nat) : Bool := e == 0 && !(Xform.ofEngine (d.engine 0)).live

/-- The swap: the whole shadow in one step; a failed check, or a transform of nothing, ends the operation at once. -/
def State.swapEngine (s : State) (cl e : Nat) : State :=
  let s := s.onEngine cl e fun x => { x with act := x.shadow, ready := false, busy := true }
  match s.checkEngine cl e with
  | some c => s.endEngine cl e (failStatus c 0)
  | none => if (s.dense cl).engineEmpty e then s.endEngine cl e 0 else s

/-- After an operation's end, a shadow marked ready is swapped in. -/
def State.nextEngine (s : State) (cl e : Nat) : State :=
  let x := (s.dense cl).engine e
  if !x.busy && x.ready then s.swapEngine cl e else s

/-- EWR: reserved bits are dropped (R4); a register that is read-only or not in the map is ILLEGAL. -/
def execEwr (w : BitVec 3) (a : BitVec 5) (g : Eng) (r : BitVec 10) (s : State) : Host.Outcome State Fault Refusal :=
  denseScalarWord s fun u =>
    let e := Eng.index g
    match ewrMask e r.toNat with
    | none => .error (.trap .illegal 0 s)
    | some m => match s.interlock u [a] none with
      | .error q => .error q
      | .ok _ =>
        if ((s.dense u.cl).engine e).ready then .error (.wait .retry)
        else
          let v := s.sVal u a &&& BitVec.ofNat 64 m
          .ok ((s.onEngine u.cl e fun x => { x with shadow := Tab.set x.shadow r.toNat v }).retire u w.toNat)

/-- ERD. -/
def execErd (w : BitVec 3) (d : BitVec 5) (g : Eng) (r : BitVec 10) (s : State) : Host.Outcome State Fault Refusal :=
  denseScalarWord s fun u =>
    let e := Eng.index g
    match ((s.dense u.cl).engine e).read e r.toNat with
    | none => .error (.trap .illegal 0 s)
    | some v => match s.interlock u [] (some (d, true)) with
      | .error q => .error q
      | .ok _ => .ok ((s.putS u d { val := v } 1).retire u w.toNat)

/-- ENGO. -/
def execEngo (w : BitVec 3) (g : Eng) (s : State) : Host.Outcome State Fault Refusal :=
  denseScalarWord s fun u =>
    let e := Eng.index g
    match s.fence u .rel with
    | .error q => .error q
    | .ok s =>
      if ((s.dense u.cl).engine e).ready then .error (.wait .retry)
      else
        let s := s.onEngine u.cl e fun x => { x with ready := true }
        .ok ((s.nextEngine u.cl e).retire u w.toNat)

def execTransformComplete (s : State) : Host.Outcome State Fault Refusal :=
  .next ((s.runXform s.arg.a).nextEngine s.arg.a 0)
def execCondenserComplete (s : State) : Host.Outcome State Fault Refusal :=
  .next ((s.runCond s.arg.a).nextEngine s.arg.a 1)
def execMergeComplete (s : State) : Host.Outcome State Fault Refusal :=
  .next ((s.runMerge s.arg.a).nextEngine s.arg.a 2)

end Sys2Proof.Machine
end

