-- ==== Sys2Proof/Machine/LookupAcc.lean ====
section
/-! DEFINITION. The accumulator class of the lookup stream (R156 to R165). -/

namespace Sys2Proof.Machine

/-- Write acc, collect the flags and check the tags of the lanes computed. -/
def State.putAcc (s : State) (k c : Nat) (e : ElemType) (r : LaneRun) (check : Bool) : Eff State :=
  let s := s.onCtx k c fun x => x.setLanes e r.lanes
  s.finishLanes k c r (if check && ElemType.isFloat e then r.lanes else [])

/-- Keep the generator: a run of lanes that no rounding made. -/
def LaneRun.plain (sr : W32) (ls : List (Nat × Tag)) : LaneRun := ⟨ls, 0, sr⟩

/-- A-class arithmetic on two operands, A read in full before B (R156). -/
def accBinary (e : ElemType) (a b : LOpd) (check : Bool) (s : State)
    (f : Nat × Tag → Nat × Tag → Nat × Tag → W32 → Res) : Host.Outcome State Fault Refusal :=
  lookupWord s fun k c =>
    match s.operand k c e 32 a with
    | .error q => .error q
    | .ok (xs, s) => match s.operand k c e 32 b with
      | .error q => .error q
      | .ok (ys, s) =>
        let acc := (s.ctx k c).accLanes e
        let r := runLanes (s.num (.ctx k c)).sr ((xs.zip (ys.zip acc)).map fun (x, y, d) => f x y d)
        s.putAcc k c e r check

/-- The tag an integer result carries is 31; a float keeps the tag of the operand delivered, at most P (R128, R158). A move that
delivers an infinity or a NaN keeps that tag too (DESIGN CHOICE, log 109). -/
def moveLane (e : ElemType) (l : Nat × Tag) : Nat × Tag :=
  (l.1, if ElemType.isFloat e then BitVec.ofNat 5 (readTag (precision e l.1) l.2) else 31)

/-- LDA (R160). -/
def execLda (_z : Bool) (e : ElemType) (a : LOpd) (s : State) : Host.Outcome State Fault Refusal :=
  lookupWord s fun k c =>
    match s.operand k c e 32 a with
    | .error q => .error q
    | .ok (xs, s) => s.putAcc k c e (.plain (s.num (.ctx k c)).sr (xs.map (moveLane e))) false

/-- STA (R160): 32 bytes of acc at a memory operand; another operand is ILLEGAL. -/
def execSta (_z : Bool) (e : ElemType) (a : LOpd) (s : State) : Host.Outcome State Fault Refusal :=
  lookupWord s fun k c =>
    match LOpd.pointer a with
    | none => .error (.trap .illegal 0 s)
    | some (n, step) =>
      let x := s.ctx k c
      let adr := (x.ptr n).addr
      let s := s.stepPtr k c n step
      if adr.toNat % ElemType.size e ≠ 0 then .error (.trap .align adr s)
      else match s.store (.ctx k c) adr (leBytes 32 x.acc.toNat) with
        | .error q => .error q
        | .ok s => .ok (s.retire (.ctx k c) 0)

/-- ADDA (R160). -/
def execAdda (_z : Bool) (e : ElemType) (a b : LOpd) (r : Rm) (s : State) : Host.Outcome State Fault Refusal :=
  accBinary e a b true s fun x y _ => addRes e r x y

/-- SUBA (R160). -/
def execSuba (_z : Bool) (e : ElemType) (a b : LOpd) (r : Rm) (s : State) : Host.Outcome State Fault Refusal :=
  accBinary e a b true s fun x y _ => subRes e r x y

/-- MULA (R160). -/
def execMula (_z : Bool) (e : ElemType) (a b : LOpd) (r : Rm) (s : State) : Host.Outcome State Fault Refusal :=
  accBinary e a b true s fun x y _ => mulRes e r x y

/-- MACA (R160): fused, one rounding. -/
def execMaca (_z : Bool) (e : ElemType) (a b : LOpd) (r : Rm) (s : State) : Host.Outcome State Fault Refusal :=
  accBinary e a b true s fun x y d => fmaRes e r false x y d

/-- MINA (R160): delivers an operand, so SIGTH does not check it (R130's moves, DEDUCED, log 11). -/
def execMina (_z : Bool) (e : ElemType) (a b : LOpd) (s : State) : Host.Outcome State Fault Refusal :=
  accBinary e a b false s fun x y _ => minMaxRes false e x y

/-- MAXA (R160), as MINA. -/
def execMaxa (_z : Bool) (e : ElemType) (a b : LOpd) (s : State) : Host.Outcome State Fault Refusal :=
  accBinary e a b false s fun x y _ => minMaxRes true e x y

/-- LOGA (R160). -/
def execLoga (_z : Bool) (f : LogOp) (e : ElemType) (a b : LOpd) (s : State) : Host.Outcome State Fault Refusal :=
  accBinary e a b false s fun x y _ => pureRes (logic f (ElemType.bits e) x.1 y.1) 31

/-- SHFA (R160). -/
def execShfa (_z : Bool) (f : ShiftOp) (e : ElemType) (a b : LOpd) (s : State) : Host.Outcome State Fault Refusal :=
  accBinary e a b false s fun x y _ => pureRes (shift f (ElemType.bits e) x.1 y.1) 31

/-- CVTA (R161): source type first field, destination second; bytes beyond the lanes converted become zero. `one` gives 1 in the
source type, in which the operand is read (DESIGN CHOICE, log 107). -/
def execCvta (_z : Bool) (se de : ElemType) (a : LOpd) (r : Rm) (s : State) : Host.Outcome State Fault Refusal :=
  lookupWord s fun k c =>
    let n := 32 / max (ElemType.size se) (ElemType.size de)
    match s.operand k c se (n * ElemType.size se) a with
    | .error q => .error q
    | .ok (xs, s) =>
      let run := runLanes (s.num (.ctx k c)).sr (xs.map fun x g => convert de se r g x.1 x.2)
      s.putAcc k c de run true

/-- HRED (R162): the fixed pairwise tree; only a floating sum is arithmetic that SIGTH checks. -/
def execHred (_z : Bool) (f : RedOp) (e : ElemType) (a : LOpd) (r : Rm) (s : State) : Host.Outcome State Fault Refusal :=
  lookupWord s fun k c =>
    match s.operand k c e 32 a with
    | .error q => .error q
    | .ok (xs, s) =>
      let node (x y : Nat × Tag) : W32 → Res := match f with
        | .sum => addRes e r x y
        | .min => minMaxRes false e x y
        | .max => minMaxRes true e x y
      let t := treeReduce node 5 (s.num (.ctx k c)).sr xs
      let root := t.lanes.headD (0, 31)
      let lanes := root :: List.replicate (laneCount e - 1) (0, fullTag e 0)
      let s := s.onCtx k c fun x => x.setLanes e lanes
      s.finishLanes k c t (if f = .sum ∧ ElemType.isFloat e = true then [root] else [])

/-- CMPA (R163): writes only F. -/
def execCmpa (_z : Bool) (e : ElemType) (a b : LOpd) (s : State) : Host.Outcome State Fault Refusal :=
  lookupWord s fun k c =>
    match s.operand k c e 32 a with
    | .error q => .error q
    | .ok (xs, s) => match s.operand k c e 32 b with
      | .error q => .error q
      | .ok (ys, s) =>
        let x := (xs.headD (0, 31)).1
        let y := (ys.headD (0, 31)).1
        let f := if ElemType.isFloat e then fpFlags (decodeNum e x) (decodeNum e y) else subFlags (ElemType.bits e) x y
        .ok ((s.onCtx k c fun q => { q with f := f }).retire (.ctx k c) 0)

/-- The tag of a lane clamped to P, as a number. -/
def laneSig (e : ElemType) (l : Nat × Tag) : Nat := readTag (precision e l.1) l.2

/-- SIGA_READ (R164). -/
def execSigaRead (_z : Bool) (e : ElemType) (a : LOpd) (s : State) : Host.Outcome State Fault Refusal :=
  lookupWord s fun k c =>
    match s.operand k c e 32 a with
    | .error q => .error q
    | .ok (xs, s) => s.putAcc k c e (.plain (s.num (.ctx k c)).sr (xs.map fun x => (laneSig e x, 31))) false

/-- SIGA_WRITE (R164): the value of a, the tag that b gives as an unsigned integer, at most P. -/
def execSigaWrite (_z : Bool) (e : ElemType) (a b : LOpd) (s : State) : Host.Outcome State Fault Refusal :=
  lookupWord s fun k c =>
    match s.operand k c e 32 a with
    | .error q => .error q
    | .ok (xs, s) => match s.operand k c e 32 b with
      | .error q => .error q
      | .ok (ys, s) =>
        let ls := (xs.zip ys).map fun (x, y) => (x.1, BitVec.ofNat 5 (min y.1 (precision e x.1)))
        s.putAcc k c e (.plain (s.num (.ctx k c)).sr ls) false

/-- SIGA_MINTAG (R164). -/
def execSigaMintag (_z : Bool) (e : ElemType) (a : LOpd) (s : State) : Host.Outcome State Fault Refusal :=
  lookupWord s fun k c =>
    match s.operand k c e 32 a with
    | .error q => .error q
    | .ok (xs, s) =>
      let m := xs.foldl (fun m x => min m (laneSig e x)) 31
      s.putAcc k c e (.plain (s.num (.ctx k c)).sr ((m, 31) :: List.replicate (laneCount e - 1) (0, 31))) false

/-- An immediate lane (R165). -/
def immLane (e : ElemType) (i : BitVec 7) : Nat × Tag :=
  (smallCode e i.toInt, fullTag e (smallCode e i.toInt))

/-- IMMA_SET (R165). -/
def execImmaSet (_z : Bool) (e : ElemType) (i : BitVec 7) (s : State) : Host.Outcome State Fault Refusal :=
  lookupWord s fun k c => s.putAcc k c e (.plain (s.num (.ctx k c)).sr (List.replicate (laneCount e) (immLane e i))) false

/-- IMMA_ADDI (R165): arithmetic, rounded to nearest even and checked. -/
def execImmaAddi (_z : Bool) (e : ElemType) (i : BitVec 7) (s : State) : Host.Outcome State Fault Refusal :=
  lookupWord s fun k c =>
    let xs := (s.ctx k c).accLanes e
    s.putAcc k c e (runLanes (s.num (.ctx k c)).sr (xs.map fun x => addRes e .rne x (immLane e i))) true

/-- IMMA_LANE0 (R165): the other lanes and their tags are unchanged. -/
def execImmaLane0 (_z : Bool) (e : ElemType) (i : BitVec 7) (s : State) : Host.Outcome State Fault Refusal :=
  lookupWord s fun k c =>
    let w := ElemType.size e
    let l := immLane e i
    let s := s.onCtx k c fun x =>
      { x with
        acc := BitVec.ofNat 256 (setBits x.acc.toNat (8 * w - 1) 0 l.1)
        accTags := List.replicate w l.2 ++ x.allTags.drop w }
    .ok (s.retire (.ctx k c) 0)

end Sys2Proof.Machine
end

