-- ==== Sys2Proof/Machine/LookupRow.lean ====
section
/-! DEFINITION. The row instructions of the lookup stream (R150, R151, R170 to R179). -/

namespace Sys2Proof.Machine

/-! ## Table descriptors (R150) -/

/-- A valid table descriptor. -/
structure Table where
  dev : Nat
  base : Nat
  rows : Nat
  rowb : Nat
  et : ElemType
  interleave : Bool
  k : Nat
  merge : Bool
  count : Bool
  remote : Bool
  hcount : Nat
  shstr : Nat
  ucbase : Nat
  epoch : W32
deriving DecidableEq, Repr

/-- The element types a table may have. -/
def tableType (e : ElemType) : Bool :=
  match e with
  | .fp32 | .bf16 | .fp16 | .e4m3 | .e5m2 | .m8 | .int8 | .int32 => true
  | _ => false

/-- A descriptor as an instruction reads it; a field outside its stated values gives none. -/
def TDesc.table (t : TDesc) : Option Table :=
  let w0 := t.w0.toNat
  let w1 := t.w1.toNat
  let w2 := t.w2.toNat
  match ElemType.ofCode (bits w1 15 12) with
  | none => none
  | some et =>
    let rowb := bits w1 31 16
    let shard := bits w1 9 8
    let h := bits w2 63 48
    let sh := bits w2 47 0
    let remote := bits w1 1 1 == 1
    let dev := bits w0 63 48
    let ok := bits w1 0 0 == 1 && tableType et && decide (8 ≤ rowb ∧ rowb ≤ 16384 ∧ rowb % 8 = 0) &&
      decide (bits w0 47 0 % 8 = 0) && decide (bits w1 11 10 ≤ 2) &&
      (if remote then decide (dev ≠ Config.deviceNumber.toNat) else dev == 0) &&
      (if shard = 0 then h == 0 && sh == 0 else decide (shard = 1 ∧ 1 ≤ h ∧ h ≤ 1024 ∧ sh % 65536 = 0))
    if ok then
      some { dev := dev, base := bits w0 47 0, rows := bits w1 63 32, rowb := rowb, et := et, interleave := shard == 1
             k := bits w1 7 6, merge := bits w1 3 3 == 1, count := bits w1 2 2 == 1, remote := remote, hcount := h
             shstr := sh, ucbase := t.ucbase.toNat, epoch := t.epoch }
    else none

/-- Elements of a row (R171). -/
def Table.len (t : Table) : Nat := t.rowb / ElemType.size t.et
/-- The DVA of a row (R151). -/
def Table.dva (t : Table) (i : Nat) : Nat :=
  if t.interleave then t.base + i % t.hcount * t.shstr + i / t.hcount * t.rowb else t.base + i * t.rowb

def State.table (s : State) (k : Nat) (n : BitVec 4) : Eff Table :=
  match TDesc.table (Tab.get {} (s.core k).tdesc n.toNat) with
  | some t => .ok t
  | none => .error (.trap .descriptor 0 s)

/-! ## A row instruction under way -/

def State.setList (s : State) (k c : Nat) (g : Option ListProg) : State := s.onCtx k c fun x => { x with list := g }
/-- The instruction is over. -/
def State.endList (s : State) (k c : Nat) : State := if (s.ctx k c).list.isNone then s else s.setList k c none
/-- A row instruction with its table as it stood at issue, which one that waits keeps (R170). -/
def rowWord (s : State) (k c : Nat) (n : BitVec 4) (f : Table → Eff State) : Eff State :=
  let run (d : TDesc) (t : Table) : Eff State :=
    match f t with
    | .ok s => .ok (s.endList k c)
    | .error (.trap q a s) => .error (.trap q a (s.endList k c))
    | .error e => .error (.since (fun s => s.setList k c (some { left := 0, desc := d })) e)
  match (s.ctx k c).list.bind fun g => g.desc.table.map fun t => (g.desc, t) with
  | some (d, t) => run d t
  | none => match s.table k n with
    | .error e => .error e
    | .ok t => run (Tab.get {} (s.core k).tdesc n.toNat) t

/-! ## Ranges (R171) -/

/-- The offset of n bytes in the issuing core's own tile memory, under LOCAL or its own TILE name. -/
def State.ownOffset (s : State) (u : UnitId) (k : Nat) (a : W64) (n : Nat) : Eff Nat :=
  if addrSpace a > 1 then .error (.trap .space a s)
  else match s.resolve (s.who u) a n with
    | .ok (.inl (.tile j o)) => if j = k then .ok o else .error (.trap .space a s)
    | .ok _ => .error (.trap .space a s)
    | .error q => .error (.trap q a s)

/-- The item count of a range and its offset. R171 asks for an alignment of rows alone: a list may start at any byte, and outputs
and scales are aligned to their items (DESIGN CHOICE, log 108). -/
def State.rowRange (s : State) (u : UnitId) (k : Nat) (a b : W64) (item : Nat) : Eff (Nat × Nat) :=
  if bits a.toNat 63 49 ≠ bits b.toNat 63 49 ∨ b.toNat < a.toNat then .error (.trap .space a s)
  else if (b.toNat - a.toNat) % item ≠ 0 then .error (.trap .align b s)
  else match s.ownOffset u k a (b.toNat - a.toNat) with
    | .error q => .error q
    | .ok o => .ok ((b.toNat - a.toNat) / item, o)

/-- A row or row output of n bytes: its own tile offset, aligned to an element size. -/
def State.rowAt (s : State) (u : UnitId) (k : Nat) (a : W64) (n size : Nat) : Eff Nat :=
  if a.toNat % size ≠ 0 then .error (.trap .align a s) else s.ownOffset u k a n

/-- Do two spans of tile memory share a byte? -/
def spansMeet (a n b m : Nat) : Bool := decide (0 < n ∧ 0 < m ∧ a < b + m ∧ b < a + n)

/-- Store bytes granule by granule (R172). -/
def State.storePieces (s : State) (u : UnitId) (a : W64) (bs : List Byte) : List (Nat × Nat) → Eff State
  | [] => .ok s
  | (o, n) :: ps => match s.store u (a + BitVec.ofNat 64 o) ((bs.drop o).take n) with
    | .error q => .error q
    | .ok s => s.storePieces u a bs ps

def State.storeRows (s : State) (u : UnitId) (a : W64) (bs : List Byte) : Eff State :=
  s.storePieces u a bs (granulePieces (bs.length / 32 + 2) a.toNat bs.length)

/-- An instruction whose stores would not fit the store buffer commits the activation first (R172). -/
def State.makeRoom (s : State) (u : UnitId) (k : Nat) (pieces : Nat) : Eff State :=
  match s.replayable u with
  | some a => if a.heldStores k + pieces > 64 then s.commit u true else .ok s
  | none => .ok s

/-- What a row instruction does once it has room for its stores; a commit that made it stands. -/
def State.roomFor (s : State) (u : UnitId) (k : Nat) (pieces : Nat) (f : State → Eff State) : Eff State :=
  match s.makeRoom u k pieces with
  | .error e => .error e
  | .ok t => match f t with
    | .error (.trap q a x) => .error (.trap q a x)
    | .error e => if (s.replayable u).isSome && (t.replayable u).isNone then .error (.since (fun s => (s.commitNow u true).1) e) else .error e
    | .ok t => .ok t

/-- Entries a store of n bytes takes. -/
def pieceCount (a : W64) (n : Nat) : Nat := (granules a.toNat n).length

/-- The n bytes that a row instruction will read at an address, as they stand at issue: how much it will store depends on them. -/
def State.peekRows (s : State) (u : UnitId) (a : W64) (n : Nat) : List Byte :=
  if n = 0 then []
  else match ({ s with quota := none }).loadRaw (s.who u) a n with
    | .ok (bs, _, _) => bs
    | .error _ => []
/-- Bytes of n at an offset of own tile memory before the first poisoned granule. -/
def State.cleanBytes (s : State) (k off n : Nat) : Nat :=
  (((granulePieces (n / 32 + 2) off n).takeWhile fun (o, m) => !s.poisoned (s.tileKey k off + o) m).map (·.2)).sum

/-- Read n bytes of own tile memory; none of zero bytes. -/
def State.loadRows (s : State) (u : UnitId) (a : W64) (n : Nat) : Eff (List Byte × State) :=
  if n = 0 then .ok ([], s) else s.load u a n

/-- A poisoned input granule is POISON, with the outputs of the steps before it written (R172; how far those are, DESIGN CHOICE, log
129). -/
def State.poisonAfter (s : State) (r : Eff State) (out : State → Eff State) : Eff State :=
  match r with
  | .error (.trap .poison _ _) => match out s with
    | .ok t => .error (.trap .poison 0 t)
    | .error e => .error e
  | r => r

def words32 (bs : List Byte) : List Nat := (List.range (bs.length / 4)).map fun i => leNat ((bs.drop (4 * i)).take 4)

/-! ## Requests to homes (R173, R174) -/

/-- Where a row lies, and the MTYPE of its page: its leaf names a home or a peer; host memory is XLATE_PERM, a row across pages XLATE_MISS with the malformed
indication (R151). -/
def State.rowPlace (s : State) (u : UnitId) (dva n : Nat) (perm : Perm) : Eff (Place × Nat × State) :=
  let a : W64 := BitVec.ofNat 64 (8 * 2 ^ 60 + dva)
  if dva + n > 2 ^ 48 then .error (.trap .space a s)
  else match s.leafFor (s.who u) a dva with
    | .error q => .error q
    | .ok (t, s') =>
      if entKind t.leaf ≠ 2 ∧ entDev t.leaf = 0xFFFF then .error (.trap .xlatePerm a s)
      else if !entHas t.leaf perm then .error (.trap .xlatePerm a s)
      else if dva + n > t.page + 2 ^ t.size then .error (.trap .xlateMiss a { s with missForm := true })
      else if entKind t.leaf = 2 then .ok (.hbm (entPha t.leaf + (dva - t.page)), bits t.leaf 3 2, s')
      else .ok (.peer (entDev t.leaf) (entPdva t.leaf + (dva - t.page)), bits t.leaf 3 2, s')

/-- Send a row job on its way: to its home on this device, or as a packet (R396). -/
def State.sendRow (s : State) (k : Nat) (j : RowJob) : Eff State :=
  match j.place with
  | .peer d dva =>
    if (s.route d k).isEmpty then .error (.trap .xlateMiss (BitVec.ofNat 64 (8 * 2 ^ 60 + j.dva)) s)
    else
      let p := s.portFor d k
      let j := { j with port := some p, seq := (Tab.get ({} : Port) s.ports p).nextSeq, dva := dva, id := s.nextId
                        requesters := [(Config.deviceNumber, k)] }
      if j.isOp then .ok ((s.sendFabric p (BitVec.ofNat 16 d) (.rowAcc j)).onCore k fun c => { c with rowOps := c.rowOps ++ [j] })
      else .ok ((s.sendFabric p (BitVec.ofNat 16 d) (.rowReq j)).onCore k fun c => { c with rowReqs := c.rowReqs ++ [j] })
  | _ =>
    let j := { j with id := s.nextId }
    let s := (s.onCore k fun c => { c with rowOut := c.rowOut ++ [j] }).stamp
    .ok (if j.isOp then s else s.onCore k fun c => { c with rowReqs := c.rowReqs ++ [j] })

/-- One row of a list: translated, and its job sent, behind the accesses that its page's type orders before it (R324). -/
def State.requestRow (s : State) (u : UnitId) (k : Nat) (t : Table) (perm : Perm) (j : RowJob) : Eff State :=
  let dva := t.dva j.row
  let c := match u with | .ctx _ c => c | _ => 0
  let j := { j with src := k, srcDev := Config.deviceNumber, ctx := c, dva := dva, via := dva, rowb := t.rowb, tet := ElemType.code t.et
                    epoch := t.epoch }
  if t.remote then s.sendRow k { j with place := .peer t.dev dva }
  else match s.rowPlace u dva t.rowb perm with
    | .error q => .error q
    | .ok (p, m, t) =>
      if s.inOrder u m then t.sendRow k { j with place := p, mtype := m } else .error (.again fun s => s.drain u)

/-- A use-counter increment leaves for the core that holds it (R153). -/
def State.useCount (s : State) (k key : Nat) : State :=
  let c := key % 4096
  s.onCore (coreIn (clusterOf k) (c / 256)) fun x => { x with ucQ := x.ucQ ++ [(k, c % 256)] }

/-- What a list instruction has done so far: the state, the identifiers left, and what stopped it. -/
abbrev Progress := State × Nat × Option Stop

/-- Advance the list pointer by an identifier and the row pointer by a pitch: the granules read for the item are done with. -/
def State.nextItem (s : State) (k c pa pc pitch : Nat) : State :=
  (({ s with got := [] } : State).dropDelivered (.ctx k c)).onCtx k c fun x =>
    let x := x.setPtr pa { x.ptr pa with addr := (x.ptr pa).addr + 4 }
    x.setPtr pc { x.ptr pc with addr := (x.ptr pc).addr + BitVec.ofNat 64 pitch }

/-- One identifier of GATH: its row is asked for. A full row-request engine makes the word wait, with pa and pc at it. -/
def State.gathItem (s : State) (k c : Nat) (t : Table) (tbl : Nat) (pa pc dp : Nat) (cvt : Option Nat) (ck : Nat) : Eff State :=
  let u : UnitId := .ctx k c
  let x := s.ctx k c
  if (s.core k).rowReqs.length ≥ 256 then .error (.wait .retry)
  else match s.load u (x.ptr pa).addr 4 with
    | .error q => .error q
    | .ok (bs, s') =>
      let i := leNat bs
      if i ≥ t.rows then .error (.trap .space 0 s)
      else match s.ownOffset u k (x.ptr pc).addr dp with
        | .error q => .error q
        | .ok off =>
          let j : RowJob := { tbl := tbl, row := i, place := .hbm 0, dest := (x.ptr pc).addr, destOff := off, cvt := cvt, counter := some ck }
          match s'.requestRow u k t .r j with
          | .error q => .error q
          | .ok s' => .ok ((if t.count then s'.useCount k (t.ucbase + i) else s').nextItem k c pa pc dp)

/-- GATH's loop: `n` identifiers remain. -/
def State.gathLoop (s : State) (k c : Nat) (t : Table) (tbl : Nat) (pa pc dp : Nat) (cvt : Option Nat) (ck : Nat) : Nat → Progress
  | 0 => (s, 0, none)
  | n + 1 => match s.gathItem k c t tbl pa pc dp cvt ck with
    | .error q => (s, n + 1, some q)
    | .ok s => s.gathLoop k c t tbl pa pc dp cvt ck n

/-- A list word: what it did stays, whatever stopped it; one that waits goes on with what it fixed at issue. -/
def listWord (turns : Nat) (k c : Nat) (d : TDesc) (p : Progress) : Eff State :=
  match p with
  | (s', _, none) => .ok ((s'.setList k c none).retire (.ctx k c) turns)
  | (_, _, some (.trap q a t)) => .error (.trap q a (t.setList k c none))
  | (s', n, some q) => .error (.since (fun _ => s'.setList k c (some { left := n, desc := d })) q)

/-- GATH (R173). -/
def execGath (t : BitVec 4) (a b c : BitVec 3) (v : Bool) (ck : BitVec 3) (e : ElemType) (s : State) :
    Host.Outcome State Fault Refusal :=
  lookupWord s fun k x =>
    let u : UnitId := .ctx k x
    let q := s.ctx k x
    let run (s : State) (d : TDesc) (tb : Table) (n : Nat) : Eff State :=
      let dp := if v then tb.len * ElemType.size e else tb.rowb
      listWord (n - 1) k x d
        (s.gathLoop k x tb t.toNat a.toNat c.toNat dp (if v then some (ElemType.code e) else none) ck.toNat n)
    match q.list.bind fun g => g.desc.table.map fun tb => (g, tb) with
    | some (g, tb) => run s g.desc tb g.left
    | none =>
      match s.table k t with
      | .error st => .error st
      | .ok tb =>
        let de := if v then e else tb.et
        let dp := if v then tb.len * ElemType.size e else tb.rowb
        if v && !tableType e then .error (.trap .illegal 0 s)
        else match s.rowRange u k (q.ptr a.toNat).addr (q.ptr b.toNat).addr 4 with
          | .error st => .error st
          | .ok (n, _) => match s.rowAt u k (q.ptr c.toNat).addr (n * dp) (ElemType.size de) with
            | .error st => .error st
            | .ok _ => run s (Tab.get {} (s.core k).tdesc t.toNat) tb n

/-- One identifier of SCAT or SCATW: its source row is read and its operation sent. -/
def State.scatItem (s : State) (k c : Nat) (t : Table) (tbl pa pc pitch : Nat) (write : Bool) (ck : Option Nat) (se : ElemType) : Eff State :=
  let u : UnitId := .ctx k c
  let x := s.ctx k c
  match s.load u (x.ptr pa).addr 4 with
  | .error q => .error q
  | .ok (bs, s1) =>
    let i := leNat bs
    if i ≥ t.rows then .error (.trap .space 0 s)
    else match s1.loadRows u (x.ptr pc).addr pitch with
      | .error q => .error q
      | .ok (row, s1) =>
        let j : RowJob := { isOp := true, tbl := tbl, row := i, place := .hbm 0, counter := ck, set := ElemType.code se
                            write := write, payload := row, merge := t.merge && !write }
        match s1.requestRow u k t (if write then .w else .rw) j with
        | .error q => .error q
        | .ok s1 =>
          let s1 := s1.onCore k fun q =>
            let slot := 4 * tbl + t.epoch.toNat % 4
            { q with acks := Tab.set q.acks slot (Tab.get 0 q.acks slot + 1) }
          .ok (s1.nextItem k c pa pc pitch)

/-- The loop of SCAT and SCATW. -/
def State.scatLoop (s : State) (k c : Nat) (t : Table) (tbl pa pc pitch : Nat) (write : Bool) (ck : Option Nat) (se : ElemType) : Nat → Progress
  | 0 => (s, 0, none)
  | n + 1 => match s.scatItem k c t tbl pa pc pitch write ck se with
    | .error q => (s, n + 1, some q)
    | .ok s => s.scatLoop k c t tbl pa pc pitch write ck se n

/-- The type pairs SCAT may name (R174). -/
def scatTypes (te se : ElemType) : Bool :=
  match te, se with
  | .fp32, .fp32 | .fp32, .bf16 | .bf16, .bf16 | .int32, .int32 => true
  | _, _ => false

/-- SCAT and SCATW at issue. -/
def scatter (write : Bool) (t : BitVec 4) (a b c : BitVec 3) (ack : Bool) (ck : BitVec 3) (e : ElemType) (s : State) :
    Host.Outcome State Fault Refusal :=
  lookupWord s fun k x =>
    let u : UnitId := .ctx k x
    let q := s.ctx k x
    let run (s : State) (d : TDesc) (tb : Table) (n : Nat) : Eff State :=
      listWord (n - 1) k x d (s.scatLoop k x tb t.toNat a.toNat c.toNat (tb.len * ElemType.size e) write
        (if ack then some ck.toNat else none) e n)
    match q.list.bind fun g => g.desc.table.map fun tb => (g, tb) with
    | some (g, tb) => run s g.desc tb g.left
    | none =>
      match s.table k t with
      | .error st => .error st
      | .ok tb =>
        if !(if write then decide (e = tb.et) else scatTypes tb.et e) then .error (.trap .descriptor 0 s)
        else match s.rowRange u k (q.ptr a.toNat).addr (q.ptr b.toNat).addr 4 with
          | .error st => .error st
          | .ok (n, _) => match s.rowAt u k (q.ptr c.toNat).addr (n * (tb.len * ElemType.size e)) (ElemType.size e) with
            | .error st => .error st
            | .ok _ =>
              let d := Tab.get {} (s.core k).tdesc t.toNat
              s.committed u true fun s => run s d tb n

/-- SCAT (R174). -/
def execScat (t : BitVec 4) (a b c : BitVec 3) (x : Bool) (ck : BitVec 3) (e : ElemType) (s : State) :
    Host.Outcome State Fault Refusal := scatter false t a b c x ck e s

/-- SCATW (R174). -/
def execScatw (t : BitVec 4) (a b c : BitVec 3) (x : Bool) (ck : BitVec 3) (e : ElemType) (s : State) :
    Host.Outcome State Fault Refusal := scatter true t a b c x ck e s

/-! ## Lists in tile memory -/

/-- The distinct identifiers in order of first occurrence. -/
def distinct : List Nat → List Nat → List Nat
  | acc, [] => acc.reverse
  | acc, i :: is => distinct (if acc.elem i then acc else i :: acc) is

def indexOf (xs : List Nat) (i : Nat) : Nat := (xs.takeWhile (· != i)).length

/-- DEDUP (R175). -/
def execDedup (a b c : BitVec 3) (v : Bool) (s : State) : Host.Outcome State Fault Refusal :=
  lookupWord s fun k x =>
    let u : UnitId := .ctx k x
    let q := s.ctx k x
    let pa := (q.ptr a.toNat).addr
    let pc := (q.ptr c.toNat).addr
    match s.rowRange u k pa (q.ptr b.toNat).addr 4 with
    | .error st => .error st
    | .ok (n, lo) => match s.rowAt u k pc (4 * n) 4 with
      | .error st => .error st
      | .ok po =>
        if spansMeet po (4 * n) lo (4 * n) && (v || po != lo) then .error (.trap .space pc s)
        else
          let inverse (out ids : List Nat) (s : State) : Eff State :=
            if v then s.storeRows u pa (ids.flatMap fun i => leBytes 4 (indexOf out i)) else .ok s
          let room := pieceCount pc (4 * (distinct [] (words32 (s.peekRows u pa (4 * n)))).length) + if v then pieceCount pa (4 * n) else 0
          s.roomFor u k room fun s => s.poisonAfter
            (match s.loadRows u pa (4 * n) with
            | .error st => .error st
            | .ok (bs, s) =>
              let ids := words32 bs
              let out := distinct [] ids
              match (s.storeRows u pc (out.flatMap (leBytes 4))).bind (inverse out ids) with
              | .error st => .error st
              | .ok s =>
                .ok ((s.onCtx k x fun q => q.setAddr c.toNat (pc + BitVec.ofNat 64 (4 * out.length))).retire u (n - 1)))
            fun s =>
              let ids := (words32 (s.peekRows u pa (4 * n))).take (s.cleanBytes k lo (4 * n) / 4)
              let out := distinct [] ids
              (s.storeRows u pc (out.flatMap (leBytes 4))).bind (inverse out ids)

/-- BUCKET (R176): positions in a stable order by key, then the prefix offsets. -/
def execBucket (a b c : BitVec 3) (s : State) : Host.Outcome State Fault Refusal :=
  lookupWord s fun k x =>
    let u : UnitId := .ctx k x
    let q := s.ctx k x
    let pa := (q.ptr a.toNat).addr
    let pc := (q.ptr c.toNat).addr
    let nb := sext 32 (q.acc.toNat % 2 ^ 32)
    if nb < 1 ∨ nb > 4096 then .error (.trap .space 0 s)
    else match s.rowRange u k pa (q.ptr b.toNat).addr 4 with
      | .error st => .error st
      | .ok (n, lo) =>
        let B := nb.toNat
        let out (bs : List Byte) : List Byte :=
          let placed := ((List.range n).zip (words32 bs)).filter fun p => decide (p.2 < B)
          let order := (placed.mergeSort fun p r => decide (p.2 ≤ r.2)).map (·.1)
          let offs := (List.range (B + 1)).map fun b => (placed.filter fun p => decide (p.2 < b)).length
          (order ++ offs).flatMap (leBytes 4)
        let size := (out (s.peekRows u pa (4 * n))).length
        match s.rowAt u k pc size 4 with
        | .error st => .error st
        | .ok po =>
          if spansMeet po size lo (4 * n) then .error (.trap .space pc s)
          else s.roomFor u k (pieceCount pc size) fun s => match s.loadRows u pa (4 * n) with
            | .error st => .error st
            | .ok (bs, s) => match s.storeRows u pc (out bs) with
              | .error st => .error st
              | .ok s => .ok ((s.onCtx k x fun q => q.setAddr c.toNat (pc + BitVec.ofNat 64 (out bs).length)).retire u (n - 1))

/-- UCINC (R177). -/
def execUcinc (t : BitVec 4) (a b : BitVec 3) (s : State) : Host.Outcome State Fault Refusal :=
  lookupWord s fun k x =>
    let u : UnitId := .ctx k x
    let q := s.ctx k x
    rowWord s k x t fun tb => match s.rowRange u k (q.ptr a.toNat).addr (q.ptr b.toNat).addr 4 with
      | .error st => .error st
      | .ok (n, lo) => s.committed u true fun s =>
        let count (s : State) (keys : List Nat) : State := keys.foldl (fun s key => s.useCount k (tb.ucbase + key)) s
        s.poisonAfter
          (match s.loadRows u (q.ptr a.toNat).addr (4 * n) with
          | .error st => .error st
          | .ok (bs, s) =>
            .ok (((count s (words32 bs)).onCtx k x fun q => q.setAddr a.toNat (q.ptr b.toNat).addr).retire u (n - 1)))
          fun s => .ok (count s ((words32 (s.peekRows u (q.ptr a.toNat).addr (4 * n))).take (s.cleanBytes k lo (4 * n) / 4)))

/-! ## Rows in tile memory (R178, R179) -/

/-- Rows as lists of codes. -/
def rowsOf (e : ElemType) (bs : List Byte) (pitch n : Nat) : List (List Nat) :=
  (List.range n).map fun r => unpackCodes e ((bs.drop (r * pitch)).take pitch)

/-- Add rows to a start element by element: the element loop is outermost (R178). -/
def addColumn (e : ElemType) (r : Rm) : W32 → Nat → List Nat → Res
  | sr, d, [] => ⟨d, 0, 0, sr⟩
  | sr, d, x :: xs =>
    let a := addRes e r (d, 31) (x, 31) sr
    let t := addColumn e r a.sr a.code xs
    { t with flags := a.flags ||| t.flags }

/-- ROWADD. -/
def execRowadd (_z : Bool) (t : BitVec 4) (a b c : BitVec 3) (init : Bool) (r : Rm) (e : ElemType) (s : State) :
    Host.Outcome State Fault Refusal :=
  lookupWord s fun k x =>
    let u : UnitId := .ctx k x
    let q := s.ctx k x
    let pa := (q.ptr a.toNat).addr
    let pc := (q.ptr c.toNat).addr
    rowWord s k x t fun tb =>
      let pitch := tb.len * ElemType.size e
      match s.rowRange u k pa (q.ptr b.toNat).addr pitch with
      | .error st => .error st
      | .ok (n, lo) => match (if n = 0 then .ok 0 else s.rowAt u k pa (n * pitch) (ElemType.size e)) with
        | .error st => .error st
        | .ok _ => match s.rowAt u k pc pitch (ElemType.size e) with
          | .error st => .error st
          | .ok po =>
            if spansMeet po pitch lo (n * pitch) then .error (.trap .space pc s)
            else
              let writes := init || n ≠ 0
              let sums (s : State) (src old : List Byte) : LaneRun :=
                let rows := rowsOf e src pitch n
                let ds := unpackCodes e old
                runLanes (s.num u).sr ((List.range tb.len).map fun j g =>
                  addColumn e r g (ds.getD j 0) (rows.map fun row => row.getD j 0))
              let zeros := List.replicate pitch (0 : Byte)
              s.roomFor u k (if writes then pieceCount pc pitch else 0) fun s => s.poisonAfter
                (match s.loadRows u pa (n * pitch) with
                | .error st => .error st
                | .ok (src, s) => match (if init || n = 0 then .ok (zeros, s) else s.loadRows u pc pitch) with
                  | .error st => .error st
                  | .ok (old, s) =>
                    let run := sums s src old
                    match (if writes then s.storeRows u pc (packCodes e (run.lanes.map (·.1))) else .ok s) with
                    | .error st => .error st
                    | .ok s =>
                      let s := (s.collect u run.flags run.sr).onCtx k x fun q =>
                        (q.setAddr a.toNat (q.ptr b.toNat).addr).setAddr c.toNat (pc + BitVec.ofNat 64 pitch)
                      .ok (s.retire u (n * pitch / 32)))
                fun s =>
                  let clean := (List.range n).foldl (fun m i => min m (s.cleanBytes k (lo + i * pitch) pitch))
                    (if init then pitch else s.cleanBytes k po pitch)
                  let run := sums s (s.peekRows u pa (n * pitch)) (if init then zeros else s.peekRows u pc pitch)
                  s.storeRows u pc (packCodes e ((run.lanes.map (·.1)).take (clean / ElemType.size e)))

/-- ROWSCL: the exact product of an element and its row's FP32 scale, rounded once. -/
def execRowscl (_z : Bool) (t : BitVec 4) (a b c : BitVec 3) (r : Rm) (e : ElemType) (s : State) :
    Host.Outcome State Fault Refusal :=
  lookupWord s fun k x =>
    let u : UnitId := .ctx k x
    let q := s.ctx k x
    let pa := (q.ptr a.toNat).addr
    let pc := (q.ptr c.toNat).addr
    rowWord s k x t fun tb =>
      let pitch := tb.len * ElemType.size e
      match s.rowRange u k pa (q.ptr b.toNat).addr pitch with
      | .error st => .error st
      | .ok (n, lo) => match (if n = 0 then .ok 0 else s.rowAt u k pa (n * pitch) (ElemType.size e)) with
        | .error st => .error st
        | .ok _ => match s.rowAt u k pc (4 * n) 4 with
          | .error st => .error st
          | .ok po =>
            if spansMeet po (4 * n) lo (n * pitch) then .error (.trap .space pc s)
            else
              let scaled (s : State) (src sc : List Byte) : LaneRun :=
                runLanes (s.num u).sr (((rowsOf e src pitch n).zip (words32 sc)).flatMap fun (row, scale) =>
                  row.map fun v g => finish e r g (exactMul (decodeNum e v) (decodeNum .fp32 scale)) fun _ => 0)
              s.roomFor u k (pieceCount pa (n * pitch)) fun s => s.poisonAfter
                (match s.loadRows u pa (n * pitch) with
                | .error st => .error st
                | .ok (src, s) => match s.loadRows u pc (4 * n) with
                  | .error st => .error st
                  | .ok (sc, s) =>
                    let run := scaled s src sc
                    match s.storeRows u pa (packCodes e (run.lanes.map (·.1))) with
                    | .error st => .error st
                    | .ok s =>
                      let s := (s.collect u run.flags run.sr).onCtx k x fun q =>
                        (q.setAddr a.toNat (q.ptr b.toNat).addr).setAddr c.toNat (pc + BitVec.ofNat 64 (4 * n))
                      .ok (s.retire u (n * pitch / 32)))
                fun s =>
                  let clean := min (s.cleanBytes k lo (n * pitch) / ElemType.size e) (s.cleanBytes k po (4 * n) / 4 * tb.len)
                  let run := scaled s (s.peekRows u pa (n * pitch)) (s.peekRows u pc (4 * n))
                  s.storeRows u pa (packCodes e ((run.lanes.map (·.1)).take clean))

/-- ROWCVT: the output may begin at pa when the destination element is no wider. -/
def execRowcvt (_z : Bool) (t : BitVec 4) (a b c : BitVec 3) (r : Rm) (e : ElemType) (s : State) :
    Host.Outcome State Fault Refusal :=
  lookupWord s fun k x =>
    let u : UnitId := .ctx k x
    let q := s.ctx k x
    let pa := (q.ptr a.toNat).addr
    let pc := (q.ptr c.toNat).addr
    rowWord s k x t fun tb =>
      let out := tb.len * ElemType.size e
      match s.rowRange u k pa (q.ptr b.toNat).addr tb.rowb with
      | .error st => .error st
      | .ok (n, lo) => match (if n = 0 then .ok 0 else s.rowAt u k pa (n * tb.rowb) (ElemType.size tb.et)) with
        | .error st => .error st
        | .ok _ => match s.rowAt u k pc (n * out) (ElemType.size e) with
          | .error st => .error st
          | .ok po =>
            if spansMeet po (n * out) lo (n * tb.rowb) && !(decide (po = lo ∧ ElemType.size e ≤ ElemType.size tb.et)) then
              .error (.trap .space pc s)
            else
              let converted (s : State) (src : List Byte) : LaneRun :=
                runLanes (s.num u).sr ((unpackCodes tb.et src).map fun v g => convert e tb.et r g v 31)
              s.roomFor u k (pieceCount pc (n * out)) fun s => s.poisonAfter
                (match s.loadRows u pa (n * tb.rowb) with
                | .error st => .error st
                | .ok (src, s) =>
                  let run := converted s src
                  match s.storeRows u pc (packCodes e (run.lanes.map (·.1))) with
                  | .error st => .error st
                  | .ok s =>
                    let s := (s.collect u run.flags run.sr).onCtx k x fun q =>
                      let q := q.setAddr a.toNat (q.ptr b.toNat).addr
                      q.setAddr c.toNat ((q.ptr c.toNat).addr + BitVec.ofNat 64 (n * out))
                    .ok (s.retire u (n * tb.rowb / 32)))
                fun s =>
                  let run := converted s (s.peekRows u pa (n * tb.rowb))
                  s.storeRows u pc (packCodes e ((run.lanes.map (·.1)).take (s.cleanBytes k lo (n * tb.rowb) / ElemType.size tb.et)))

/-- One score: fused steps in FP32 over the row and the query (R179). -/
def dotRow (e : ElemType) (r : Rm) : W32 → Nat → Nat → List (Nat × Nat) → Res
  | sr, v, t, [] => ⟨v, t, 0, sr⟩
  | sr, v, t, (x, y) :: ps =>
    let a := fpFma .fp32 r sr false (opd e x (fullTag e x)) (opd e y (fullTag e y)) (opd .fp32 v (BitVec.ofNat 5 t))
    let q := dotRow e r a.sr a.code a.tag ps
    { q with flags := a.flags ||| q.flags }

/-- ROWDOT. -/
def execRowdot (_z : Bool) (t : BitVec 4) (a b c : BitVec 3) (r : Rm) (e : ElemType) (s : State) :
    Host.Outcome State Fault Refusal :=
  lookupWord s fun k x =>
    let u : UnitId := .ctx k x
    let q := s.ctx k x
    let pa := (q.ptr a.toNat).addr
    let pc := (q.ptr c.toNat).addr
    rowWord s k x t fun tb =>
      let pitch := tb.len * ElemType.size e
      match s.rowRange u k pa (q.ptr b.toNat).addr pitch with
      | .error st => .error st
      | .ok (n, _) =>
        if n > 8 then .error (.trap .space pa s)
        else match (if n = 0 then .ok 0 else s.rowAt u k pa (n * pitch) (ElemType.size e)) with
          | .error st => .error st
          | .ok _ => match s.rowAt u k pc pitch (ElemType.size e) with
            | .error st => .error st
            | .ok _ => match s.loadRows u pa (n * pitch) with
              | .error st => .error st
              | .ok (src, s) => match s.loadRows u pc pitch with
                | .error st => .error st
                | .ok (qs, s) =>
                  let query := unpackCodes e qs
                  let run := runLanes (s.num u).sr ((rowsOf e src pitch n).map fun row g => dotRow e r g 0 24 (row.zip query))
                  let s := s.onCtx k x fun q =>
                    (q.setLanes .fp32 (run.lanes ++ List.replicate (8 - n) (0, 24))).setAddr a.toNat (q.ptr b.toNat).addr
                  s.finishLanes k x run run.lanes

end Sys2Proof.Machine
end

