-- ==== Sys2Proof/Machine/LookupMsg.lean ====
section
/-! DEFINITION. Messages, activations, tasks, work lists, atomics, fences, barriers, markers, epochs and SYS of the lookup
stream (R147 to R149, R180 to R191, R193 to R206). WAITP and COPY stand with the copy engine. -/

namespace Sys2Proof.Machine

/-! ## Message addresses (R180) -/

/-- Destination device and core, route tag, RQ and reply channel of a message address. -/
structure MsgDest where
  dev : BitVec 16
  core : Nat
  tag : BitVec 16
  rq : Bool
  reply : Nat
deriving DecidableEq, Repr

def State.msgDest (s : State) (u : UnitId) (k : Nat) (a : W64) : Eff MsgDest :=
  let n := a.toNat
  let bad : Eff MsgDest := .error (.trap .space a s)
  let rq := bits n 6 6 == 1
  let reply := bits n 5 0
  let dest (dev : BitVec 16) (core : Nat) : Eff MsgDest :=
    .ok { dev := dev, core := core, tag := BitVec.ofNat 16 (n / 65536), rq := rq, reply := reply }
  let tile (t : W64) : Eff MsgDest :=
    match s.resolve (s.who u) t 0 with
    | .ok (.inl (.tile j _)) => dest Config.deviceNumber j
    | .ok _ => bad
    | .error c => .error (.trap c a s)
  if bits n 15 7 ≠ 0 ∨ reply > 55 ∨ (rq = false ∧ reply ≠ 0) then bad
  else if addrSpace a = 1 then
    if bits n 48 32 ≠ 0 then bad else tile (BitVec.ofNat 64 (n / 2 ^ 49 * 2 ^ 49))
  else if addrSpace a = 9 then
    let d := bits n 59 44
    let core := coreAt (bits n 43 38) (bits n 37 34)
    if bits n 33 32 ≠ 0 ∨ d = 0xFFFF then bad
    else if d = Config.deviceNumber.toNat then tile (absAddr 1 core 0)
    else
      let m := s.sysEnt d
      if !m.valid || (s.route d k).isEmpty then .error (.trap .xlateMiss a s)
      else if !m.w then .error (.trap .xlatePerm a s)
      else dest (BitVec.ofNat 16 d) core
  else bad

/-! ## Send queues (R149, R183) -/

/-- Entries a core's network claims: queued messages, those its activations hold, those a fabric port has not seen accepted. -/
def State.claims (s : State) (k : Nat) (vn1 : Bool) : Nat :=
  let c := s.core k
  let held := (List.range 16).map fun i => match (c.ctx i).act with
    | some a => (a.held.filter fun h => match h with | .msg m => m.vn1 == vn1 | _ => false).length
    | none => 0
  let away := (s.ports.flatMap (·.2.queue)).filter fun p => match p.body with
    | .msg m => m.vn1 == vn1 && m.srcCore == k
    | _ => false
  (if vn1 then c.vn1.length else c.vn0.length) + held.sum + away.length

/-- A message leaves, after its release when it has one (R186). -/
def State.leave (s : State) (u : UnitId) (k : Nat) (m : Message) : Eff State :=
  if m.rel then (s.release u).map fun s => s.enqueue k m else .ok (s.enqueue k m)

/-- A message is claimed: held by a replayable activation with room, else it leaves (R147). -/
def State.emit (s : State) (u : UnitId) (k : Nat) (m : Message) : Eff State :=
  let m := { m with id := s.nextId }
  let s := s.stamp
  match s.replayable u with
  | some a => if a.heldMsgs k < 16 then .ok (s.hold u (.msg m)) else s.committed u true fun s => s.leave u k m
  | none => s.leave u k m

/-- The payload at a pointer (R182): in own tile memory, a multiple of 32; the pointer of an empty payload is checked all the same. -/
def State.payloadAt (s : State) (u : UnitId) (k : Nat) (a : W64) (n : Nat) : Eff (List Byte × State) :=
  match s.ownOffset u k a (max n 1) with
  | .error q => .error q
  | .ok _ => if a.toNat % 32 ≠ 0 then .error (.trap .align a s) else s.loadRows u a n

/-- Units of 32 bytes: 0 encodes 32 (R181). -/
def unitBytes (n : BitVec 5) : Nat := if n = 0 then 1024 else 32 * n.toNat

/-- SEND and SENDA at issue. -/
def State.sendMsg (s : State) (k c : Nat) (ch : Nat) (pa pb : BitVec 3) (count : Nat) (rel : Bool) : Eff State :=
  let u : UnitId := .ctx k c
  let x := s.ctx k c
  let da := (x.ptr pa.toNat).addr
  if ch > 55 then .error (.trap .space 0 s)
  else match s.msgDest u k da with
    | .error q => .error q
    | .ok d => match s.payloadAt u k (x.ptr pb.toNat).addr count with
      | .error q => .error q
      | .ok (bs, s') =>
        if s.claims k false ≥ 16 then .error (.trap .sendqFull 0 s)
        else if d.rq && decide ((s.core k).resv ≥ 32) then .error (.wait .retry)
        else
          let m : Message := { chan := ch, tag := d.tag, srcDev := Config.deviceNumber, srcCore := k, srcCtx := c, dstDev := d.dev
                               dstCore := d.core, payload := bs, rq := d.rq, reply := d.reply, rel := rel }
          let s' := if d.rq then s'.onCore k fun q => { q with resv := q.resv + 1 } else s'
          (s'.emit u k m).map fun s => s.retire u 0

/-- SEND (R181). -/
def execSend (ch : BitVec 6) (a b : BitVec 3) (n : BitVec 5) (l : Bool) (s : State) : Host.Outcome State Fault Refusal :=
  lookupWord s fun k c => s.sendMsg k c ch.toNat a b (unitBytes n) l

/-- SENDA (R181): the byte count is INT32 lane 1 of acc. -/
def execSenda (ch : BitVec 6) (a b : BitVec 3) (l : Bool) (s : State) : Host.Outcome State Fault Refusal :=
  lookupWord s fun k c =>
    let n := sext 32 ((s.ctx k c).acc.toNat / 2 ^ 32)
    if n < 0 ∨ n > 1024 then .error (.trap .space 0 s) else s.sendMsg k c ch.toNat a b n.toNat l

/-- REPLY (R184): to the sender of the running activation, once; a full VN1 queue stalls. -/
def execReply (b : BitVec 3) (n : BitVec 5) (l : Bool) (s : State) : Host.Outcome State Fault Refusal :=
  lookupWord s fun k c =>
    let u : UnitId := .ctx k c
    match (s.ctx k c).act with
    | none => .error (.trap .space 0 s)
    | some a =>
      if !a.msg.rq || a.replied then .error (.trap .space 0 s)
      else match s.payloadAt u k ((s.ctx k c).ptr b.toNat).addr (unitBytes n) with
        | .error q => .error q
        | .ok (bs, s) =>
          if s.claims k true ≥ 16 then .error (.wait .retry)
          else
            let m : Message := { chan := a.msg.reply, tag := a.msg.tag, srcDev := Config.deviceNumber, srcCore := k, srcCtx := c
                                 dstDev := a.msg.srcDev, dstCore := a.msg.srcCore, payload := bs, vn1 := true, rel := l }
            let s := s.onCtx k c fun x => { x with act := x.act.map fun a => { a with replied := true } }
            (s.emit u k m).map fun s => s.retire u 0

/-! ## PUT (R148, R185) -/

/-- Bytes a PUT's payload of n bytes covers at its destination (R148). -/
def xfBytes (xf n : Nat) : Nat :=
  match xf with
  | 1 | 4 => 2 * n
  | 2 => n / 2
  | 7 => 4 * (n - 4)
  | _ => n
/-- Element size of the destination words. -/
def xfAlign (xf : Nat) : Nat :=
  match xf with
  | 2 => 2
  | 1 | 3 | 4 | 5 | 7 => 4
  | _ => 1

/-- PUT. -/
def execPut (cnt : Bool) (ck a b : BitVec 3) (n : BitVec 5) (x : BitVec 4) (l : Bool) (s : State) : Host.Outcome State Fault Refusal :=
  lookupWord s fun k c =>
    let u : UnitId := .ctx k c
    let q := s.ctx k c
    let da := (q.ptr a.toNat).addr
    let xf := x.toNat
    let len := xfBytes xf (unitBytes n)
    if xf ≥ 8 then .error (.trap .illegal 0 s)
    else if (xf ≠ 0 ∨ cnt = true) ∧ addrSpace da ≠ 1 then .error (.trap .space da s)
    else if da.toNat % xfAlign xf ≠ 0 ∨ (addrSpace da = 4 ∧ da.toNat % 32 ≠ 0) then .error (.trap .align da s)
    else match s.locate (s.who u) da len .w with
      | .error st => .error st
      | .ok (ps, s) =>
        -- a register takes the payload in accesses of 32 bytes (R416)
        let reg : Option Cause := match ps with
          | [p] => match p.place with
            | .reg kk cl o => (List.range (len / 32)).findSome? fun i =>
                match s.writeRegs u kk cl (o + 32 * i) (List.replicate 32 0) with | .error e => some e | .ok _ => none
            | _ => none
          | _ => none
        match reg with
        | some e => .error (.trap e da s)
        | none => match s.payloadAt u k (q.ptr b.toNat).addr (unitBytes n) with
          | .error st => .error st
          | .ok (bs, s) =>
            if s.claims k false ≥ 16 then .error (.trap .sendqFull 0 s)
            else if !s.inOrder u (ps.foldl (fun t p => max t p.mtype) 0) then .error (.again fun s => s.drain u)
            else
              let core := match ps with
                | p :: _ => (match p.place with
                  | .tile j _ => j
                  | .scratch cl _ | .cmem cl _ => cornerCore cl
                  | .hbm pha => pha / 2 ^ 30
                  | .reg kk _ _ => kk
                  | _ => k)
                | [] => k
              let info : PutInfo := { parts := ps.map fun p => (p.place, p.len), name := (match ps with | p :: _ => p.name | [] => da)
                                      xf := xf, counter := if cnt then some ck.toNat else none
                                      mtype := ps.foldl (fun t p => max t p.mtype) 0, dvas := ps.filterMap Part.dva }
              let m : Message := { srcDev := Config.deviceNumber, srcCore := k, srcCtx := c, dstDev := Config.deviceNumber
                                   dstCore := core, payload := bs, rel := l, put := some info }
              (s.emit u k m).map fun s => s.retire u 0

/-! ## Ending and steering activations (R187, R188) -/

/-- HEND. -/
def execHend (s : State) : Host.Outcome State Fault Refusal :=
  lookupWord s fun k c =>
    match (s.ctx k c).act with
    | none => .ok (s.endActivation k c)
    | some a =>
      if a.chan = 61 then .error (.trap .space 0 s)
      else (s.commit (.ctx k c) false).map fun s => s.endActivation k c

/-- COMMIT: ACTSTAT.ACTCOMMITTED stays. -/
def execCommit (s : State) : Host.Outcome State Fault Refusal :=
  lookupWord s fun k c => (s.commit (.ctx k c) false).map fun s => s.retire (.ctx k c) 0

/-- HCTL: 56 to 60 are SPACE, 63 is PRIV; the activation commits first, so the entry is changed as that leaves it. -/
def hctl (ch : BitVec 6) (s : State) (f : LCtx → Handler → Except (Cause × W64) Handler) : Host.Outcome State Fault Refusal :=
  lookupWord s fun k c =>
    let n := ch.toNat
    if 56 ≤ n ∧ n ≤ 60 then .error (.trap .space 0 s)
    else if n = 63 then .error (.trap .priv 0 s)
    else match f (s.ctx k c) ((s.core k).aged s.time n) with
      | .error (e, a) => .error (.trap e a s)
      | .ok _ => s.committed (.ctx k c) true fun s => match f (s.ctx k c) ((s.core k).aged s.time n) with
        | .error (e, a) => .error (.trap e a s)
        | .ok h => .ok ((s.onCore k fun x => x.setHandler n h s.time).retire (.ctx k c) 0)

def execHctlMask (ch : BitVec 6) (s : State) : Host.Outcome State Fault Refusal :=
  hctl ch s fun _ h => .ok (h.setMask true s.time)
def execHctlUnmask (ch : BitVec 6) (s : State) : Host.Outcome State Fault Refusal :=
  hctl ch s fun _ h => .ok (h.setMask false s.time)
def execHctlPrio (p : BitVec 3) (ch : BitVec 6) (s : State) : Host.Outcome State Fault Refusal :=
  hctl ch s fun _ h => .ok (h.setPri p)
def execHctlBind (n : BitVec 3) (ch : BitVec 6) (s : State) : Host.Outcome State Fault Refusal :=
  hctl ch s fun x h =>
    let e : W32 := (x.ptr n.toNat).addr.setWidth 32
    if e.toNat % 4 ≠ 0 then .error (.align, e.setWidth 64) else .ok { h with entry := e, valid := true }

/-! ## Waiting (R189, R191) -/

/-- WAITC: waits until the counter reaches n, and takes n from it. -/
def execWaitc (ck : BitVec 3) (n : BitVec 20) (s : State) : Host.Outcome State Fault Refusal :=
  lookupWord s fun k c =>
    let u : UnitId := .ctx k c
    let v := Tab.get 0 (s.core k).landing ck.toNat
    if n.toNat ≤ v.toNat then
      .ok ((s.onCore k fun x => { x with landing := Tab.set x.landing ck.toNat (v - n.setWidth 32) }).retire u 0)
    else .error (.wait (.counter ck.toNat n.toNat))

/-- Has TIME reached a 56-bit value (R78)? -/
def State.reached (s : State) (t : Nat) : Bool := decide ((s.time + 2 ^ 56 - t % 2 ^ 56) % 2 ^ 56 < 2 ^ 55)

/-- WAITT. -/
def execWaitt (n : BitVec 3) (s : State) : Host.Outcome State Fault Refusal :=
  lookupWord s fun k c =>
    let t := bits ((s.ctx k c).ptr n.toNat).addr.toNat 55 0
    if s.reached t then .ok (s.retire (.ctx k c) 0) else .error (.wait (.untilTime t))

/-! ## Tasks (R193 to R196) -/

/-- A unit's own stores in flight to n bytes under a name are performed before an atomic there (R317). -/
def State.ownBefore (s : State) (u : UnitId) (a : W64) (n : Nat) : State :=
  s.performFlights ({ who := u, name := nameOf (s.who u) a, place := .tile 0 0, bytes := List.replicate n 0 } : Flight).overlaps

/-- What comes before an atomic on a join record at its bank: the bank's other atomics there, and the unit's own stores (R193, R317,
R329). -/
def State.atRecord (s : State) (u : UnitId) (a : W64) (p : Place) : State := (s.settleAtoms .device p 16).ownBefore u a 16

/-- The tile place of a 16-byte join record, for an atomic at its bank; a LOCAL address names it too (DESIGN CHOICE, log 127). -/
def State.joinPlace (s : State) (u : UnitId) (a : W64) : Eff Place :=
  if addrSpace a > 1 then .error (.trap .space a s)
  else if a.toNat % 16 ≠ 0 then .error (.trap .align a s)
  else match s.resolve (s.who u) a 16 with
    | .error c => .error (.trap c a s)
    | .ok (.inl (.tile j o)) =>
      if s.poisoned (s.tileKey j o) 16 then .error (.trap .poison 0 s) else .ok (.tile j o)
    | .ok _ => .error (.trap .space a s)

def State.readPlace (s : State) (p : Place) (n : Nat) : Nat :=
  match s.key p with
  | some a => leNat (s.readKey a n)
  | none => 0

/-- Entries a core's deque can hold: 64, and the spill area's (R348). -/
def State.dequeRoom (s : State) (k : Nat) : Nat :=
  64 + match s.launchOfCore k with
    | some l => (match l.node with | some n => bits (n.word 0x48) 31 0 | none => 0)
    | none => 0

/-- A channel that becomes runnable has its configured priority, and its aging count starts (R144). -/
def Core.wake (c : Core) (ch now : Nat) : Core :=
  let h := Tab.get {} c.handlers ch
  { c with handlers := Tab.set c.handlers ch { h with epri := h.pri, age := now } }

/-- Push a newest entry; an entry beyond 64 also stands in the spill area, whose bytes the spec does not lay out (DESIGN CHOICE, log 4). -/
def State.pushTask (s : State) (k : Nat) (t : Task) : State :=
  let len := (s.core k).deque.length
  let s := s.onCore k fun x => { (if x.deque.isEmpty then x.wake 61 s.time else x) with deque := t :: x.deque }
  if len < 64 then s
  else match (s.launchOfCore k).bind (·.node) with
    | none => s
    | some n =>
      let dva := n.word 0x40 + 16 * bits (n.word 0x48) 31 0 * k + 16 * (len - 64)
      let (bs, s) := s.freeBytes 16
      match s.walk dva with
      | .leaf size e =>
        let f : Flight := { who := .home k, name := BitVec.ofNat 64 (8 * 2 ^ 60 + dva), place := .hbm (entPha e + dva % 2 ^ size), bytes := bs }
        if entKind e = 2 then s.performMem f else s
      | _ => s

/-- SPAWN. -/
def execSpawn (b : BitVec 3) (o : BitVec 22) (s : State) : Host.Outcome State Fault Refusal :=
  lookupWord s fun k c =>
    let u : UnitId := .ctx k c
    let tcb := ((s.ctx k c).ptr b.toNat).addr
    let pc := s.pc u
    match s.ownOffset u k tcb 64 with
    | .error q => .error q
    | .ok _ =>
      if tcb.toNat % 64 ≠ 0 then .error (.trap .align tcb s)
      else match s.load u tcb 8 with
        | .error q => .error q
        | .ok (bs, s) =>
          let j := bytesW64 bs 0
          match s.joinPlace u j with
          | .error q => .error q
          | .ok p =>
            if (s.core k).deque.length ≥ s.dequeRoom k then .error (.trap .dequeOverflow 0 s)
            else (s.commit u true).map fun s =>
              let s := s.atRecord u j p
              let n := s.readPlace p 4
              let s := s.writePlace p (leBytes 4 (n + 1)) none
              let t : Task := { pc := branchTarget pc 22 o, arg := tcb, spawner := k }
              (s.pushTask k t).retire u 0

/-- A task ends: its context is free, and the entry that its victim forwards by goes (R349). -/
def State.endTask (s : State) (k c : Nat) : State :=
  match (s.ctx k c).act.bind (·.victim) with
  | none => s.endActivation k c
  | some (v, tag) => (s.onCore v fun x => { x with forward := x.forward.erase (tag, k) }).endActivation k c

/-- TEND: releases, decrements the record, pushes the continuation at zero with WAIT, frees the context. The continuation's
spawner is the core that holds the record (DESIGN CHOICE, log 110). -/
def execTend (s : State) : Host.Outcome State Fault Refusal :=
  lookupWord s fun k c =>
    let u : UnitId := .ctx k c
    match (s.ctx k c).act with
    | none => .error (.trap .space 0 s)
    | some a =>
      if a.chan ≠ 61 then .error (.trap .space 0 s)
      else s.committed u false fun s => (s.release u).bind fun s => match a.join with
          | none => .ok (s.endTask k c)
          | some j => match s.joinPlace u j with
            | .error q => .error q
            | .ok p =>
              let s := s.atRecord u j p
              let w := s.readPlace p 4
              let n := w % 2 ^ 31
              if n = 0 then .error (.trap .dequeOverflow 0 s)
              else if n = 1 ∧ w ≥ 2 ^ 31 then
                match p with
                | .tile h _ =>
                  if (s.core h).deque.length ≥ s.dequeRoom h then .error (.trap .dequeOverflow 0 s)
                  else
                    let s := s.writePlace p (leBytes 4 0) none
                    let t : Task := { pc := BitVec.ofNat 32 (s.readPlace (p.add 4) 4), arg := BitVec.ofNat 64 (s.readPlace (p.add 8) 8)
                                      spawner := h, cont := true }
                    .ok ((s.pushTask h t).endTask k c)
                | _ => .error (.trap .space j s)
              else .ok ((s.writePlace p (leBytes 4 (w - 1)) none).endTask k c)

/-- JOIN: takes the continuation at once, or registers it, releases and ends the context. With COUNT = 0 it branches, be WAIT set
or not, as the pseudocode of R196 does (DESIGN CHOICE, log 128). -/
def execJoin (b : BitVec 3) (o : BitVec 22) (s : State) : Host.Outcome State Fault Refusal :=
  lookupWord s fun k c =>
    let u : UnitId := .ctx k c
    let j := ((s.ctx k c).ptr b.toNat).addr
    let target := branchTarget (s.pc u) 22 o
    match s.joinPlace u j with
    | .error q => .error q
    | .ok p => s.committed u true fun s =>
        let s := s.atRecord u j p
        let w := s.readPlace p 4
        if w % 2 ^ 31 = 0 then s.jumpTo u target 0
        else if w ≥ 2 ^ 31 then .error (.trap .dequeOverflow 0 s)
        else (s.release u).map fun s =>
          (s.writePlace p (leBytes 4 (w + 2 ^ 31) ++ leBytes 4 target.toNat ++ w64Bytes j) none).endTask k c

/-! ## Work lists (R197) -/

/-- The 16 bytes a work-list word names: own tile memory, a multiple of 16. -/
def State.worklistAt (s : State) (u : UnitId) (k : Nat) (a : W64) : Eff Unit :=
  match s.ownOffset u k a 16 with
  | .error q => .error q
  | .ok _ => if a.toNat % 16 ≠ 0 then .error (.trap .align a s) else .ok ()

def execWlistPush (a : BitVec 3) (s : State) : Host.Outcome State Fault Refusal :=
  lookupWord s fun k c =>
    let u : UnitId := .ctx k c
    let ad := ((s.ctx k c).ptr a.toNat).addr
    match s.worklistAt u k ad with
    | .error q => .error q
    | .ok _ =>
      if (s.core k).worklist.length ≥ 256 then .error (.trap .dequeOverflow 0 s)
      else s.committed u true fun s => (s.load u ad 16).map fun (bs, s) => ((s.onCore k fun x => { (if x.worklist.isEmpty then x.wake 62 s.time else x) with worklist := x.worklist ++ [bs] }).retire u 0)

def execWlistPop (a : BitVec 3) (s : State) : Host.Outcome State Fault Refusal :=
  lookupWord s fun k c =>
    let u : UnitId := .ctx k c
    let ad := ((s.ctx k c).ptr a.toNat).addr
    match s.worklistAt u k ad with
    | .error q => .error q
    | .ok _ => s.committed u true fun s => match (s.core k).worklist with
      | [] => .ok ((s.onCtx k c fun x => { x with f := { x.f with z := true } }).retire u 0)
      | w :: ws => (s.store u ad w).map fun s =>
          ((s.onCore k fun x => { x with worklist := ws }).onCtx k c fun x => { x with f := { x.f with z := false } }).retire u 0

/-! ## Atomics (R198 to R201) -/

/-- Tag of the old word: 24 for the floating operations. -/
def amoTag (op : Aop) : Tag :=
  match op with
  | .fadd | .fmax | .fmin | .accbf => 24
  | _ => 31

/-- A word of acc, and acc with a word and its four tag fields replaced. -/
def LCtx.accLane (x : LCtx) (i : Nat) : Nat := bits x.acc.toNat (32 * i + 31) (32 * i)
def LCtx.setLane (x : LCtx) (i v : Nat) (t : Tag) : LCtx :=
  { x with
    acc := BitVec.ofNat 256 (setBits x.acc.toNat (32 * i + 31) (32 * i) v)
    accTags := x.allTags.take (4 * i) ++ List.replicate 4 t ++ x.allTags.drop (4 * i + 4) }

/-- One lane's atomic with its old word written back and its flags collected. -/
def State.amoLane (s : State) (k c : Nat) (sc : Scope) (op : Aop) (a : W64) (i : Nat) (cmp : Nat) (acq : Bool) :
    Eff (Nat × State) :=
  let u : UnitId := .ctx k c
  let v := (s.ctx k c).accLane i
  match s.amo u sc a op false (BitVec.ofNat 64 v) (BitVec.ofNat 64 cmp) acq with
  | .error q => .error q
  | .ok (old, s) =>
    let (_, _, _, f) := amoOp op 32 old v cmp
    let s := s.collect u f (s.num u).sr
    .ok (old, s.onCtx k c fun x => x.setLane i old (amoTag op))

/-- An atomic word of the lookup stream: the activation commits, and REL releases, before the operation `k` (R198); what has been
committed stays, whatever stops the operation. -/
def State.beforeAmo (s : State) (u : UnitId) (rel : Bool) (k : State → Eff α) : Eff α :=
  s.committed u true fun s => if rel then (s.release u).bind k else k s

/-- AMO. ACQ: the operation is performed before the word retires (R319). -/
def execLAmo (op : Aop) (sc : Scope) (_e : ElemType) (a : BitVec 3) (acq rel : Bool) (s : State) :
    Host.Outcome State Fault Refusal :=
  lookupWord s fun k c =>
    let ad := ((s.ctx k c).ptr a.toNat).addr
    if ad.toNat % 4 ≠ 0 then .error (.trap .align ad s)
    else s.beforeAmo (.ctx k c) rel fun s =>
        let x := s.ctx k c
        let v := x.accLane 0
        let cmp := x.accLane 1
        (s.amoLane k c sc op ad 0 cmp acq).map fun (old, s) =>
          let (_, z, cy, _) := amoOp op 32 old v cmp
          let s := s.onCtx k c fun x => { x with f := { x.f with z := z.getD x.f.z, c := cy.getD x.f.c } }
          s.retire (.ctx k c) 0

/-- AMOV's lanes from i on: `n` remain. LANEDONE keeps what is performed. -/
def State.amovLoop (s : State) (k c : Nat) (sc : Scope) (op : Aop) (a : W64) (acq : Bool) : Nat → Nat → State × Option Stop
  | _, 0 => (s, none)
  | i, n + 1 =>
    if (s.ctx k c).laneDone.getLsbD i then s.amovLoop k c sc op a acq (i + 1) n
    else match s.amoLane k c sc op (a + BitVec.ofNat 64 (4 * i)) i 0 acq with
      | .error q => (s, some q)
      | .ok (_, s) =>
        let s := s.onCtx k c fun x => { x with laneDone := x.laneDone ||| BitVec.ofNat 8 (2 ^ i) }
        s.amovLoop k c sc op a acq (i + 1) n

/-- AMOV: what it did stays, whatever stopped it. -/
def execAmov (op : Aop) (sc : Scope) (_e : ElemType) (a : BitVec 3) (acq rel : Bool) (s : State) :
    Host.Outcome State Fault Refusal :=
  lookupWord s fun k c =>
    let ad := ((s.ctx k c).ptr a.toNat).addr
    if ad.toNat % 4 ≠ 0 then .error (.trap .align ad s)
    else s.beforeAmo (.ctx k c) rel fun s => match s.amovLoop k c sc op ad acq 0 8 with
      | (s, none) => .ok ((s.onCtx k c fun x => { x with laneDone := 0 }).retire (.ctx k c) 0)
      | (_, some (.trap q b t)) => .error (.trap q b t)
      | (s, some q) => .error (.since (fun _ => s) q)

/-! ## Fences, barriers, markers, epochs (R202 to R205) -/

/-- FENCE: inside a replayable activation it is held at its place (R187). -/
def execLFence (f : FenceKind) (_sc : Scope) (s : State) : Host.Outcome State Fault Refusal :=
  lookupWord s fun k c =>
    let u : UnitId := .ctx k c
    match s.replayable u with
    | some _ => .ok ((s.hold u (.fence (FenceKind.num f) 0)).retire u 0)
    | none => match s.fence u f with
      | .error q => .error q
      | .ok s => .ok (s.retire u 0)

/-- BAR. -/
def execLBar (op : BarOp) (slot : BitVec 4) (s : State) : Host.Outcome State Fault Refusal :=
  lookupWord s fun k c =>
    let u : UnitId := .ctx k c
    let n := slot.toNat
    let started := decide (s.wait u = .barrier n)
    match barStep op started n (Tab.get {} (s.core k).bar n) (s.ctx k c).barSeen with
    | none => .error (.trap .barrier 0 s)
    | some (b, seen, waits) => s.beforeAmo u (barArrives op started) fun s =>
      let s := (s.onCore k fun x => { x with bar := Tab.set x.bar n b }).onCtx k c fun x => { x with barSeen := seen }
      .ok (if waits then s.setWait u (.barrier n) else s.retire u 0)

/-- MARK. -/
def execLMark (m : BitVec 8) (s : State) : Host.Outcome State Fault Refusal :=
  lookupWord s fun k c =>
    let u : UnitId := .ctx k c
    (s.commit u true).map fun s => (s.mark (some u) (clusterOf k) (s.launchId u) m.toNat).retire u 0

/-- TEPOCH: sleeps until the row operations of epoch e - k are performed, then advances the epoch. -/
def execTepoch (t : BitVec 4) (s : State) : Host.Outcome State Fault Refusal :=
  lookupWord s fun k c =>
    let u : UnitId := .ctx k c
    let n := t.toNat
    match s.table k t with
    | .error q => .error q
    | .ok _ => s.committed u true fun s => match s.table k t with
      | .error q => .error q
      | .ok tb => .ok (
        if Tab.get 0 (s.core k).acks (4 * n + (tb.epoch - BitVec.ofNat 32 tb.k).toNat % 4) = 0 then
          (s.onCore k fun x =>
            let d := Tab.get {} x.tdesc n
            { x with tdesc := Tab.set x.tdesc n { d with epoch := d.epoch + 1 } }).retire u 0
        else s.setWait u (.epoch n))

/-! ## SYS (R206) -/

/-- TRAP: cause TRAP with the code, for the node's trap vector. -/
def execLSysTrap (code : BitVec 20) (s : State) : Host.Outcome State Fault Refusal :=
  match s.cur with
  | .ctx k c => .next (s.raise (.ctx k c) .trap 0 code)
  | u => .next (s.raise u .illegal 0)

/-- TRET. -/
def execLSysTret (s : State) : Host.Outcome State Fault Refusal :=
  match s.cur with
  | .ctx k c => .next (s.returnTrap (.ctx k c) 0)
  | u => .next (s.raise u .illegal 0)

/-- CRR. -/
def execLSysCrr (n : BitVec 3) (r : BitVec 10) (s : State) : Host.Outcome State Fault Refusal :=
  lookupWord s fun k c =>
    match s.readCr (.ctx k c) r.toNat with
    | .error q => .error q
    | .ok v => .ok ((s.onCtx k c fun x => x.setAddr n.toNat (BitVec.ofNat 64 v)).retire (.ctx k c) 0)

/-- CRW: commits first. -/
def execLSysCrw (n : BitVec 3) (r : BitVec 10) (s : State) : Host.Outcome State Fault Refusal :=
  lookupWord s fun k c =>
    let u : UnitId := .ctx k c
    let v := ((s.ctx k c).ptr n.toNat).addr.toNat
    match s.readCr u r.toNat with
    | .error q => .error q
    | .ok _ => s.committed u true fun s => (s.writeCr u r.toNat v).map fun s => s.retire u 0

/-- TIME as software reads it, and DEVNS. -/
def execLSysTime (ns : Bool) (n : BitVec 3) (s : State) : Host.Outcome State Fault Refusal :=
  lookupWord s fun k c =>
    let v : W64 := if ns then s.devns else BitVec.ofNat 64 (s.time % 2 ^ 56)
    .ok ((s.onCtx k c fun x => x.setAddr n.toNat v).retire (.ctx k c) 0)

/-- YIELD. -/
def execSysYield (n : BitVec 20) (s : State) : Host.Outcome State Fault Refusal :=
  lookupWord s fun k c => .ok (s.retire (.ctx k c) n.toNat)

/-- NOP (R14): any stream. -/
def execNop (s : State) : Host.Outcome State Fault Refusal := .next (s.retire s.cur 0)

end Sys2Proof.Machine
end

