-- ==== Sys2Proof/Machine/ScalarSys.lean ====
section
/-! DEFINITION. Format words, shapes, tokens, markers, barriers, fences and SYS functions of the scalar stream (R212, R214,
R215, R234 to R237, R58). -/

namespace Sys2Proof.Machine

/-! ## Format words and shapes -/

/-- FPUSH: append sa[31:0]; a queue of 16 stalls (R212, R234). -/
def execFpush (w : BitVec 3) (a : BitVec 5) (s : State) : Host.Outcome State Fault Refusal :=
  denseScalarWord s fun u =>
    match s.interlock u [a] none with
    | .error q => .error q
    | .ok _ =>
      if (s.dense u.cl).fq.length ≥ 16 then .error (.wait .retry)
      else .ok ((s.onDense u.cl fun d => { d with fq := d.fq ++ [(s.sVal u a).setWidth 32] }).retire u w.toNat)

/-- Width of a chain: 0 when its west engine is unusable (R215). -/
def chainWidth (ok : BitVec 4) (c : Nat) : Nat :=
  if !ok.getLsbD (2 * c) then 0 else if ok.getLsbD (2 * c + 1) then 64 else 32

/-- Limits of M and N under a mode (R215): 0 JOINED, 1 KSPLIT, 2 NARROW. -/
def shapeLimits (mode : Nat) (ok : BitVec 4) : Nat × Nat :=
  let w0 := chainWidth ok 0
  let w1 := chainWidth ok 1
  if w0 = 0 ∧ w1 = 0 then (0, 0)
  else if w0 = 0 ∨ w1 = 0 then
    match mode with
    | 0 => (16, max w0 w1)
    | 1 => (0, 0)
    | _ => (16, 32)
  else
    match mode with
    | 0 => (32, min w0 w1)
    | 1 => (16, min w0 w1)
    | _ => (32, 32)

/-- The grant of a request (R214). -/
def shapeGrant (req : W64) (ok : BitVec 4) : W64 :=
  let r := req.toNat
  let mode := bits r 49 48
  if bits r 63 50 ≠ 0 ∨ mode = 3 then 0
  else
    let (mm, nn) := shapeLimits mode ok
    let k := min (bits r 47 32) 384 / 16 * 16
    BitVec.ofNat 64 (mode * 2 ^ 48 + k * 2 ^ 32 + min (bits r 31 16) nn * 2 ^ 16 + min (bits r 15 0) mm)

/-- SHAPE (R235). -/
def execShape (w : BitVec 3) (d a : BitVec 5) (s : State) : Host.Outcome State Fault Refusal :=
  denseScalarWord s fun u =>
    match s.interlock u [a] (some (d, true)) with
    | .error q => .error q
    | .ok _ =>
      let g := shapeGrant (s.sVal u a) (s.dense u.cl).mengok
      .ok (((s.onDense u.cl fun d => { d with grant := g }).putS u d { val := g } 1).retire u w.toNat)

/-! ## Tokens, markers, barriers, fences (R236) -/

def execSTsend (w : BitVec 3) (q : BitVec 3) (n : BitVec 8) (s : State) : Host.Outcome State Fault Refusal :=
  denseScalarWord s fun u => s.tsend u q.toNat n.toNat w.toNat
def execSTwait (w : BitVec 3) (q : BitVec 3) (n : BitVec 8) (s : State) : Host.Outcome State Fault Refusal :=
  denseScalarWord s fun u => s.twait u q.toNat n.toNat w.toNat

/-- A supervisor core's markers: its queues of every cluster, the networks, row services and fabric ports once for all. -/
def State.markAll (s : State) (u : UnitId) (mask : Nat) : State :=
  let s := s.mark (some u) 0 0 (Nat.land mask 0x3C)
  (List.range 64).foldl (fun s cl => s.mark (some u) cl 0 (Nat.land mask 3)) s

def execSMark (w : BitVec 3) (m : BitVec 8) (s : State) : Host.Outcome State Fault Refusal :=
  scalarWord s fun u =>
    .ok ((match u with
      | .sup _ => s.markAll u m.toNat
      | u => s.mark (some u) u.cl (s.launchId u) m.toNat).retire u w.toNat)

/-- BAR of the cluster's dense participation: an ARRIVE releases first. -/
def execSBar (w : BitVec 3) (op : BarOp) (l : BitVec 4) (s : State) : Host.Outcome State Fault Refusal :=
  scalarWord s fun u =>
    match u with
    | .sup _ => .error (.trap .barrier 0 s)
    | u =>
      let n := l.toNat
      let b := Tab.get {} (s.dense u.cl).bar n
      let started := decide (s.wait u = .barrier n)
      if !b.dense then .error (.trap .barrier 0 s)
      else match barStep op started n b (s.dense u.cl).barSeen with
        | none => .error (.trap .barrier 0 s)
        | some (b, seen, waits) =>
          (if barArrives op started then s.release u else .ok s).map fun s =>
            let s := s.onDense u.cl fun d => { d with bar := Tab.set d.bar n b, barSeen := seen }
            if waits then s.setWait u (.barrier n) else s.retire u w.toNat

def execSFence (w : BitVec 3) (_sc : Scope) (k : FenceKind) (s : State) : Host.Outcome State Fault Refusal :=
  scalarWord s fun u =>
    match s.fence u k with
    | .error q => .error q
    | .ok s => .ok (s.retire u w.toNat)

/-! ## SYS (R237) -/

/-- TRAP: cause TRAP with code 0. -/
def execSSysTrap (_w : BitVec 3) (s : State) : Host.Outcome State Fault Refusal :=
  match s.cur with
  | .scalar c => .next (s.raise (.scalar c) .trap 0)
  | .sup n => .next (s.raise (.sup n) .trap 0)
  | u => .next (s.raise u .illegal 0)

/-- TRET. -/
def execSSysTret (w : BitVec 3) (s : State) : Host.Outcome State Fault Refusal :=
  match s.cur with
  | .scalar c => .next (s.returnTrap (.scalar c) w.toNat)
  | u => .next (s.raise u .illegal 0)

def execSSysCrr (w : BitVec 3) (d : BitVec 5) (r : BitVec 10) (s : State) : Host.Outcome State Fault Refusal :=
  scalarWord s fun u =>
    match s.interlock u [] (some (d, true)) with
    | .error q => .error q
    | .ok _ => match s.readCr u r.toNat with
      | .error q => .error q
      | .ok v => .ok ((s.putS u d { val := BitVec.ofNat 64 v } 1).retire u w.toNat)

def execSSysCrw (w : BitVec 3) (d : BitVec 5) (r : BitVec 10) (s : State) : Host.Outcome State Fault Refusal :=
  scalarWord s fun u =>
    match s.interlock u [d] none with
    | .error q => .error q
    | .ok _ => match s.writeCr u r.toNat (s.sVal u d).toNat with
      | .error q => .error q
      | .ok s => .ok (s.retire u w.toNat)

/-- Does an entry cover a DVA? -/
def TlbEntry.covers (e : TlbEntry) (dva : Nat) : Bool := decide (dva / 2 ^ e.size = e.page / 2 ^ e.size)

/-- Remove translations from every cache of the device (R58). -/
def State.removeTlb (s : State) (keep : TlbEntry → Bool) : State :=
  { s with
    cores := s.cores.map fun (i, c) => (i, { c with tlb := c.tlb.filter keep })
    clusters := s.clusters.map fun (i, c) => (i, { c with tlb := c.tlb.filter keep }) }

/-- Leaves of every cache of the device. -/
def State.tlbEntries (s : State) : List TlbEntry :=
  s.cores.flatMap (fun (_, c) => c.tlb) ++ s.clusters.flatMap fun (_, c) => c.tlb

/-- DVAs of accesses that are translated and neither performed nor parked (R58): stores refused, held, or on their way to another device
or the host, reads and atomics outstanding there, descriptor fills, rows and PUTs on their way. -/
def State.dvasOut (s : State) : List Nat :=
  let dva (name : W64) : List Nat := if addrSpace name = 8 then [bits name.toNat 47 0] else []
  let put (m : Message) : List Nat := match m.put with | some p => p.dvas | none => []
  let held (x : LCtx) : List Nat := match x.act with
    | some a => a.held.flatMap fun h => match h with | .store f => dva f.name | .msg m => put m | .fence .. => []
    | none => []
  let fills (t : Tab DReg) : List Nat := t.flatMap fun (_, d) => (d.fill.getD []).flatMap fun (_, _, n) => dva n
  s.flights.flatMap (fun f => dva f.name) ++ s.extWrites.flatMap (fun e => dva e.f.name) ++ s.extReads.flatMap (fun e => dva e.addr) ++
  s.clusters.flatMap (fun (_, c) => fills c.dense.dload ++ fills c.dense.dstore) ++
  s.cores.flatMap fun (_, c) =>
    c.retries.flatMap (fun f => dva f.name) ++ (c.vn0 ++ c.puts).flatMap put ++ c.ctxs.flatMap (fun (_, x) => held x) ++
    (c.rowOut ++ c.rowQ ++ c.rowOps ++ c.rowReqs.filter fun j => j.home.isNone).map (·.via)

/-- What TLBINV does once its release is made: nothing while an access that used an entry it removes is neither performed nor
parked; then it removes the entries. `hit` says which DVAs it covers, all of them or one. -/
def State.invalidate (s : State) (hit : TlbEntry → Bool) (system : Bool) (ad : W64) (all : Bool) : Eff State :=
  let gone := s.tlbEntries.filter hit
  let pending (s : State) : Bool := s.dvasOut.any fun d => all || gone.any fun e => e.covers d
  let s := s.performAll fun f => match f.place with | .hbm _ | .peer .. | .host _ => true | _ => false
  if pending s then .error (.again fun s => s.performAll fun f => match f.place with | .hbm _ | .peer .. | .host _ => true | _ => false)
  else
    let s := s.removeTlb fun e => !hit e
    .ok (if system then { s with sysCached := if all then [] else Tab.drop s.sysCached (bits ad.toNat 59 44) } else s)

/-- TLBINV (R58): on a dense scalar sequencer PRIV. -/
def execSysTlbinv (w : BitVec 3) (a b : BitVec 5) (s : State) : Host.Outcome State Fault Refusal :=
  scalarWord s fun u =>
    match u with
    | .sup n =>
      let u : UnitId := .sup n
      match s.interlock u [a, b] none with
      | .error q => .error q
      | .ok _ =>
        let ad := s.sVal u a
        let m := s.sVal u b
        let all := m.getLsbD 2
        let system := decide (m.toNat % 4 = 3)
        if !all && !(addrSpace ad == 8 || (addrSpace ad == 9 && system)) then .error (.trap .space ad s)
        else match s.release u with
          | .error q => .error q
          | .ok s => match s.invalidate (fun e => all || e.covers (bits ad.toNat 47 0)) system ad all with
            | .error q => .error q
            | .ok s => .ok (s.retire u w.toNat)
    | _ => .error (.trap .priv 0 s)

/-- HALT: the PC stays at the word. -/
def execSysHalt (_w : BitVec 3) (s : State) : Host.Outcome State Fault Refusal :=
  scalarWord s fun u => .ok ((s.setWait u .none).setLive u false)

def State.latch (s : State) : UnitId → Bool
  | .scalar c => (s.dense c).sc.latch
  | .sup n => (s.sup n).latch
  | _ => false
def State.setLatch (s : State) (u : UnitId) (b : Bool) : State :=
  match u with
  | .scalar c => s.onDense c fun d => { d with sc := { d.sc with latch := b } }
  | .sup n => s.onSup n fun x => { x with latch := b }
  | _ => s

/-- WFE: sleep until the latch is set, then clear it. -/
def execSysWfe (w : BitVec 3) (s : State) : Host.Outcome State Fault Refusal :=
  scalarWord s fun u => if s.latch u then .ok ((s.setLatch u false).retire u w.toNat) else .error (.wait .wfe)

/-- TIME, 1 clk after issue: R222 gives it no latency (DESIGN CHOICE, log 131). -/
def execSSysTime (w : BitVec 3) (d : BitVec 5) (s : State) : Host.Outcome State Fault Refusal :=
  scalarWord s fun u =>
    match s.interlock u [] (some (d, false)) with
    | .error q => .error q
    | .ok _ => .ok ((s.putS u d { val := BitVec.ofNat 64 (s.time % 2 ^ 56) } 1).retire u w.toNat)

end Sys2Proof.Machine
end

