-- ==== Sys2Proof/Machine/NodeStart.lean ====
section
/-! DEFINITION. Launch records (R336), node descriptors (R341), placement (R343), the image header and node start (R344),
abandoning a rectangle (R339), completion records and retirement (R337, R373, R374). -/

namespace Sys2Proof.Machine

/-! ## Launch records (R336) -/

def Launch.word (l : Launch) (off : Nat) : Nat := field l.bytes off 8
def Launch.graph (l : Launch) : Nat := bits (l.word 0) 47 0
def Launch.deadline (l : Launch) : Nat := l.word 8
def Launch.nodes (l : Launch) : Nat := bits (l.word 0x10) 31 16
def Launch.dropLate (l : Launch) : Bool := bits (l.word 0x10) 0 0 == 1
def Launch.lid (l : Launch) : Nat := l.word 0x18
def Launch.crec (l : Launch) : W64 := BitVec.ofNat 64 (l.word 0x20)
def Launch.saverec (l : Launch) : W64 := BitVec.ofNat 64 (l.word 0x28)

/-- Is a record as it arrives well formed? -/
def recordOk (bs : List Byte) : Bool :=
  bits (field bs 0 8) 63 48 == 0 && bits (field bs 0x10 8) 63 38 == 0 && bits (field bs 0x10 8) 15 1 == 0 &&
  ((bs.drop 0x30).take 16).all (· == 0) && field bs 0x28 8 == 0 && bits (field bs 0x10 8) 31 16 != 0 && field bs 0 8 % 128 == 0

/-- An HBM address of a DVA (R42). -/
def hbmAddr (dva : Nat) : W64 := BitVec.ofNat 64 (8 * 2 ^ 60 + dva % 2 ^ 60)

/-- Bytes replaced at an offset. -/
def patchBytes (bs : List Byte) (off : Nat) (xs : List Byte) : List Byte := bs.take off ++ xs ++ bs.drop (off + xs.length)

/-! ## Node descriptors (R341) -/

def Node.kind (n : Node) : Nat := bits (n.word 0) 1 0
def Node.fixed (n : Node) : Bool := bits (n.word 0) 4 4 == 1
def Node.usesMatrix (n : Node) : Bool := bits (n.word 0) 2 2 == 1
def Node.stealDomain (n : Node) : Nat := bits (n.word 0) 9 8
def Node.srSeed (n : Node) : Nat := bits (n.word 0x30) 31 0
def Node.epAdv (n : Node) : Nat := bits (n.word 0x38) 31 16
def Node.bmark (n : Node) : Nat := bits (n.word 0x38) 7 0
def Node.spillN (n : Node) : Nat := bits (n.word 0x48) 31 0
/-- A rectangle as R341 lays it out: X0, Y0, W, H. -/
def rectOf (v : Nat) : Nat × Nat × Nat × Nat := (bits v 5 0, bits v 9 6, bits v 16 10, bits v 21 17)

/-- A descriptor's own validity: fields in their values, unused fields zero. -/
def Node.descOk (n : Node) : Bool :=
  let w0 := n.word 0
  let zero (offs : List Nat) : Bool := offs.all fun o => n.word o == 0
  match n.kind with
  | 0 =>
    let (x, y, w, h) := rectOf (n.word 8)
    let mm := n.word 0x10
    bits w0 63 10 == 0 && bits w0 7 5 == 0 && bits (n.word 8) 63 22 == 0 &&
    decide (1 ≤ w ∧ w ≤ 64 ∧ 1 ≤ h ∧ h ≤ 16) && bits mm 63 50 == 0 && bits mm 49 48 != 3 && bits mm 47 32 == 0 &&
    n.word 0x18 % 256 == 0 && decide (n.word 0x18 < 2 ^ 48) && decide (n.word 0x40 < 2 ^ 48) && bits (n.word 0x28) 31 16 == 0 && bits (n.word 0x38) 63 32 == 0 && bits (n.word 0x38) 15 6 == 0 &&
    bits (n.word 0x48) 63 32 == 0 && zero [0x50, 0x58, 0x60, 0x68, 0x70, 0x78] &&
    (!n.fixed || decide (x + w ≤ 64 ∧ y + h ≤ 16)) &&
    (!n.usesMatrix || (w % 4 == 0 && h % 4 == 0 && (!n.fixed || (x % 4 == 0 && y % 4 == 0))))
  | 1 =>
    bits w0 63 2 == 0 && zero [8, 0x10, 0x18, 0x20, 0x28, 0x30, 0x38, 0x40, 0x48, 0x60, 0x68, 0x70, 0x78] &&
    bits (n.word 0x50) 31 7 == 0 && bits (n.word 0x50) 3 3 == 0 && decide (bits (n.word 0x50) 6 4 ≤ 5)
  | 2 =>
    bits w0 63 2 == 0 && zero [8, 0x10, 0x18, 0x20, 0x28, 0x30, 0x38, 0x40, 0x48, 0x50, 0x58, 0x70, 0x78] &&
    n.word 0x60 % 8 == 0 && (n.word 0x60 / 2 ^ 48 == 8 * 2 ^ 12 || n.word 0x60 / 2 ^ 60 == 9)
  | _ => bits w0 63 2 == 0 && zero [8, 0x10, 0x18, 0x20, 0x28, 0x30, 0x38, 0x40, 0x48, 0x50, 0x58, 0x60, 0x68, 0x70, 0x78]

/-- Who reads and writes the records of a launch for the supervisor: what others deliver is kept for the launch. -/
def launchUnit (l : Launch) : UnitId := .engine 0 (10 + l.id)
def launchWho (l : Launch) : Who := { u := launchUnit l, coord := none, loc := none, node := none }

/-- The supervisor reads bytes at an address for a launch; poison is POISON. -/
def State.supLoad (s : State) (l : Launch) (a : W64) (n : Nat) : Eff (List Byte × State) :=
  if n = 0 then .ok ([], s)
  else match s.loadRaw (launchWho l) a n with
    | .error e => .error e
    | .ok (bs, false, s) => .ok (bs, s)
    | .ok (_, true, s) => .error (.trap .poison a s)

/-- A release of what a launch's records were given: where it must wait, what has been written stands. -/
def State.supRelease (s : State) (l : Launch) : Eff State :=
  let t := s.drain (launchUnit l)
  if t.unreleased (launchUnit l) then .error (.again fun _ => t) else .ok t

/-- A launch whose node index is read from its save record, where it is still there (R371, R372). -/
def State.reach (s : State) (l : Launch) : Eff Launch :=
  if !l.indexSaved then .ok l
  else match s.supLoad l (hbmAddr (l.savePtr.toNat + 8)) 2 with
    | .error e => .error e
    | .ok (bs, _) => .ok { l with index := leNat bs, indexSaved := false }

/-- The descriptor a launch has reached: DESCRIPTOR where it is malformed or the index leaves the graph. -/
def State.nodeDesc (s : State) (l : Launch) : Eff Node :=
  if l.index ≥ l.nodes then .error (.trap .descriptor 0 s)
  else match s.supLoad l (hbmAddr (l.graph + 128 * l.index)) 128 with
    | .error e => .error e
    | .ok (bs, _) =>
      let n : Node := { desc := bs }
      if n.descOk then .ok n else .error (.trap .descriptor 0 s)

/-! ## Placement (R343) -/

/-- Cores of a running node, absent cores, and odd cores of pairs count as occupied (R381, R382). -/
def State.occupied (s : State) (k : Nat) : Bool :=
  (s.launchOfCore k).isSome || s.absent k ||
    (coreIndex k % 2 == 1 && (s.cluster (clusterOf k)).rel.pairmask.getLsbD (coreIndex k / 2))

/-- Does a cluster grant MATMIN? NOMATRIX never does. -/
def State.grantsMin (s : State) (cl mm : Nat) : Bool :=
  let ok := (s.cluster cl).rel.engok
  let (m, n) := shapeLimits (bits mm 49 48) ok
  !(decide (chainWidth ok 0 = 0) && decide (chainWidth ok 1 = 0)) && decide (bits mm 15 0 ≤ m ∧ bits mm 31 16 ≤ n)

def rectCores (x y w h : Nat) : List Nat := (List.range h).flatMap fun j => (List.range w).map fun i => coreAt (x + i) (y + j)

/-- Is an origin placeable, where `free` cores count as free? -/
def State.placeable (s : State) (n : Node) (free : List Nat) (x y : Nat) : Bool :=
  let (_, _, w, h) := rectOf (n.word 8)
  let cs := rectCores x y w h
  decide (x + w ≤ 64 ∧ y + h ≤ 16) && cs.all (fun k => free.elem k || !s.occupied k) &&
    (!n.usesMatrix || (x % 4 == 0 && y % 4 == 0 &&
      (cs.map clusterOf).eraseDups.all fun cl => s.grantsMin cl (n.word 0x10)))

/-- The first placeable origin: the given one, or in ascending y and then x. -/
def State.origin (s : State) (n : Node) (free : List Nat) : Option (Nat × Nat) :=
  let (x, y, _, _) := rectOf (n.word 8)
  let tries := if n.fixed then [(x, y)] else (List.range 16).flatMap fun y => (List.range 64).map fun x => (x, y)
  tries.find? fun (x, y) => s.placeable n free x y

/-! ## The image header (R344) -/

structure Header where
  streams : List (Nat × Nat × Nat × Nat)
  /-- Offset and size of every section: streams, descriptors, constants, handlers, presets, tables, epilogues, barriers, data,
  relocations. -/
  sections : List (Nat × Nat)
  descs : Nat
  consts : Nat
  relocs : Nat
  reloc : W64
  zeros : Bool

def Header.ofBytes (bs : List Byte) : Header :=
  let w (off : Nat) : Nat := field bs off 4
  let streams := (List.range 5).map fun i => (w (16 * i), w (16 * i + 4), w (16 * i + 8), w (16 * i + 12))
  { streams := streams
    sections := streams.map (fun (o, n, _, _) => (o, n)) ++
      [(w 0x50, 256 * w 0x54), (w 0x58, 8 * w 0x5C), (w 0x60, 512), (w 0x64, 8192), (w 0x68, 512), (w 0x6C, 64), (w 0x70, 128),
       (w 0x78, w 0x7C), (w 0x80, 8 * w 0x84)]
    descs := w 0x54, consts := w 0x5C, relocs := w 0x84, reloc := BitVec.ofNat 64 (field bs 0x88 8)
    zeros := (bs.drop 0x90).all (· == 0) && w 0x74 == 0 }

/-- Offset of section i. -/
def Header.off (h : Header) (i : Nat) : Nat := (h.sections.getD i (0, 0)).1

def sectionsDisjoint : List (Nat × Nat) → Bool
  | [] => true
  | (o, n) :: xs => (xs.all fun (p, m) => n == 0 || m == 0 || decide (o + n ≤ p ∨ p + m ≤ o)) && sectionsDisjoint xs

/-- A stream's fields, and the layout of the sections. -/
def Header.ok (h : Header) : Bool :=
  h.zeros &&
  (h.streams.all fun (_, n, e, v) => n % 4 == 0 && e % 4 == 0 && (v == 0xFFFFFFFF || v % 4 == 0)) &&
  h.off 5 % 256 == 0 && (h.sections.all fun (o, _) => o % 8 == 0) &&
  (h.sections.all fun (o, n) => n == 0 || decide (0x100 ≤ o)) && sectionsDisjoint h.sections && decide (h.descs ≤ 65536)

/-- The entries of a table, each of n bytes. -/
def entriesBytes (n count : Nat) (bs : List Byte) : List Nat := (List.range count).map fun i => field bs (n * i) n

/-- A relocation names a field inside a section. -/
def Header.relocOk (h : Header) (off : Nat) : Bool := h.sections.any fun (o, n) => decide (o ≤ off ∧ off + 8 ≤ o + n)

/-- Add a difference to each relocated field of an image (R344). -/
def State.relocate (s : State) (l : Launch) (image : Nat) (d : W64) : List Nat → Eff State
  | [] => .ok s
  | off :: offs => match s.supLoad l (hbmAddr (image + off)) 8 with
    | .error e => .error e
    | .ok (bs, s) => match s.store (launchUnit l) (hbmAddr (image + off)) (w64Bytes (bytesW64 bs 0 + d)) with
      | .error e => .error e
      | .ok s => s.relocate l image d offs

/-- A loaded image: header, handlers, presets, tables, epilogue entries, barrier slots. -/
structure Image0 where
  h : Header
  hand : List Nat
  pres : List Nat
  tabs : List Nat
  epis : List Nat
  bars : List Nat

/-- Is a barrier slot entry well formed on a node of w × h cores at an origin (R353)? A DENSE slot's rectangle is aligned to the
grid's clusters. -/
def slotOk (x0 y0 w h v : Nat) : Bool :=
  let (x, y, sw, sh) := rectOf v
  bits v 57 22 == 0 &&
  (bits v 63 63 == 0 || (decide (1 ≤ sw ∧ 1 ≤ sh ∧ x + sw ≤ w ∧ y + sh ≤ h) &&
    (bits v 62 62 == 0 || ((x0 + x) % 4 == 0 && (y0 + y) % 4 == 0 && sw % 4 == 0 && sh % 4 == 0))))

/-- Read, check and relocate an image for a node of w × h cores at an origin. The relocated fields and RELOC are performed before
anything else reads the image (R344). -/
def State.loadImage (s : State) (l : Launch) (image x y w h : Nat) : Eff (Image0 × State) :=
  let bad : Eff (Image0 × State) := .error (.trap .descriptor 0 s)
  match s.supLoad l (hbmAddr image) 256 with
  | .error e => .error e
  | .ok (hb, s) =>
    let hd := Header.ofBytes hb
    if !hd.ok then bad
    else match s.supLoad l (hbmAddr (image + hd.off 13)) (8 * hd.relocs) with
      | .error e => .error e
      | .ok (rb, s) =>
        let offs := entriesBytes 8 hd.relocs rb
        if !offs.all hd.relocOk then bad
        else
          let done : Eff State := if hd.reloc.toNat = image then .ok s
            else match s.relocate l image (BitVec.ofNat 64 image - hd.reloc) offs with
              | .error e => .error e
              | .ok s => match s.store (launchUnit l) (hbmAddr (image + 0x88)) (w64Bytes (BitVec.ofNat 64 image)) with
                | .error e => .error e
                | .ok s => s.supRelease l
          match done with
          | .error e => .error e
          | .ok s =>
            let part (i n : Nat) : Eff (List Byte) := match s.supLoad l (hbmAddr (image + hd.off i)) n with
              | .ok (bs, _) => .ok bs
              | .error e => .error e
            match part 7 512, part 8 8192, part 9 512, part 10 64, part 11 128 with
            | .ok a, .ok b, .ok c, .ok d, .ok e =>
              let img : Image0 :=
                { h := hd, hand := entriesBytes 8 64 a, pres := entriesBytes 8 1024 b, tabs := entriesBytes 8 64 c
                  epis := entriesBytes 4 16 d, bars := entriesBytes 8 16 e }
              if !((img.epis.drop 1).all fun v => v == 0xFFFFFFFF || v % 4 == 0) || !(img.bars.all fun v => slotOk x y w h v) then bad
              else .ok (img, s)
            | .error e, _, _, _, _ | _, .error e, _, _, _ | _, _, .error e, _, _ | _, _, _, .error e, _ | _, _, _, _, .error e =>
              .error e

/-! ## Starting the units (R344) -/

/-- The seed of a generator (R127). -/
def seedOf (srseed cls idx : Nat) : W32 :=
  let v : W32 := BitVec.ofNat 32 (Nat.xor srseed ((cls * 2 ^ 24 + idx) * 0x9E3779B9 % 2 ^ 32))
  if v = 0 then 1 else v

/-- A barrier slot of the core at (x, y), or none where the core lies outside the slot's rectangle; the origin is the node's. -/
def slotAt (n : Node) (v x y : Nat) : BarSlot :=
  let (sx, sy, sw, sh) := rectOf v
  let x0 := n.x0 + sx
  let y0 := n.y0 + sy
  if bits v 63 63 = 1 ∧ x0 ≤ x ∧ x < x0 + sw ∧ y0 ≤ y ∧ y < y0 + sh then
    { valid := true, dense := bits v 62 62 == 1, cnt := (if bits v 61 58 = 0 then 16 else bits v 61 58), x0 := x0, y0 := y0, w := sw, h := sh }
  else {}

def indexed {α : Type} (xs : List α) : Tab α := (List.range xs.length).zip xs

/-- A lookup core at node start: handlers, presets and descriptors loaded, deque, work list, counters, markers and slots
cleared, context 0 at the entry. Use counters, frames, parked accesses and the network's queues stay. -/
def startCore (n : Node) (img : Image0) (epochs : Tab W32) (k : Nat) (c : Core) : Core :=
  let (_, len, entry, _) := n.stream 0
  let handler (v : Nat) : Handler :=
    { valid := bits v 39 39 == 1, mask := bits v 38 38 == 1, pri := BitVec.ofNat 3 (bits v 37 35), epri := BitVec.ofNat 3 (bits v 37 35)
      entry := BitVec.ofNat 32 v }
  let desc (i : Nat) : TDesc :=
    let w (j : Nat) : Nat := img.tabs.getD (4 * i + j) 0
    { w0 := BitVec.ofNat 64 (w 0), w1 := BitVec.ofNat 64 (setBits (w 1) 5 4 0), w2 := BitVec.ofNat 64 (w 2)
      ucbase := BitVec.ofNat 12 (w 3 / 2 ^ 52), epoch := Tab.get 0 epochs i }
  let preset (i v : Nat) : W64 := BitVec.ofNat 64 (if i % 16 ≥ 14 then 0 else if i % 2 = 1 then v % 2 ^ 19 else v)
  { c with
    ctxs := (List.range 16).map fun i => (i,
      let x := LCtx.reset i
      { x with
        live := i == 0 && len != 0, pc := if i = 0 then BitVec.ofNat 32 entry else 0
        num := { x.num with sr := seedOf n.srSeed 1 (16 * k + i) } })
    channels := [], handlers := indexed (img.hand.map handler)
    presets := ((List.range 1024).zip img.pres).map fun (i, v) => (i, preset i v)
    tdesc := (List.range 16).map fun i => (i, desc i)
    acks := [], landing := [], resv := 0, reqStore := 0, deque := [], worklist := [], forward := [], lastVictim := none, stolen := []
    bar := (List.range 16).map fun i => (i, slotAt n (img.bars.getD i 0) (coreX k) (coreY k))
    levelSent := 0 }

/-- A sequencer at node start: a stream of length zero starts halted (R207). -/
def startSeq (n : Node) (stream : Nat) (save : Nat) (sr : W32) : Seqr :=
  let (_, len, entry, _) := n.stream stream
  { live := len != 0, pc := BitVec.ofNat 32 entry, num := { sr := sr }, trap := { save := BitVec.ofNat 49 save } }

/-- A dense core at node start (R207, R209); engines keep their register sets. -/
def startDense (n : Node) (img : Image0) (cl : Nat) (ok : BitVec 4) (d : Dense) : Dense :=
  let seed (cls idx : Nat) : W32 := seedOf n.srSeed cls idx
  let corner := cornerCore cl
  { eng := d.eng, mengok := ok
    sc := startSeq n 1 0x1FFF000 (seed 2 cl)
    ld := startSeq n 2 0 1
    st := startSeq n 3 0 1
    cp := startSeq n 4 0x1FFF800 (seed 3 cl)
    epi := (List.range 4).map fun e => (e, { sr := seed 4 (4 * cl + e) })
    mxsr := (List.range 4).map fun e => (e, seed 5 (4 * cl + e))
    bar := (List.range 16).map fun i =>
      let b := slotAt n (img.bars.getD i 0) (coreX corner) (coreY corner)
      (i, if b.dense then b else {}) }

/-- Does a unit belong to a node? -/
def Node.owns (n : Node) (u : UnitId) : Bool :=
  match u with
  | .ctx k _ | .ni k => n.hasCore k
  | .sup _ | .port _ | .host | .home _ => false
  | .engine c e => decide (e < 3) && n.dense && n.hasCluster c
  | u => n.dense && n.hasCluster u.cl

/-- Put spare edits and failed cores in force where no node runs on the cluster, or everywhere at a MAPFENCE; the replaced core's use
counters start at zero and the loss is logged (R368, R382, R384). -/
def State.applySpares (s : State) (all : Bool) : State :=
  let busy (cl : Nat) : Bool := s.launches.any fun l => match l.node with | some n => n.touched.elem cl | none => false
  let (now, later) := s.smapNew.partition fun (cl, _, _) => all || !busy cl
  let s := { s with smapNew := later }
  let s := now.foldl (fun s (cl, i, on) =>
    let old := (s.cluster cl).rel
    let s := s.onRel cl fun r => { r with spareUsed := on, spareFor := BitVec.ofNat 4 i }
    if on && !old.spareServes i then
      (s.onCore (coreIn cl i) fun c => { c with useCtr := [] }).ordelLog cl 0 i
    else s) s
  (List.range 64).foldl (fun s cl =>
    if (s.cluster cl).rel.failed != (s.cluster cl).rel.failedNow && (all || !busy cl) then s.onRel cl fun r => { r with failedNow := r.failed }
    else s) s

/-- The odd core of a checked pair holds what its even core's tile memory holds (R381): it is read again only when a node starts on it
uncoupled, and takes the contents, with their poison, then. -/
def State.uncouple (s : State) (cl i : Nat) : State :=
  let src := s.tileKey (coreIn cl (2 * i)) 0
  let dst := s.tileKey (coreIn cl (2 * i + 1)) 0
  let inAt (base a : Nat) : Bool := decide (base ≤ a ∧ a < base + 2 ^ 21)
  let bad := s.poison.filter fun g => inAt src (32 * g)
  let from' := s.mem.filter fun c => inAt src c.1
  let s := (s.mem.filter fun c => inAt dst c.1).foldl (fun s c => s.writeKey c.1 [0]) s
  let s := from'.foldl (fun s c => s.writeKey (c.1 - src + dst) [c.2]) s
  let s := { s with poison := s.poison.filter fun g => !inAt dst (32 * g) }
  bad.foldl (fun s g => s.setPoison (g - src / 32 + dst / 32)) s
/-- A node's clusters take their PAIRMASK (R381). -/
def State.couple (s : State) (cl : Nat) : State :=
  let s := (List.range 8).foldl (fun s i => if (s.cluster cl).rel.pairNow.getLsbD i then s.uncouple cl i else s) s
  s.onRel cl fun r => { r with pairNow := r.pairmask }

/-- The carry values of a launch's granules, those absent as its save record holds them (R372, R381); epochs still in it are read (R372). -/
def State.startValues (s : State) (l : Launch) : Eff (Tab W64 × Launch × State) :=
  let at' (o : Nat) : W64 := hbmAddr (l.savePtr.toNat + o)
  let g : Eff (List W64 × State) :=
    if !(l.absentLo || l.absentHi) then .ok ([], s)
    else match s.loadRaw (launchWho l) (at' 0x10) 64 with
      | .error e => .error e
      | .ok (bs, _, s) => .ok ((List.range 8).map fun i => bytesW64 bs (8 * i), s)
  match g with
  | .error e => .error e
  | .ok (g, s) =>
    let vals : Tab W64 := (List.range 8).map fun i => (i, if (if i < 4 then l.absentLo else l.absentHi) then g.getD i 0 else Tab.get 0 l.g i)
    if !l.epochsSaved then .ok (vals, l, s)
    else match s.supLoad l (at' 0x50) 64 with
      | .error e => .error e
      | .ok (bs, s) =>
        .ok (vals, { l with epochs := (List.range 16).map fun i => (i, BitVec.ofNat 32 (field bs (4 * i) 4)), epochsSaved := false }, s)

/-- Load a launch's node into a rectangle and start its units (R344), under the maps in force then. A rectangle that is not one of R343
fails the launch. -/
def State.startNode (s : State) (l : Launch) (n : Node) (x y w h : Nat) : Eff State :=
  if x + w > 64 ∨ y + h > 16 ∨ w = 0 ∨ h = 0 ∨ (n.usesMatrix ∧ (x % 4 ≠ 0 ∨ y % 4 ≠ 0 ∨ w % 4 ≠ 0 ∨ h % 4 ≠ 0)) then
    .error (.trap .descriptor 0 s)
  else match s.supRelease l with
    | .error e => .error e
    | .ok s => match (s.applySpares false).loadImage l (n.word 0x18) x y w h with
    | .error e => .error e
    | .ok (img, s) => match s.startValues l with
    | .error e => .error e
    | .ok (snap, l, s) =>
      let image := n.word 0x18
      let n : Node :=
        { n with
          image := BitVec.ofNat 64 image, x0 := x, y0 := y, w := w, h := h, dense := n.usesMatrix, streams := img.h.streams
          dtBase := image + img.h.off 5, dtCount := img.h.descs, ctBase := image + img.h.off 6, ctCount := img.h.consts
          epis := img.epis, gen := s.gen, started := 0, since := s.time, levelBase := s.time }
      let cl := clusterOf n.corner
      let held := s.launches.any fun x => match x.node with | some m => m.stopped && decide (clusterOf m.corner = cl) | none => false
      let s := s.onLaunch l.id fun _ => { l with state := .onNode, node := some n, indexSaved := false }
      let s := { s with markersOut := s.markersOut.filter fun m => match m.who with | some u => !n.owns u | none => true }
      let s := n.touched.foldl State.couple s
      let s := n.cores.foldl (fun s k => s.onCore k (startCore n img l.epochs k)) s
      let s := n.clusters.foldl (fun s cl =>
        let s := s.onCe cl fun e => { e with sr := (List.range 4).map fun q => (q, seedOf n.srSeed 6 (4 * cl + q)) }
        if n.dense then s.onDense cl fun d => startDense n img cl (s.cluster cl).rel.engok d else s) s
      .ok (s.onCluster cl fun c =>
        { c with
          report := if held then c.report else {}
          carry := { g := l.g, absentLo := l.absentLo, absentHi := l.absentHi, savePtr := l.savePtr }
          rel := { c.rel with
            snapG := snap
            snapEp := (List.range 8).map fun i =>
              (i, (Tab.get 0 l.epochs (2 * i)).setWidth 64 + (Tab.get 0 l.epochs (2 * i + 1)).setWidth 64 <<< 32) } })

/-! ## Abandoning a rectangle (R339, R374) -/

/-- Item records of abandoned items: core, source, kind, who and where of each. -/
def State.items (s : State) (cause launch : Nat) (xs : List (Nat × Nat × Nat × W64 × W64)) : State :=
  xs.foldl (fun s (core, src, kind, who, loc) => s.item core src kind cause launch who loc) s

def Message.who (m : Message) : W64 := BitVec.ofNat 64 (m.tag.toNat * 2 ^ 16 + m.chan)
def RowJob.who (j : RowJob) : W64 := BitVec.ofNat 64 (j.tbl * 2 ^ 32 + j.row)

/-- The messages that a core's activations hold. -/
def Core.heldMessages (c : Core) : List Message :=
  (List.range 16).flatMap fun i => match (c.ctx i).act with
    | some a => a.held.filterMap fun h => match h with | .msg m => some m | _ => none
    | none => []

/-- Stop every unit of a rectangle at once: contexts, sequencers and operations are abandoned, messages to it discarded, its
row work, copy commands and messages reported failed with a cause; what has failed before is not reported again (R339, R374). -/
def State.nstop (s : State) (x y w h cause : Nat) : State :=
  let cs := rectCores x y w h
  let inside (k : Nat) : Bool := cs.elem k
  let own (u : UnitId) : Bool := match u with
    | .ctx k _ => inside k
    | .sup _ | .port _ | .host => false
    | u => inside (coreIn u.cl 0) && inside (coreIn u.cl 15)
  let launch (k : Nat) : Nat := s.launchId (.home k)
  -- messages queued in the rectangle, and on the way to it
  let toHere (m : Message) : Bool := decide (m.dstDev = Config.deviceNumber) && inside m.dstCore
  let s := cs.foldl (fun s k =>
    let ms := ((s.core k).channels.flatMap (·.2) ++ (s.core k).heldMessages).map fun m => (m.srcCore, 0, 2, m.who, (0 : W64))
    let rq := (s.core k).rowReqs.map fun j => (k, 0, 4, j.who, j.dest)
    (s.items cause (launch k) (ms ++ rq)).onCore k fun c =>
      { c with channels := [], rowReqs := [], landings := [], deque := [], worklist := [], forward := [], stolen := [], retries := [] }) s
  let s := s.cores.foldl (fun s (p, _) =>
    let c := Tab.get {} s.cores p
    let gone (ms : List Message) : List Message := ms.filter toHere
    let ops (js : List RowJob) : List RowJob := js.filter fun j => j.isOp && inside j.src && j.port.isNone
    let msgs := (gone c.vn0 ++ gone c.vn1 ++ gone c.puts).map fun m => (m.srcCore, 0, 2, m.who, (0 : W64))
    let fq : List RowJob := c.fq.filterMap fun p => match p with | .row _ j => some j | _ => none
    let rows := (ops c.rowOut ++ ops c.rowQ ++ ops fq ++ c.rowOps.filter fun j => inside j.src).map fun j => (j.src, 0, 3, j.who, (0 : W64))
    let stay (j : RowJob) : Bool := !inside j.src || j.port.isSome
    let s := s.items cause (match cs with | k :: _ => launch k | [] => 0) (msgs ++ rows)
    { s with cores := Tab.set s.cores p { c with
        vn0 := c.vn0.filter (!toHere ·), vn1 := c.vn1.filter (!toHere ·), puts := c.puts.filter (!toHere ·)
        rowOut := c.rowOut.filter stay, rowQ := c.rowQ.filter stay, rowOps := c.rowOps.filter fun j => !inside j.src
        landings := c.landings.filter fun l => !inside l.job.src
        fq := c.fq.filter fun p => match p with
          | .read u .. | .amo u .. | .load _ u .. => !own u
          | .row _ j => stay j
          | _ => true } }) s
  let s := cs.foldl (fun s k => s.onCore k fun c =>
    { c with ctxs := c.ctxs.map fun (i, x) => (i, { x with live := false, act := none, wait := .none, delivered := [] })
             acks := [], resv := 0, reqStore := 0 }) s
  -- copy commands issued in the rectangle
  let s := (List.range 64).foldl (fun s cl =>
    let all := ((s.cluster cl).ce.q.flatMap (·.2)).filter fun c => own c.issuer
    let mine := all.filter fun c => c.state != .failed
    let s := s.items cause (match cs with | k :: _ => launch k | [] => 0)
      (mine.map fun c => (c.core, (UnitId.copy cl c.q).src, 1, BitVec.ofNat 64 c.who, (Desc.ofBytes c.desc).dst))
    let s := mine.foldl (fun s c =>
      let s := (s.recordCopy cl c cause).writeStat c 5
      c.frames.foldl (fun s (h, f) => s.setFrame h f 2) s) s
    if all.isEmpty then s
    else s.onCe cl fun e =>
      { e with
        q := e.q.map fun (i, l) => (i, l.filter fun c => !own c.issuer)
        waits := e.waits.filter fun (i, _) => !all.any fun c => c.q == i }) s
  -- dense cores of whole clusters
  let s := (List.range 64).foldl (fun s cl =>
    if !own (.scalar cl) then s
    else s.onDense cl fun d =>
      { d with
        sc := { d.sc with live := false, wait := .none, delivered := [] }, ld := { d.ld with live := false, wait := .none, delivered := [] }
        st := { d.st with live := false, wait := .none, delivered := [] }, cp := { d.cp with live := false, wait := .none, delivered := [] }
        epi := d.epi.map fun (i, e) => (i, { e with live := false })
        eng := d.eng.map fun (i, e) => (i, { e with busy := false, ready := false, spill := [], result := none })
        mq := [], running := [], follow := [], drain := [], pend := [], relay := [], frozen := none, late := [], mfault := false
        vfault := none, loading := [], fqBad := []
        dload := d.dload.map fun (i, r) => (i, { r with fill := none }), dstore := d.dstore.map fun (i, r) => (i, { r with fill := none }) }) s
  -- parked misses of cluster memory
  let stays (p : MissPark) : Bool := match p.acc with
    | .read u .. | .amo u .. | .load _ u .. => !own u
    | _ => true
  let s := { s with clusters := s.clusters.map fun ((i, c) : Nat × Cluster) => (i, { c with cm := { c.cm with parked := c.cm.parked.filter stays } }) }
  State.applySpares { s with
    extReads := s.extReads.filter fun r => !own r.u
    launches := s.launches.map fun l => match l.node with
      | some n => if inside n.corner then { l with node := none, state := .boundary } else l
      | none => l } false

/-! ## Completion records (R337, R339, R373) -/

/-- Send a completion record to CREC: a SYSTEM address of device 0xFFFF, a multiple of 64, in an open window with W; else a
KIND 6 item. -/
def State.sendCompletion (s : State) (l : Launch) (bs : List Byte) : State :=
  let a := l.crec
  let host := bits a.toNat 43 0
  let fail (c : Cause) (s : State) : State :=
    let (free, s) := s.freeBytes 11
    s.item (leNat (free.take 2) % 1024) (leNat ((free.drop 2).take 1) % 16) 6 c.code l.id (BitVec.ofNat 64 (leNat (free.drop 3))) a
  if addrSpace a ≠ 9 ∨ bits a.toNat 59 44 ≠ 0xFFFF ∨ a.toNat % 64 ≠ 0 ∨ host + 64 > 2 ^ 44 then fail .space s
  else match s.hostWindow host 64 .w with
    | none => fail .xlatePerm s
    | some w => s.sendHost { type := 2, seq := 0, addr := host, aux := 0, payload := bs, port := w.port, ackreq := true }

/-- The record the device builds where no supervisor wrote one. -/
def completionBytes (l : Launch) (status cause : Nat) (r : StopReport) (now : W64) : List Byte :=
  leBytes 8 l.lid ++ leBytes 8 (min 65535 l.items * 2 ^ 32 + l.index % 65536 * 2 ^ 16 + cause * 2 ^ 8 + status) ++ w64Bytes now ++
  leBytes 8 r.word1 ++ leBytes 8 r.word0 ++ w64Bytes r.addr ++ leBytes 16 0

/-- An item record of a node or a launch, whose WHO, CORE and SRC the spec leaves open (DESIGN CHOICE, log 4). -/
def State.openItem (s : State) (kind cause launch : Nat) : State :=
  let (free, s) := s.freeBytes 11
  s.item (leNat (free.take 2) % 1024) (leNat ((free.drop 2).take 1) % 16) kind cause launch (BitVec.ofNat 64 (leNat (free.drop 3))) 0

/-- Retire a launch with a status and a cause: a running node is abandoned, and a FAILED launch reports itself. -/
def State.retireLaunch (s : State) (l : Launch) (status cause : Nat) : State :=
  let (s, r) : State × StopReport := match l.node with
    | none => (s, {})
    | some n =>
      let r := (s.cluster (clusterOf n.corner)).report
      ((s.openItem 5 cause l.id).nstop n.x0 n.y0 n.w n.h cause, r)
  let s := if status = 2 then s.openItem 6 cause l.id else s
  let l := (s.launch? l.id).getD l
  let s := s.sendCompletion l (completionBytes l status cause r s.devns)
  { s with launches := s.launches.filter fun x => x.id != l.id, markersOut := s.markersOut.filter fun m => m.launch != l.id || m.who.isSome }

/-- What stops a boundary's work: a cause fails the launch, anything else waits. -/
def State.settleLaunch (s : State) (l : Launch) (e : Eff State) : State :=
  match e with
  | .ok t => t.dropDelivered (launchUnit l)
  | .error (.trap c _ t) => (t.dropDelivered (launchUnit l)).retireLaunch l 2 c.code
  | .error e => s.copyWaits (launchUnit l) e

/-! ## The launch arbiter (R338) -/

def Launch.key (l : Launch) (now : Nat) : Nat := max l.deadline now
/-- Is a launch chosen before another? -/
def Launch.before (now : Nat) (a b : Launch) : Bool :=
  decide (a.key now < b.key now ∨ (a.key now = b.key now ∧ (a.queue < b.queue ∨ (a.queue = b.queue ∧ a.arrival < b.arrival))))

/-- The choice among waiting launches of the masked queues. -/
def bestLaunch (now : Nat) (ls : List Launch) : Option Launch :=
  ls.foldl (fun r l => match r with
    | none => some l
    | some b => if l.before now b then some l else some b) none

def State.waitingIn (s : State) (mask : Nat) : List Launch :=
  s.launches.filter fun l => decide (l.state = .waiting) && bits mask l.queue l.queue == 1

/-- Retire the late launches that ask for it. -/
def State.dropLate (s : State) (mask : Nat) : State :=
  (s.waitingIn mask).foldl (fun s l => if l.dropLate && decide (l.deadline < s.devns.toNat) then s.retireLaunch l 1 0 else s) s

/-- A chosen launch runs; one whose SAVEREC is set is resumed from its save record, which is read as its parts are needed, both granules
absent (R371, R372). -/
def State.popLaunch (s : State) (l : Launch) : State :=
  s.onLaunch l.id fun l =>
    if l.saverec = 0 then { l with state := .running }
    else { l with state := .running, absentLo := true, absentHi := true, savePtr := l.saverec, indexSaved := true, epochsSaved := true }

/-- LNPOP's choice; a launch malformed as it arrived fails and the next is chosen. -/
def State.chooseLaunch (s : State) (mask : Nat) : Nat → Option Launch × State
  | 0 => (none, s)
  | n + 1 => match bestLaunch s.devns.toNat (s.waitingIn mask) with
    | none => (none, s)
    | some l => match l.failCause with
      | some c => (s.retireLaunch l 2 c.code).chooseLaunch mask n
      | none => (some l, s.popLaunch l)

/-! ## Boundaries (R337, R340, R368, R382) -/

/-- Write number `i` of a launch's requeue, made once by a unit, and released: it is performed, or the attempt stands and the launch's
boundary waits. -/
def State.requeueWrite (s : State) (u : UnitId) (l : Launch) (i : Nat) (a : W64) (bs : List Byte) : Eff State :=
  if l.wrote > i then s.release u
  else match s.store u a bs with
    | .error e => .error e
    | .ok t =>
      let done (t : State) : State := t.onLaunch l.id fun l => { l with wrote := i + 1, saveAt := if l.wrote = 0 then a else l.saveAt }
      let t := t.drain u
      if t.unreleased u then .error (.again fun s => match s.store u a bs with
        | .ok t => (done t).drain u
        | .error _ => s)
      else .ok t

/-- Requeue a launch with a save record (R337): SAVEREC is written into the launch record by a unit, with a release, and the
launch waits again with its deadline and arrival. -/
def State.requeue (s : State) (u : UnitId) (l : Launch) (saverec : W64) : Eff State :=
  match s.requeueWrite u l 1 (hbmAddr (l.recAddr.toNat + 0x28)) (w64Bytes saverec) with
  | .error e => .error e
  | .ok t => .ok (t.onLaunch l.id fun l =>
      { l with state := .waiting, node := none, wrote := 0, bytes := patchBytes l.bytes 0x28 (w64Bytes saverec) })

/-- The launch save record of R371. -/
def saveBytes (l : Launch) : List Byte :=
  leBytes 8 l.graph ++ leBytes 8 (l.index % 65536) ++ (List.range 8).flatMap (fun i => w64Bytes (Tab.get 0 l.g i)) ++
  (List.range 16).flatMap (fun i => leBytes 4 (Tab.get 0 l.epochs i).toNat) ++ List.replicate 112 0

end Sys2Proof.Machine
end

