-- ==== Sys2Proof/Machine/SupWords.lean ====
section
/-! DEFINITION. The supervisor functions of SYS: launches and nodes (R339), maps (R368, R383) and the page-table root. -/

namespace Sys2Proof.Machine

/-- A word that only a supervisor core may run: PRIV on a dense scalar sequencer (R25). -/
def supWord (s : State) (f : UnitId → Eff State) : Host.Outcome State Fault Refusal :=
  scalarWord s fun u => match u with
    | .sup n => f (.sup n)
    | _ => .error (.trap .priv 0 s)

/-- A launch by its condition. -/
def State.findLaunch (s : State) (p : Launch → Bool) : Option Launch := s.launches.find? p

/-- LNPOP: late launches that ask for it are retired, and the choice runs; 0 when none waits. -/
def execSysLnpop (w : BitVec 3) (d a : BitVec 5) (s : State) : Host.Outcome State Fault Refusal :=
  supWord s fun u =>
    match s.interlock u [a] (some (d, true)) with
    | .error q => .error q
    | .ok _ =>
      let mask := (s.sVal u a).toNat
      let s := s.dropLate mask
      let (l, s) := s.chooseLaunch mask (s.launches.length + 1)
      .ok ((s.putS u d { val := match l with | some l => l.recAddr | none => 0 } 1).retire u w.toNat)

/-- A launch is gone, and its markers with it. -/
def State.dropLaunch (s : State) (id : Nat) : State :=
  { s with launches := s.launches.filter fun x => x.id != id, markersOut := s.markersOut.filter fun m => m.launch != id || m.who.isSome }
/-- A launch ends by LNRET: its record is sent, and a FAILED one reports itself. It is gone, but for its record's number where one left. -/
def State.endLaunch (s : State) (l : Launch) (status cause : Nat) (bs : List Byte) : State :=
  let s := if status = 2 then s.openItem 6 cause l.id else s
  let t := s.sendCompletion l bs
  if t.hostSeq = s.hostSeq then t.dropLaunch l.id
  else
    { t with
      launches := t.launches.map fun x => if x.id = l.id then { x with state := .retired, node := none, sent := some s.hostSeq } else x
      markersOut := t.markersOut.filter fun m => m.launch != l.id || m.who.isSome }

/-- LNRET: status 0 to 2 sends the record and ends the launch, and its release is complete when the record is acknowledged (R392); 3
requeues it with the record's SAVEREC (R337). -/
def execSysLnret (w : BitVec 3) (a : BitVec 5) (s : State) : Host.Outcome State Fault Refusal :=
  supWord s fun u =>
    match s.interlock u [a] none with
    | .error q => .error q
    | .ok _ => match s.load u (s.sVal u a) 64 with
      | .error q => .error q
      | .ok (bs, s) =>
        let status := field bs 8 1
        if status > 3 then .error (.trap .descriptor 0 s)
        else
          match s.release u with
          | .error e => .error e
          | .ok s => match s.findLaunch fun l => decide (l.lid = field bs 0 8 ∧ l.state ≠ .waiting) with
            | none => .ok (s.retire u w.toNat)
            | some l => match l.sent with
              | some n => if s.unacked.any fun p => p.seq == n then .error (.wait .retry) else .ok ((s.dropLaunch l.id).retire u w.toNat)
              | none =>
                if status = 3 then (s.requeue u l (bytesW64 bs 0x30)).map fun t => t.retire u w.toNat
                else
                  let t := s.endLaunch l status (field bs 9 1) bs
                  if (t.launch? l.id).isSome then .error (.again fun _ => t) else .ok (t.retire u w.toNat)

/-- Is a rectangle free, and does each of its clusters grant MATMIN (R343)? -/
def State.rectReady (s : State) (n : Node) (x y w h : Nat) : Bool :=
  let cs := rectCores x y w h
  cs.all (fun k => !s.occupied k) && (!n.usesMatrix || (cs.map clusterOf).eraseDups.all fun cl => s.grantsMin cl (n.word 0x10))

/-- NSTART: the launch whose descriptor is at sa starts its node on the rectangle in sb; a malformed one fails the launch. A rectangle
that is not yet placeable is waited for (R343; DEDUCED, log 101). -/
def execSysNstart (w : BitVec 3) (a b : BitVec 5) (s : State) : Host.Outcome State Fault Refusal :=
  supWord s fun u =>
    match s.interlock u [a, b] none with
    | .error q => .error q
    | .ok _ =>
      let at' := bits (s.sVal u a).toNat 47 0
      let (x, y, wd, h) := rectOf (s.sVal u b).toNat
      let here (l : Launch) : Bool :=
        (l.state == .running || l.state == .boundary) && l.node.isNone && decide (l.graph ≤ at' ∧ (at' - l.graph) % 128 = 0)
      match s.findLaunch fun l => here l && decide ((at' - l.graph) / 128 < l.nodes) with
      | none => .ok (s.retire u w.toNat)
      | some l =>
        let l := { l with index := (at' - l.graph) / 128, indexSaved := false }
        let s := s.onLaunch l.id fun _ => l
        let started : Eff State := match s.nodeDesc l with
          | .error e => .error e
          | .ok n => if n.kind ≠ 0 then .error (.trap .descriptor 0 s)
            else if decide (x + wd ≤ 64 ∧ y + h ≤ 16) && !s.rectReady n x y wd h then .error (.wait .retry)
            else s.startNode l n x y wd h
        match started with
        | .ok t => .ok ((t.dropDelivered (launchUnit l)).retire u w.toNat)
        | .error (.trap c _ t) => .ok (((t.dropDelivered (launchUnit l)).retireLaunch l 2 c.code).retire u w.toNat)
        | .error (.wait w) => .error (.wait w)
        | .error e => .error (.again fun s => s.copyWaits (launchUnit l) e)

/-- Stop every unit of a rectangle: the nodes whose corner lies in it are reported abandoned with their reports' causes. -/
def State.stopRect (s : State) (x y w h : Nat) : State :=
  let inside (n : Node) : Bool := (rectCores x y w h).elem n.corner
  let ls := s.launches.filterMap fun l => l.node.bind fun n => if inside n then some (l, n) else none
  let cause := match ls with
    | (_, n) :: _ => (s.cluster (clusterOf n.corner)).report.cause.toNat
    | [] => 0
  (ls.foldl (fun s (l, n) => s.openItem 5 (s.cluster (clusterOf n.corner)).report.cause.toNat l.id) s).nstop x y w h cause

/-- NSTOP. -/
def execSysNstop (w : BitVec 3) (a : BitVec 5) (s : State) : Host.Outcome State Fault Refusal :=
  supWord s fun u =>
    match s.interlock u [a] none with
    | .error q => .error q
    | .ok _ =>
      let (x, y, wd, h) := rectOf (s.sVal u a).toNat
      .ok ((s.stopRect x y wd h).retire u w.toNat)

/-- Edit the cluster map (R368, R383): running nodes keep the map they started under. -/
def State.editCmap (s : State) (cl : Nat) (p : Option Nat) : State :=
  let at' (c : Nat) : Option Nat := Tab.get (some c) s.cmap c
  let other := match p with
    | some q => (List.range 64).find? fun c => decide (c ≠ cl ∧ at' c = some q)
    | none => none
  let map := Tab.set s.cmap cl p
  let map := match other with
    | some c => Tab.set map c (at' cl)
    | none => map
  let edited := (cl :: other.toList).filter fun c => Tab.get (some c) map c != at' c
  { s with
    cmap := map
    cmapNew := s.cmapNew ++ edited.filter fun c => !s.cmapNew.elem c
    launches := s.launches.map fun l => { l with node := l.node.map fun n => { n with map := n.map.or (some s.cmap) } } }

/-- CMAPW. -/
def execSysCmapw (w : BitVec 3) (a b : BitVec 5) (s : State) : Host.Outcome State Fault Refusal :=
  supWord s fun u =>
    match s.interlock u [a, b] none with
    | .error q => .error q
    | .ok _ =>
      let cl := (s.sVal u a).toNat
      let v := (s.sVal u b).toNat
      if cl > 63 ∨ v > 127 then .error (.trap .space 0 s)
      else .ok ((s.editCmap cl (if bits v 6 6 = 1 then none else some (v % 64))).retire u w.toNat)

/-- SMAPW. -/
def execSysSmapw (w : BitVec 3) (a b : BitVec 5) (s : State) : Host.Outcome State Fault Refusal :=
  supWord s fun u =>
    match s.interlock u [a, b] none with
    | .error q => .error q
    | .ok _ =>
      let cl := (s.sVal u a).toNat
      let v := (s.sVal u b).toNat
      if cl > 63 ∨ v > 31 then .error (.trap .space 0 s)
      else
        let s := { s with smapNew := s.smapNew ++ [(cl, v % 16, bits v 4 4 == 1)] }
        .ok ((s.applySpares false).retire u w.toNat)

/-- Accesses in flight that MAPFENCE waits for: stores, rows, landings, PUTs, refused and parked accesses; misses parked at the Lantern,
descriptor fills. -/
def Core.inFlight (c : Core) : Bool :=
  !c.rowOut.isEmpty || !c.rowQ.isEmpty || !c.landings.isEmpty || !c.puts.isEmpty || !c.retries.isEmpty || !c.fq.isEmpty ||
    c.vn0.any fun m => m.put.isSome

def Cluster.inFlight (c : Cluster) : Bool :=
  !c.cm.parked.isEmpty || (c.dense.dload ++ c.dense.dstore).any fun (_, r) => r.fill.isSome

/-- The new maps come into force and the generation advances (R368). -/
def State.newMaps (s : State) : State :=
  let g := s.gen + 1
  { s with
    gen := g, cmapNew := [], changed := s.cmapNew.foldl (fun t c => Tab.set t c g) s.changed
    launches := s.launches.map fun l => { l with node := l.node.map fun n => { n with map := none } } }

/-- MAPFENCE. -/
def execSysMapfence (w : BitVec 3) (s : State) : Host.Outcome State Fault Refusal :=
  supWord s fun u =>
    let t := s.performAll fun _ => true
    if !t.storesOut.isEmpty || (t.cores.any fun (_, c) => c.inFlight) || t.clusters.any fun (_, c) => c.inFlight then .error (.again fun _ => t)
    else .ok ((t.newMaps.applySpares true).retire u w.toNat)

/-- PTBASE. -/
def execSysPtbase (w : BitVec 3) (a : BitVec 5) (s : State) : Host.Outcome State Fault Refusal :=
  supWord s fun u =>
    match s.interlock u [a] none with
    | .error q => .error q
    | .ok _ => .ok ({ s with ptRoot := s.sVal u a }.retire u w.toNat)

end Sys2Proof.Machine
end

