-- ==== Sys2Proof/Machine/Boundary.lean ====
section
/-! DEFINITION. Node boundaries: placement, BRANCH, BARRIER and END nodes (R341 to R343), carry granules (R372), the watchdog
(R370), phase end and the end-of-phase bundle (R351), pre-emption (R340). -/

namespace Sys2Proof.Machine

/-- A launch between nodes. -/
def Launch.between (l : Launch) : Bool := (l.state == .running || l.state == .boundary) && l.node.isNone

/-- What a boundary does with the descriptor a launch has reached: DESCRIPTOR where it is malformed; another kind waits. -/
def State.atBoundary (s : State) (id kind : Nat) (f : State → Launch → Node → State) : State :=
  match s.launch? id with
  | none => s
  | some l =>
    if !l.between then s
    else match s.reach l with
      | .error e => s.settleLaunch l (.error e)
      | .ok l =>
        let s := if l.indexSaved then s else s.onLaunch id fun _ => l
        match s.nodeDesc l with
        | .error e => s.settleLaunch l (.error e)
        | .ok n => if n.kind = kind then f s l n else s

/-- A KERNEL node starts at the first placeable origin; else it waits and holds no area. -/
def State.placeNode (s : State) (l : Launch) (n : Node) : State :=
  let (_, _, w, h) := rectOf (n.word 8)
  match s.origin n [] with
  | none => s
  | some (x, y) => (s.settleLaunch l (s.startNode l n x y w h))

/-- NODE_PLACEMENT: launch `a`. -/
def execNodePlacement (s : State) : Host.Outcome State Fault Refusal := .next (s.atBoundary s.arg.a 0 fun s l n => s.placeNode l n)

/-! ## Carry granules -/

/-- The four values of an absent granule, from the save record. -/
def State.granuleValues (s : State) (l : Launch) (savePtr : W64) (hi : Bool) : Eff (List W64) :=
  match s.supLoad l (hbmAddr (savePtr.toNat + 0x10 + if hi then 32 else 0)) 32 with
  | .error e => .error e
  | .ok (bs, _) => .ok ((List.range 4).map fun i => bytesW64 bs (8 * i))

/-- Put four values at a granule's place. -/
def putGranule (g : Tab W64) (hi : Bool) (vs : List W64) : Tab W64 :=
  ((List.range 4).zip vs).foldl (fun g (i, v) => Tab.set g (i + if hi then 4 else 0) v) g

/-- Does a unit of a node wait for a granule of the carry registers? -/
def State.waitsCarry (s : State) (n : Node) (hi : Bool) : Bool :=
  (n.cores.any fun k => (List.range 16).any fun c => s.wait (.ctx k c) == .carry hi) ||
    n.clusters.any fun cl => [UnitId.scalar cl, .load cl, .store cl, .compute cl].any fun u => s.wait u == .carry hi

/-- Fill a granule of a corner cluster that an access has touched: a poisoned record fails the launch with POISON (R372). -/
def State.fillCarry (s : State) (cl : Nat) (hi : Bool) : State :=
  let c := (s.cluster cl).carry
  let mine := s.launches.find? fun l => match l.node with
    | some n => decide (clusterOf n.corner = cl) && s.waitsCarry n hi
    | none => false
  match mine with
  | none => s
  | some l =>
    if !(if hi then c.absentHi else c.absentLo) then s
    else s.settleLaunch l ((s.granuleValues l c.savePtr hi).map fun vs => s.onCluster cl fun x => { x with carry := { x.carry with
      g := putGranule x.carry.g hi vs, absentHi := x.carry.absentHi && !hi, absentLo := x.carry.absentLo && hi } })

/-- CARRY_GRANULE_FILL: corner cluster `a`, `yes` for g4 to g7; the waiting accesses issue again. -/
def execCarryGranuleFill (s : State) : Host.Outcome State Fault Refusal := .next (s.fillCarry s.arg.a s.arg.yes)

/-- Fill a launch's granule between nodes. -/
def State.fillLaunch (s : State) (l : Launch) (hi : Bool) : Eff Launch :=
  if !(if hi then l.absentHi else l.absentLo) then .ok l
  else match s.granuleValues l l.savePtr hi with
    | .error e => .error e
    | .ok vs => .ok { l with g := putGranule l.g hi vs, absentHi := l.absentHi && !hi, absentLo := l.absentLo && hi }

/-! ## BRANCH, BARRIER, END -/

/-- A BRANCH condition (R342). -/
def branchTaken (cond : Nat) (g v : W64) : Bool :=
  match cond with
  | 0 => g == v
  | 1 => g != v
  | 2 => g.slt v
  | 3 => v.sle g
  | 4 => g.ult v
  | _ => v.ule g

/-- BRANCH_NODE: launch `a`. -/
def execBranchNode (s : State) : Host.Outcome State Fault Refusal :=
  .next (s.atBoundary s.arg.a 1 fun s l n =>
    let w := n.word 0x50
    let i := bits w 2 0
    match s.fillLaunch l (decide (4 ≤ i)) with
    | .error e => s.settleLaunch l (.error e)
    | .ok l =>
      let taken := branchTaken (bits w 6 4) (Tab.get 0 l.g i) (BitVec.ofNat 64 (n.word 0x58))
      (s.dropDelivered (launchUnit l)).onLaunch l.id fun _ => { l with state := .boundary, index := if taken then bits w 47 32 else bits w 63 48 })

/-- BARRIER_NODE_POLL: launch `a` reads the word at WADDR. -/
def execBarrierNodePoll (s : State) : Host.Outcome State Fault Refusal :=
  .next (s.atBoundary s.arg.a 2 fun s l n =>
    let w := launchWho l
    if s.extReads.any fun r => r.u == w.u then s
    else match s.loadRaw w (BitVec.ofNat 64 (n.word 0x60)) 8 with
      | .ok (bs, poison, t) =>
        let t := t.dropDelivered w.u
        if poison then t.retireLaunch l 2 Cause.poison.code
        else if leNat bs < n.word 0x68 then t
        else t.onLaunch l.id fun l => { l with state := .boundary, index := l.index + 1 }
      | .error e => s.settleLaunch l (.error e))

/-- END_NODE: launch `a` is retired DONE. -/
def execEndNode (s : State) : Host.Outcome State Fault Refusal := .next (s.atBoundary s.arg.a 3 fun s l _ => s.retireLaunch l 0 0)

/-! ## The watchdog (R370) -/

/-- WATCHDOG_EXPIRY: launch `a`, whose node has run WDOG µs unstopped. The report's SRC and CORE are free (DESIGN CHOICE, log 4). -/
def execWatchdogExpiry (s : State) : Host.Outcome State Fault Refusal :=
  .next (match s.launch? s.arg.a with
    | none => s
    | some l => match l.node with
      | none => s
      | some n =>
        if n.stopped || n.wdog = 0 || decide (n.ran s.time < 2100 * n.wdog) then s
        else
          let (free, s) := s.freeBytes 3
          s.stopNode l n
            { src := BitVec.ofNat 4 (leNat (free.take 1)), core := BitVec.ofNat 10 (leNat (free.drop 1))
              cause := BitVec.ofNat 8 Cause.watchdog.code })

/-! ## Phase end (R351) -/

/-- Every unit of a node is idle: contexts free, queues, deques and work lists empty, sequencers halted, engines done. -/
def State.nodeIdle (s : State) (n : Node) : Bool :=
  (n.cores.all fun k =>
    let c := s.core k
    ((List.range 16).all fun i => !(c.ctx i).live) && (c.channels.all fun (_, q) => q.isEmpty) &&
      c.deque.isEmpty && c.worklist.isEmpty && c.stolen.isEmpty) &&
  (!n.dense || n.clusters.all fun cl =>
    let d := s.dense cl
    !d.sc.live && !d.ld.live && !d.st.live && !d.cp.live && ((List.range 4).all fun e => !(d.epiCtx e).live) &&
      ((List.range 3).all fun e => !(d.engine e).busy) && d.mq.isEmpty && d.running.isEmpty)

/-- PHASE_END: launch `a`; markers with mask BMARK in every cluster of the rectangle. -/
def execPhaseEnd (s : State) : Host.Outcome State Fault Refusal :=
  .next (match s.launch? s.arg.a with
    | none => s
    | some l => match l.node with
      | none => s
      | some n =>
        if n.stopped || n.ended || !s.nodeIdle n then s
        else
          let s := n.touched.foldl (fun s cl => s.mark none cl l.id n.bmark) s
          s.onNode l.id fun n => { n with ended := true })

/-- Does a packet carry a write of a node? -/
def Node.inPacket (n : Node) (p : FabPkt) : Bool :=
  match p.body with
  | .msg m => n.hasCore m.srcCore
  | _ => false

/-- The write-acknowledge count of a node is zero, and every access of its observers has been performed: no store, load, atomic, copy,
row operation, use count or message is outstanding, nor a row read still to land (R335, R351). -/
def State.writesDone (s : State) (n : Node) : Bool :=
  (s.storesOut.all fun f => !n.owns f.who) &&
  (s.extReads.all fun r => !n.owns r.u) && (s.extMsgs.all fun (_, x) => !n.inPacket x) &&
  (s.cores.all fun (_, c) =>
    (c.puts.all fun m => !n.hasCore m.srcCore) && (c.ucQ.all fun (k, _) => !n.hasCore k) &&
      c.fq.all fun p => match p with
        | .amo u .. => !n.owns u
        | .load _ u .. => !n.owns u
        | .row _ j => !(n.hasCore j.src && j.port.isNone)
        | _ => true) &&
  (n.cores.all fun k =>
    let c := s.core k
    c.vn0.isEmpty && c.vn1.isEmpty && c.rowOps.isEmpty && c.rowReqs.isEmpty && c.landings.isEmpty && c.acks.all fun (_, x) => x == 0) &&
  ((List.range 64).all fun cl =>
    let c := s.cluster cl
    (c.ce.q.all fun (_, cs) => cs.all fun c => !n.owns c.issuer) && c.cm.parked.all fun p => match p.acc with
      | .amo u .. => !n.owns u
      | .load _ u .. => !n.owns u
      | _ => true) &&
  (!n.dense || n.clusters.all fun cl =>
    let d := s.dense cl
    d.mq.isEmpty && d.running.isEmpty && d.follow.isEmpty && d.drain.isEmpty)

/-! ## The end-of-phase bundle (R347, R351) and pre-emption (R340) -/

/-- Launch epochs after a phase: the largest of the node's cores, plus one where EPADV says so. -/
def State.advanceEpochs (s : State) (n : Node) : Tab W32 :=
  (List.range 16).map fun t =>
    let e : Nat := n.cores.foldl (fun m k => max m (Tab.get {} (s.core k).tdesc t).epoch.toNat) 0
    (t, BitVec.ofNat 32 (e + bits n.epAdv t t))

/-- The launch that LNPOP would choose: the best of those it would not retire. -/
def State.wouldChoose (s : State) : Option Launch :=
  let takes (l : Launch) : Bool := !(l.dropLate && decide (l.deadline < s.devns.toNat)) && l.failCause.isNone
  bestLaunch s.devns.toNat ((s.waitingIn (2 ^ 64 - 1)).filter takes)

/-- A stop of another launch's reads is that launch's to wait at. -/
def Stop.of (e : Stop) (l : Launch) : Stop :=
  match e with
  | .trap c a t => .trap c a t
  | e => .again fun s => s.copyWaits (launchUnit l) e

/-- Requeue the launch whose boundary it is in favour of a waiting one: `before` is the state while its area was still held.
The supervisor keeps the save record at `save`. What must wait makes the whole boundary wait. -/
def State.preempt (s before : State) (r : Launch) (save : W64) : Eff State :=
  match s.wouldChoose with
  | none => .ok s
  | some w =>
    if r.key s.devns.toNat < w.key s.devns.toNat + s.preemptMargin.toNat then .ok s
    else
      let t := s.popLaunch w
      match t.reach ((t.launch? w.id).getD w) with
      | .error (.trap ..) => .ok s
      | .error e => .error (e.of w)
      | .ok l => match t.nodeDesc l with
        | .error (.trap ..) => .ok s
        | .error e => .error (e.of w)
        | .ok n =>
          if n.kind ≠ 0 || (before.origin n []).isSome || (s.origin n []).isNone then .ok s
          else match t.fillLaunch r false with
            | .error e => .error e
            | .ok r => match t.fillLaunch r true with
              | .error e => .error e
              | .ok r =>
                let u := launchUnit r
                let save := if r.wrote = 0 then save else r.saveAt
                match t.requeueWrite u r 0 (hbmAddr save.toNat) (saveBytes r) with
                | .error e => .error e
                | .ok t => match t.requeue u r save with
                  | .error e => .error e
                  | .ok t => .ok ((t.onLaunch l.id fun _ => l).placeNode l n)

/-- BUNDLE_RELEASE: launch `a`, whose markers have retired and whose writes are done; `addr` is where the supervisor keeps a
launch save record. R351 does not say what a message does that wakes a unit between the phase's end and the release: `yes`, the
bundle is released as R351 states; else the node goes on, and its phase ends anew (DESIGN CHOICE, log 66). -/
def execBundleRelease (s : State) : Host.Outcome State Fault Refusal :=
  .next (match s.launch? s.arg.a with
    | none => s
    | some l => match l.node with
      | none => s
      | some n =>
        if !n.ended || n.stopped || (s.markersOut.any fun m => m.who.isNone && m.launch == l.id) || !s.writesDone n then s
        else if !s.arg.yes && !s.nodeIdle n then s.onNode l.id fun n => { n with ended := false }
        else
          let c := (s.cluster (clusterOf n.corner)).carry
          let r : Launch :=
            { l with
              state := .boundary, index := l.index + 1, node := none, epochs := s.advanceEpochs n
              g := c.g, absentLo := c.absentLo, absentHi := c.absentHi, savePtr := c.savePtr }
          let freed := (s.onLaunch l.id fun _ => r).applySpares false
          s.settleLaunch l ((freed.preempt s r s.arg.addr).map fun t => t.onLaunch l.id fun l => { l with wrote := 0 }))

end Sys2Proof.Machine
end

