-- ==== Sys2Proof/Machine/CopyWords.lean ====
section
/-! DEFINITION. The words of the load and store streams (R84 to R90), COPY (R192), and WAITP of every stream (R78, R190). -/

namespace Sys2Proof.Machine

/-- A word of the load or store stream. -/
def copyWord (s : State) (f : UnitId → Eff State) : Host.Outcome State Fault Refusal :=
  match s.cur with
  | .load c => .next (s.settle s.cur (f (.load c)))
  | .store c => .next (s.settle s.cur (f (.store c)))
  | u => .next (s.raise u .illegal 0)

/-- The requester of a sequencer (R63). -/
def requesterOf : UnitId → Nat
  | .load _ => 0
  | .store _ => 1
  | _ => 2

/-- A sequencer's descriptor registers. -/
def Dense.dreg (d : Dense) (u : UnitId) (n : Nat) : DReg :=
  match u with
  | .load _ => Tab.get {} d.dload n
  | _ => Tab.get {} d.dstore n
def Dense.setDreg (d : Dense) (u : UnitId) (n : Nat) (x : DReg) : Dense :=
  match u with
  | .load _ => { d with dload := Tab.set d.dload n x }
  | _ => { d with dstore := Tab.set d.dstore n x }

/-! ## CPY (R84) -/

/-- The follow-on of a CPY: decoded and captured, its pop and ADV standing in the state; a fault leaves all as it stood (R80). -/
def State.captureFollow (s : State) (cl : Nat) (d : Desc) (pc : W32) : Eff (MCmd × State) :=
  match decodeWord .compute d.follow with
  | .error _ => .error (.trap .illegal 0 s)
  | .ok i => match mword i with
    | none => .error (.trap .illegal 0 s)
    | some mw => match s.captureCmd cl i mw pc true with
      | .error (.trap c a x) => .error (.trap c a (s.missOf x))
      | .error e => .error e
      | .ok r => .ok r

/-- A command with no elements completes at its acceptance when none stands before it (R70); the turns of one clk bring it after every
TSEND and every completion of a command accepted before (R208). -/
def State.completeEmpty (s : State) (cl q : Nat) (c : CopyCmd) : State :=
  if (Desc.ofBytes c.desc).total = 0 then s.completeCopy cl q else s

def execCpy (d : BitVec 4) (w : BitVec 3) (q l : Bool) (sc : Scope) (f p t : Bool) (k : BitVec 3) (s : State) :
    Host.Outcome State Fault Refusal :=
  copyWord s fun u =>
    let cl := u.cl
    let rq := requesterOf u
    let x := (s.dense cl).dreg u d.toNat
    let isLoad := match u with | .load _ => true | _ => false
    if (f && !isLoad) || (t && !sendsOn u k.toNat) then .error (.trap .illegal 0 s)
    else if x.fill.isSome || decide ((Tab.get [] (s.cluster cl).ce.q rq).length ≥ 16) then .error (.wait .retry)
    else if x.poison then .error (.trap .poison 0 s)
    else
      let bs := (x.act ++ List.replicate (256 - x.act.length) 0).take 256
      let desc := Desc.ofBytes bs
      let tagbase := (s.num u).tagbase
      let pc := s.pc u
      match s.checkCopy (s.copyWho cl rq u) desc tagbase with
      | .error (.trap c a x) => .error (.trap c a (s.missOf x))
      | .error (.park h (.read _ fr pl nm m)) => .error (.park h (.read u fr pl nm m))
      | .error e => .error e
      | .ok (places, s1) =>
        match (if f then (match s1.captureFollow cl desc pc with | .ok (m, t) => .ok (some m, t) | .error e => .error e) else .ok (none, s1) : Eff (Option MCmd × State)) with
        | .error (.trap c a x) => .error (.trap c a (s.missOf x))
        | .error e => .error e
        | .ok (m, s2) =>
          let cmd : CopyCmd :=
            { id := 0, desc := bs, q := rq, issuer := u, core := cornerCore cl, who := pc.toNat, slot := some w.toNat
              acq := q, rel := l, scope := sc.code, tok := if t then some k.toNat else none, follow := m, tagbase := tagbase }
          let (s3, cmd) := s2.enqueueCopy cl rq cmd places
          let s4 := s3.onDense cl fun y =>
            let y := { y with w := Tab.set y.w w.toNat { valid := true, done := false, promise := cmd.promise, cmd := some cmd.id } }
            if p then y.setDreg u d.toNat { y.dreg u d.toNat with act := stepDesc bs } else y
          .ok ((s4.completeEmpty cl rq cmd).retire u 0)

/-! ## DLOAD (R85) -/

/-- The requester of a sequencer's descriptor fills. -/
def fillUnit (u : UnitId) : UnitId := .copy u.cl (4 + requesterOf u)

def execDload (d : BitVec 4) (i : BitVec 16) (s : State) : Host.Outcome State Fault Refusal :=
  copyWord s fun u =>
    match s.nodeOf u with
    | none => .error (.trap .descriptor 0 s)
    | some n =>
      if i.toNat ≥ n.dtCount then .error (.trap .descriptor 0 s)
      else if ((s.dense u.cl).dreg u d.toNat).fill.isSome then .error (.wait .retry)
      else
        let a : W64 := BitVec.ofNat 64 (8 * 2 ^ 60 + (n.dtBase + 256 * i.toNat) % 2 ^ 60)
        match s.locate (s.who u) a 256 .r with
        | .error e => .error e
        | .ok (ps, s) =>
          if ps.any fun p => !s.inOrder u p.mtype then .error (.wait .retry)
          else .ok ((s.onDense u.cl fun y => y.setDreg u d.toNat { y.dreg u d.toNat with
            fill := some (ps.map fun p => (p.place, p.len, p.name)), id := s.nextId }).stamp.retire u 0)

/-- DLOAD_FILL_COMPLETE: the entry's bytes swap into the active set; a frame parks the read (R60). -/
def State.fillDesc (s : State) (u : UnitId) (n : Nat) : State :=
  let cl := u.cl
  let x := (s.dense cl).dreg u n
  match x.fill with
  | none => s
  | some ps =>
    let w := { s.who u with u := fillUnit u }
    match s.readParts w (ps.map fun (pl, len, nm) => { place := pl, len := len, name := nm }) with
    | .ok (bs, po, s) =>
      (s.dropDelivered (fillUnit u)).onDense cl fun y =>
        y.setDreg u n { act := bs.take 0xF8, poison := po, fill := none }
    | .error e => s.copyWaits (fillUnit u) e

/-- The event names the cluster (a), the descriptor register (b) and whose it is: the store stream's (yes)
or the load stream's. -/
def execDloadFillComplete (s : State) : Host.Outcome State Fault Refusal :=
  .next (s.fillDesc (if s.arg.yes then .store s.arg.a else .load s.arg.a) s.arg.b)

/-! ## Tokens, promises, loops, markers, fences (R86 to R90) -/

def execCTsend (q : BitVec 3) (n : BitVec 8) (s : State) : Host.Outcome State Fault Refusal :=
  copyWord s fun u => s.tsend u q.toNat n.toNat 0
def execCTwait (q : BitVec 3) (n : BitVec 8) (s : State) : Host.Outcome State Fault Refusal :=
  copyWord s fun u => s.twait u q.toNat n.toNat 0
def execCWaitp (w : BitVec 3) (s : State) : Host.Outcome State Fault Refusal :=
  copyWord s fun u => s.waitp u w.toNat 0

/-- A load or store sequencer. -/
def Dense.copySeq (d : Dense) : UnitId → Seqr
  | .load _ => d.ld
  | _ => d.st
def Dense.setCopySeq (d : Dense) (u : UnitId) (x : Seqr) : Dense :=
  match u with
  | .load _ => { d with ld := x }
  | _ => { d with st := x }
/-- A loop counter, of the sequencer's own four. -/
def State.loopCount (s : State) (u : UnitId) (l : Nat) : BitVec 16 := Tab.get 0 ((s.dense u.cl).copySeq u).n l
def State.setLoop (s : State) (u : UnitId) (l : Nat) (v : BitVec 16) : State :=
  s.onDense u.cl fun d => let q := d.copySeq u; d.setCopySeq u { q with n := Tab.set q.n l v }

def execLset (l : BitVec 2) (c : BitVec 16) (s : State) : Host.Outcome State Fault Refusal :=
  copyWord s fun u => .ok ((s.setLoop u l.toNat c).retire u 0)
/-- LBR: a target that faults leaves the counter as it stood. -/
def execLbr (l : BitVec 2) (o : BitVec 16) (s : State) : Host.Outcome State Fault Refusal :=
  copyWord s fun u =>
    let v := s.loopCount u l.toNat
    let v' := if v = 0 then 0 else v - 1
    match s.branch u (v' != 0) (branchTarget (s.pc u) 16 o) 0 with
    | .error e => .error e
    | .ok t => .ok (t.setLoop u l.toNat v')
def execCJmp (o : BitVec 27) (s : State) : Host.Outcome State Fault Refusal :=
  copyWord s fun u => s.jumpTo u (branchTarget (s.pc u) 27 o) 0
def execCMark (m : BitVec 8) (s : State) : Host.Outcome State Fault Refusal :=
  copyWord s fun u => .ok ((s.mark (some u) u.cl (s.launchId u) m.toNat).retire u 0)

/-- CFENCE: earlier commands complete and fills swapped in, then the next word; HALT then stops. -/
def State.copyFence (s : State) (u : UnitId) (halt : Bool) : Eff State :=
  if s.copiesPending u then .error (.wait (.fence halt))
  else .ok (if halt then (s.setWait u .none).setLive u false else s.retire u 0)
def execCfence (s : State) : Host.Outcome State Fault Refusal := copyWord s fun u => s.copyFence u false
def execCHalt (s : State) : Host.Outcome State Fault Refusal := copyWord s fun u => s.copyFence u true

/-! ## WAITP of the scalar and lookup streams -/

def execSWaitp (w : BitVec 3) (p : BitVec 3) (s : State) : Host.Outcome State Fault Refusal :=
  denseScalarWord s fun u => s.waitp u p.toNat w.toNat

/-- A descriptor in the core's own tile memory. -/
def State.tileDesc (s : State) (u : UnitId) (k : Nat) (a : W64) : Eff Nat :=
  match s.ownOffset u k a 256 with
  | .error e => .error e
  | .ok o => if a.toNat % 32 ≠ 0 then .error (.trap .align a s) else .ok o

/-- WAITP on a descriptor's STAT (R190): by the command that tracks it, or by the word alone. -/
def State.waitStat (s : State) (k c : Nat) (a : W64) : Eff State :=
  let u : UnitId := .ctx k c
  match s.tileDesc u k a with
  | .error e => .error e
  | .ok o => match s.load u (a + 0xF8) 8 with
    | .error e => .error e
    | .ok (bs, s) =>
      let v := leNat bs
      let st := bits v 63 60
      let promise := bits v 55 0
      if st = 0 ∨ st = 3 then .ok (s.retire u 0)
      else if st = 4 ∨ st = 5 ∨ !promiseReached s.time promise then .error (.wait (.stat a))
      else
        let mine := (Tab.get [] (s.cluster (clusterOf k)).ce.q 2).find? fun x => x.statAt == some o && x.core == k
        .error (.trap .promiseMissed 0 (match mine with
          | some x => s.refreshPromise (clusterOf k) x
          | none => s))

def execLWaitp (p : BitVec 3) (s : State) : Host.Outcome State Fault Refusal :=
  lookupWord s fun k c => s.waitStat k c ((s.ctx k c).ptr p.toNat).addr

/-! ## COPY (R192) -/

def execCopy (a k : BitVec 3) (n p l q : Bool) (sc : Scope) (s : State) : Host.Outcome State Fault Refusal :=
  lookupWord s fun core c =>
    let u : UnitId := .ctx core c
    let cl := clusterOf core
    let ad := ((s.ctx core c).ptr a.toNat).addr
    match s.tileDesc u core ad with
    | .error e => .error e
    | .ok o => match s.load u ad 256 with
      | .error e => .error e
      | .ok (bs, s) =>
        if (Tab.get [] (s.cluster cl).ce.q 2).length ≥ 32 then .error (.wait .retry)
        else
          let tagbase := (s.num u).tagbase
          match s.checkCopy (s.copyWho cl 2 u) (Desc.ofBytes bs) tagbase with
          | .error (.park h (.read _ fr pl nm m)) => .error (.park h (.read u fr pl nm m))
          | .error e => .error e
          | .ok (places, s) =>
            (s.commit u true).map fun s =>
            let cmd : CopyCmd :=
              { id := 0, desc := bs, q := 2, issuer := u, core := core, who := coreIndex core * 2 ^ 21 + o, statAt := some o
                acq := q, rel := l, scope := sc.code, counter := if n then some k.toNat else none, tagbase := tagbase }
            let (s, cmd) := s.enqueueCopy cl 2 cmd places
            let s := s.writeStat cmd 1
            let s := if p then s.writePlace (.tile core o) ((stepDesc bs).take 16) none else s
            (s.completeEmpty cl 2 cmd).retire u 0

end Sys2Proof.Machine
end

