-- ==== Sys2Proof/Machine/Schedule.lean ====
section
/-! DEFINITION. Markers (R352), Belfry hops (R353, R354), stealing and task migration (R348, R349), levelling (R350). -/

namespace Sys2Proof.Machine

/-! ## Markers -/

/-- The cores whose queues a marker looks at: its issuer's, all 16 of a dense issuer's or a node's cluster, every core for a
supervisor core. -/
def Marker.cores (m : Marker) : List Nat :=
  match m.who with
  | some (.ctx k _) => [k]
  | some (.sup _) => List.range 1024
  | _ => (List.range 16).map (coreIn m.cl)

/-- The clusters whose row service units it looks at. -/
def Marker.clusters (m : Marker) : List Nat :=
  match m.who with
  | some (.sup _) => List.range 64
  | _ => [m.cl]

/-- Is the work before a marker done (R352)? -/
def State.markerDone (s : State) (m : Marker) : Bool :=
  let ks := m.cores
  let sent (vn1 : Bool) : Bool :=
    (ks.all fun k =>
      let c := s.core k
      ((if vn1 then c.vn1 else c.vn0).all fun x => decide (m.id ≤ x.id)) &&
        (List.range 16).all fun i => match (c.ctx i).act with
          | some a => a.held.all fun h => match h with
            | .msg x => x.vn1 != vn1 || decide (m.id ≤ x.id)
            | _ => true
          | none => true) &&
      s.extMsgs.all fun (_, x) => match x.body with
        | .msg y => y.vn1 != vn1 || !ks.elem y.srcCore || decide (m.id ≤ y.id)
        | _ => true
  match m.queue with
  | 0 => (s.cluster m.cl).ce.q.all fun (_, cs) => cs.all fun c => decide (m.id ≤ c.id)
  | 1 => let d := s.dense m.cl; (d.mq ++ d.running).all fun c => decide (m.id ≤ c.id)
  | 2 => sent false
  | 3 => sent true
  | 4 =>
    (s.rowsOut.all fun j => j.srcDev != Config.deviceNumber || !ks.elem j.src || decide (m.id ≤ j.id)) &&
      m.clusters.all fun cl => (List.range 16).all fun i =>
        let c := s.core (coreIn cl i)
        (c.rowQ.all fun j => decide (m.id ≤ j.acc)) && c.fq.all fun p => match p with
          | .row _ j => decide (m.id ≤ j.acc)
          | p => !m.parked.elem (coreIn cl i, p)
  | _ => s.ports.all fun (_, p) => p.queue.all fun x => decide (m.id ≤ x.id)

/-- A marker retires: its issuer's MKOUT falls, and a dense or supervisor core's fall to 0 sets the event latch (R236, R346). -/
def State.retireMarker (s : State) (i : Nat) : State :=
  match s.markersOut[i]? with
  | none => s
  | some m =>
    if !s.markerDone m then s
    else
      let s := { s with markersOut := s.markersOut.eraseIdx i }
      match m.who with
      | none => s
      | some u =>
        let s := s.addMarkers u (-1)
        match u with
        | .ctx .. => s
        | .sup i => if (s.sup i).markers = 0 then s.setLatch (.sup i) true else s
        | u => if (s.dense u.cl).markers = 0 then s.setLatch (.scalar u.cl) true else s

/-- MARKER_RETIRE: marker `a` of those outstanding. -/
def execMarkerRetire (s : State) : Host.Outcome State Fault Refusal := .next (s.retireMarker s.arg.a)

/-! ## Belfry -/

/-- The core an arrival goes to next: west along the row, then north along the west column; none at the corner. -/
def BarSlot.next (b : BarSlot) (k : Nat) : Option Nat :=
  if coreX k > b.x0 then some (k - 1) else if coreY k > b.y0 then some (k - 64) else none

/-- The slot after a release has passed: its next phase. -/
def BarSlot.released (b : BarSlot) : BarSlot := { b with count := 0, phase := b.phase + 1, swept := false, rowIn := false, colIn := false }

def State.setBar (s : State) (k n : Nat) (b : BarSlot) : State := s.onCore k fun c => { c with bar := Tab.set c.bar n b }

/-- The release passes a core, and its cluster's dense core at the cluster's corner: waiters go on (R203), and a dense core's
release sets the scalar sequencer's event latch (R237). -/
def State.releaseBar (s : State) (k n : Nat) (b : BarSlot) : State :=
  let s := s.setBar k n b.released
  if b.dense && coreIndex k = 0 then
    s.onDense (clusterOf k) fun d => { d with bar := Tab.set d.bar n (Tab.get {} d.bar n).released, sc := { d.sc with latch := true } }
  else s

/-- One hop at a core: the release from the core its arrival went to, else its combined arrival. -/
def State.belfryHop (s : State) (k n : Nat) : State :=
  let slot (j : Nat) : BarSlot := Tab.get {} (s.core j).bar n
  let b := slot k
  let full := decide (b.cnt ≤ b.count) && (decide (coreX k + 1 = b.x0 + b.w) || b.rowIn) &&
    (decide (coreX k > b.x0) || decide (coreY k + 1 = b.y0 + b.h) || b.colIn) &&
    (!(b.dense && coreIndex k = 0) || decide (b.cnt ≤ (Tab.get {} (s.dense (clusterOf k)).bar n).count))
  if !b.valid then s
  else match b.next k with
    | none => if full then s.releaseBar k n b else s
    | some p =>
      if (slot p).phase > b.phase then s.releaseBar k n b
      else if b.swept || !full then s
      else
        let s := s.setBar k n { b with swept := true }
        let q := Tab.get {} (s.core p).bar n
        s.setBar p n (if coreX k > b.x0 then { q with rowIn := true } else { q with colIn := true })

/-- BELFRY_HOP: slot `b` at core `a`. -/
def execBelfryHop (s : State) : Host.Outcome State Fault Refusal := .next (s.belfryHop s.arg.a s.arg.b)

/-! ## Runnable channels (R142) -/

def Core.freeCtx (c : Core) : Option Nat := (List.range 16).find? fun i => !(c.ctx i).live

/-! ## Stealing -/

/-- A task's control block in its core's tile memory, when a thief may take it (R349). -/
structure Tcb where
  ranges : List (Nat × Nat)    -- offset and length
  tag : BitVec 16
  fwd : Bool

def Tcb.ofBytes (bs : List Byte) : Option Tcb :=
  let r (i : Nat) : Nat := field bs (16 + 8 * i) 8
  let rs := (List.range 4).map fun i => (bits (r i) 20 0, bits (r i) 41 21)
  if ((List.range 4).any fun i => bits (r i) 63 42 ≠ 0) || field bs 50 1 > 1 || ((bs.drop 51).take 13).any (· != 0) ||
      rs.any fun (o, n) => o + n > 2 ^ 21 then none
  else some { ranges := rs, tag := BitVec.ofNat 16 (field bs 48 2), fwd := field bs 50 1 == 1 }

/-- The control block of a task on a core. -/
def State.tcb (s : State) (k : Nat) (t : Task) : Option Tcb :=
  if t.cont then none
  else
    let a := s.tileKey k (t.arg.toNat % 2 ^ 21)
    if s.poisoned a 64 then none else Tcb.ofBytes (s.readKey a 64)

/-- Cores of a steal domain: none for CORE, then cluster, die, rectangle. -/
def Node.domain (n : Node) (k : Nat) : List Nat :=
  (List.range 1024).filter fun j => n.hasCore j && j != k && (match n.stealDomain with
    | 0 => false
    | 1 => clusterOf j == clusterOf k
    | 2 => dieOf j == dieOf k
    | _ => true)

/-- Does a victim give its oldest entry? -/
def State.gives (s : State) (v : Nat) : Option Task :=
  match (s.core v).deque.getLast? with
  | none => none
  | some t => match s.tcb v t with
    | none => none
    | some b =>
      let promised := (s.cores.flatMap fun (_, c) => c.stolen.filter fun x => x.1 == v && (s.tcb v x.2).any (·.fwd)).length
      if b.fwd && decide ((s.core v).forward.length + promised ≥ 16) then none else some t

/-- One sweep of an idle core's domain, from the core after its last victim. -/
def State.steal (s : State) (k : Nat) : State :=
  let c := s.core k
  match (s.launchOfCore k).bind (·.node) with
  | none => s
  | some n =>
    if c.freeCtx.isNone || !c.stolen.isEmpty || !c.deque.isEmpty || !c.worklist.isEmpty || (List.range 64).any c.runnable then s
    else
      let dom := n.domain k
      let order := match c.lastVictim with
        | none => dom
        | some v => (dom.filter fun j => decide (v < j)) ++ dom.filter fun j => decide (j ≤ v)
      match order.find? fun v => (s.gives v).isSome with
      | none => s
      | some v => match s.gives v with
        | none => s
        | some t => (s.onCore v fun c => { c with deque := c.deque.dropLast }).onCore k fun c =>
            { c with stolen := [(v, t)], lastVictim := some v }

/-- STEAL_ATTEMPT: core `a`. -/
def execStealAttempt (s : State) : Host.Outcome State Fault Refusal := .next (s.steal s.arg.a)

/-- Copy a span of one tile memory to the same offsets of another; poison moves with its granules. -/
def State.copyTile (s : State) (src dst off n : Nat) : State :=
  if n = 0 then s
  else
    let a := s.tileKey src off
    let b := s.tileKey dst off
    let bad := (granules a n).filter fun g => s.poison.elem g
    let s := s.writePlace (.tile dst off) (s.readKey a n) none
    bad.foldl (fun s g => s.setPoison (g - a / 32 + b / 32)) s

/-- TASK_MIGRATION: the stolen task of core `a` arrives with its footprint, and the victim forwards its messages; it
waits for room in the deque and its spill area (R348). -/
def execTaskMigration (s : State) : Host.Outcome State Fault Refusal :=
  let k := s.arg.a
  .next (match (s.core k).stolen with
    | [] => s
    | (v, t) :: rest => match s.tcb v t with
      | none => s
      | some b =>
        if (s.core k).deque.length ≥ s.dequeRoom k then s else
        let s := s.copyTile v k (t.arg.toNat % 2 ^ 21) 64
        let s := b.ranges.foldl (fun s (o, n) => s.copyTile v k o n) s
        let s := if b.fwd then s.onCore v fun c => { c with forward := c.forward ++ [(b.tag, k)] } else s
        (s.onCore k fun c => { c with stolen := rest }).pushTask k { t with victim := if b.fwd then some (v, b.tag) else none })

/-! ## Levelling -/

/-- Neighbours of a core inside its node's rectangle, lower numbers first. -/
def Node.neighbours (n : Node) (k : Nat) : List Nat :=
  ((if coreY k > 0 then [k - 64] else []) ++ (if coreX k > 0 then [k - 1] else []) ++ (if coreX k < 63 then [k + 1] else []) ++
    if coreY k < 15 then [k + 64] else []).filter n.hasCore

/-- Where a core gives entries and how many it asks to give, from the counts at the interval's start. -/
def levelMove (n : Node) (counts : Tab Nat) (k : Nat) : Option (Nat × Nat) :=
  let own := Tab.get 0 counts k
  let best := (n.neighbours k).foldl (fun (r : Option Nat) j => match r with
    | none => some j
    | some b => if Tab.get 0 counts j < Tab.get 0 counts b then some j else r) none
  match best with
  | none => none
  | some j =>
    let d := own - Tab.get 0 counts j
    if d > n.levelTh then some (j, d / 2) else none

/-- One interval of a node. -/
def State.level (s : State) (n : Node) : State :=
  let counts : Tab Nat := n.cores.map fun k => (k, (s.core k).worklist.length)
  let s := n.cores.foldl (fun s k => match levelMove n counts k with
    | none => s
    | some (j, d) =>
      let to' := (s.core j).worklist
      let m := min d (256 - to'.length)
      let xs := (s.core k).worklist
      (s.onCore k fun c => { c with worklist := xs.drop m }).onCore j fun c =>
        { (if to'.isEmpty && decide (0 < m) then c.wake 62 s.time else c) with worklist := to' ++ xs.take m }) s
  n.cores.foldl (fun s k => s.onCore k fun c => { c with levelSent := c.levelSent + 1 }) s

/-- LEVELLING_INTERVAL: the node of core `a`, once for each LEVELINT clk since its start. -/
def execLevellingInterval (s : State) : Host.Outcome State Fault Refusal :=
  let k := s.arg.a
  .next (match (s.launchOfCore k).bind (·.node) with
    | none => s
    | some n => if (s.time - n.levelBase) / n.levelInt > (s.core k).levelSent then s.level n else s)

end Sys2Proof.Machine
end

