-- ==== Sys2Proof/Machine/CoreEvents.lean ====
section
/-! DEFINITION. What happens at a lookup core's home, network interface and selection logic: arrivals (R142, R149, R411),
binding and aging (R144, R145), retries (R61), rows (R154, R173, R174), PUT landings (R148) and use counters (R153). -/

namespace Sys2Proof.Machine

/-! ## Arrivals -/

/-- The thief that a victim forwards a message to, once (R349); a PUT is not forwarded. -/
def State.forwardTo (s : State) (k : Nat) (m : Message) : Option Nat :=
  if m.forwarded || m.put.isSome then none
  else ((s.core k).forward.find? fun f => f.1 == m.tag).map (·.2)

/-- A channel that takes no message: reserved, or without a handler (R142). -/
def Core.refusesChannel (c : Core) (ch : Nat) : Bool := decide (56 ≤ ch ∧ ch ≤ 60) || !(Tab.get {} c.handlers ch).valid

/-- A message for a channel that takes none stops the node with SPACE; an item names the channel and the sender. -/
def State.badArrival (s : State) (k : Nat) (m : Message) : State :=
  let u : UnitId := .ni k
  (s.item m.srcCore 0 2 Cause.space.code (s.launchId u) m.who 0).stopUnit u (mkReport .space u false 0 0 0)

/-- A core takes a message: none when its request store of 32 is full. -/
def State.accept (s : State) (k : Nat) (m : Message) : Option State :=
  let c := s.core k
  let full := decide (c.reqStore ≥ 32)
  match m.put with
  | some _ => if full then none else some (s.onCore k fun c => { c with puts := c.puts ++ [m], reqStore := c.reqStore + 1 })
  | none =>
    if !m.vn1 && full then none
    else if c.refusesChannel m.chan then some (s.badArrival k m)
    else
      let q := Tab.get [] c.channels m.chan
      some (s.onCore k fun c =>
        { (if q.isEmpty then c.wake m.chan s.time else c) with
          channels := Tab.set c.channels m.chan (q ++ [m]), reqStore := if m.vn1 then c.reqStore else c.reqStore + 1 })

/-- A message reaches its destination core, or the thief that core forwards it to. -/
def State.receive (s : State) (m : Message) : Option State :=
  let m := { m with refused := false }
  match s.forwardTo m.dstCore m with
  | some t => s.accept t { m with forwarded := true }
  | none => s.accept m.dstCore m

/-- May a queued message arrive before those ahead of it (R186, R328)? -/
def mayArrive (ahead : List Message) (m : Message) : Bool :=
  let same (e : Message) : Bool := e.dstDev == m.dstDev && e.dstCore == m.dstCore
  ahead.all fun e => !(same e && (e.refused || (e.srcCtx == m.srcCtx && e.chan == m.chan && e.put.isSome == m.put.isSome)))

/-- Send a message to another device: outstanding until its home acknowledges it (R351, R352; log 94). -/
def State.sendMessage (s : State) (p : Nat) (m : Message) : State :=
  let q : FabPkt := { id := s.nextId, seq := (Tab.get ({} : Port) s.ports p).nextSeq, dev := m.dstDev, body := .msg m }
  let s := s.sendFabric p m.dstDev (.msg m)
  { s with extMsgs := s.extMsgs ++ [(p, q)] }

/-- The message at a place of a send queue arrives, or leaves by a fabric port; a full receiver refuses it. It waits behind what its
network interface has been refused by that core (R328). -/
def State.arrive (s : State) (k : Nat) (vn1 : Bool) (i : Nat) : State :=
  let q := if vn1 then (s.core k).vn1 else (s.core k).vn0
  let put (s : State) (q : List Message) : State := s.onCore k fun c => if vn1 then { c with vn1 := q } else { c with vn0 := q }
  match q[i]? with
  | none => s
  | some m =>
    let here := decide (m.dstDev = Config.deviceNumber)
    if !mayArrive (q.take i) m || (here && s.niHolds (.ctx k m.srcCtx) m.dstCore m.id) then s
    else if m.dstDev ≠ Config.deviceNumber then
      if (s.route m.dstDev.toNat k).isEmpty then
        (put s (q.eraseIdx i)).item m.srcCore 0 2 Cause.xlateMiss.code (s.launchId (.ni m.srcCore)) m.who 0
      else (put s (q.eraseIdx i)).sendMessage (s.portFor m.dstDev.toNat k) m
    else match (put s (q.eraseIdx i)).receive m with
      | some t => t
      | none => put s (q.set i { m with refused := true })

/-- MESSAGE_ARRIVAL: entry `b` of the send queue of core `a`, `yes` for VN1. -/
def execMessageArrival (s : State) : Host.Outcome State Fault Refusal := .next (s.arrive s.arg.a s.arg.yes s.arg.b)

/-! ## Selection (R144, R145) -/

/-- The runnable channel with the highest EPRI at a TIME, the lowest number among equals. -/
def Core.selected (c : Core) (t : Nat) : Option Nat :=
  ((List.range 64).filter c.runnable).foldl (fun (r : Option Nat) ch => match r with
    | none => some ch
    | some b => if c.epriAt t b < c.epriAt t ch then some ch else r) none

/-- Take the message at the head of a channel: channel 61 its deque's newest entry, 62 its work list's oldest. -/
def Core.takeHead (c : Core) (k ch : Nat) : Option (Message × Core) :=
  match Tab.get [] c.channels ch with
  | m :: ms => some (m, { c with channels := Tab.set c.channels ch ms })
  | [] =>
    if ch = 61 then match c.deque with
      | t :: ts => some ({ chan := 61, srcDev := Config.deviceNumber, srcCore := t.spawner, dstCore := k, task := some t }, { c with deque := ts })
      | [] => none
    else if ch = 62 then match c.worklist with
      | e :: es => some ({ chan := 62, srcDev := Config.deviceNumber, srcCore := k, dstCore := k, payload := e }, { c with worklist := es })
      | [] => none
    else none

/-- The lanes of acc at entry; a work-list entry has no sender or reply channel: those bits are free (DESIGN CHOICE, log 4). -/
def entryAcc (m : Message) (free : Nat) : Nat :=
  let sender := coreX m.srcCore + coreY m.srcCore * 64 + m.srcDev.toNat * 65536
  if m.chan = 62 then free % 2 ^ 32 + m.payload.length * 2 ^ 32 + (free / 2 ^ 32 % 64 + free / 2 ^ 48 % 2 ^ 16 * 65536) * 2 ^ 64
  else if m.task.isSome then sender
  else sender + m.payload.length * 2 ^ 32 + (m.reply + m.tag.toNat * 65536) * 2 ^ 64

/-- The state of a context at entry. -/
def LCtx.enter (x : LCtx) (c : Core) (ch acc : Nat) (m : Message) (now : Nat) : LCtx :=
  let preset (n : Nat) : Ptr :=
    { addr := Tab.get 0 c.presets (16 * ch + 2 * n), stride := (Tab.get 0 c.presets (16 * ch + 2 * n + 1)).setWidth 19 }
  let ps : Tab Ptr := (List.range 7).map fun n => (n, match m.task, n with
    | some t, 0 => { preset 0 with addr := t.arg }
    | _, _ => preset n)
  { x with
    live := true
    pc := match m.task with
      | some t => t.pc
      | none => (Tab.get {} c.handlers ch).entry
    acc := BitVec.ofNat 256 acc, accTags := [], p := ps, f := {}, num := { x.num with fflags := 0 }
    bad := [], actCommitted := false, wait := .none, readyAt := now + 4, delivered := [], list := none
    trap := { x.trap with intrap := false }
    act := some { chan := ch, msg := m, victim := m.task.bind (·.victim) } }

/-- The join record a task keeps from its TCB at entry (R195); a poisoned TCB is POISON. -/
def State.keepJoin (s : State) (k c : Nat) (m : Message) : State :=
  match m.task with
  | none => s
  | some t =>
    if t.cont then s
    else
      let a := s.tileKey k (t.arg.toNat % 2 ^ 21)
      let s := s.countSoft a 8
      if s.poisoned a 8 then s.raise (.ctx k c) .poison 0
      else s.onCtx k c fun x => { x with act := x.act.map fun y => { y with join := some (bytesW64 (s.readKey a 8) 0) } }

/-- Bind the selected channel to the lowest free context. -/
def State.bind (s : State) (k : Nat) : State :=
  let c := s.core k
  match c.freeCtx, c.selected s.time, (s.launchOfCore k).bind (·.node) with
  | some i, some ch, some n => match c.takeHead k ch with
    | none => s
    | some (m, c') =>
      if n.stopped then s
      else
        let (free, s) := s.freeBytes (if m.chan = 62 then 8 else 0)
        let h := Tab.get {} c'.handlers ch
        let c' := { c' with handlers := Tab.set c'.handlers ch { h with epri := h.pri } }
        let s := s.setCore k (c'.setCtx i ((c'.ctx i).enter c' ch (entryAcc m (leNat free)) m s.time))
        s.keepJoin k i m
  | _, _, _ => s

/-- HANDLER_BIND: core `a`. -/
def execHandlerBind (s : State) : Host.Outcome State Fault Refusal := .next (s.bind s.arg.a)

/-- EPRI_AGING: channel `b` of core `a`, runnable and unbound for 65,536 clk. -/
def execEpriAging (s : State) : Host.Outcome State Fault Refusal :=
  let c := s.core s.arg.a
  let h := Tab.get {} c.handlers s.arg.b
  .next (if c.runnable s.arg.b && decide (s.time ≥ h.age + 65536) && h.epri != 7 then
    s.onCore s.arg.a fun c => { c with handlers := Tab.set c.handlers s.arg.b { h with epri := h.epri + 1, age := h.age + 65536 } }
    else s)

/-! ## Retries (R61) -/

/-- Retry refused stores in order until one goes: the home takes it, or its frame parks it. -/
def State.retryFrom (s : State) (k : Nat) : List Flight → State
  | [] => s
  | f :: fs =>
    let t := (s.onCore k fun c => { c with retries := c.retries.filter fun g => g.id != f.id }).performStore f
    if (t.core k).retries.any fun g => g.id == f.id then s.retryFrom k fs else t

/-- The network interface of a core sends its first refused write that its home takes. -/
def State.retryWrite (s : State) (k : Nat) : State := s.retryFrom k (s.core k).retries

/-- NI_RETRY: the network interface of core `a` sends its first refused write and its first refused message again. -/
def execNiRetry (s : State) : Host.Outcome State Fault Refusal :=
  let s := s.retryWrite s.arg.a
  .next (match (s.core s.arg.a).vn0.findIdx? (·.refused) with
    | some i => s.arrive s.arg.a false i
    | none => s)

/-! ## Stores in flight -/

/-- Do two stores in flight of one unit on a write-combining page touch or overlap, so that one write can stand for both (R325)? -/
def Flight.merges (f g : Flight) : Bool :=
  decide (f.who = g.who ∧ f.cmd = g.cmd ∧ f.mtype = 1 ∧ g.mtype = 1) && f.bad.isEmpty && g.bad.isEmpty &&
  (let (x, y) := if f.name.toNat ≤ g.name.toNat then (f, g) else (g, f)
   let d := y.name.toNat - x.name.toNat
   decide (d ≤ x.bytes.length) && decide (x.place.add d = y.place))

/-- The write that stands for a store and a later one; a burst's restart point is the earlier of theirs (R93). -/
def Flight.merged (f g : Flight) : Flight :=
  let (x, y) := if f.name.toNat ≤ g.name.toNat then (f, g) else (g, f)
  let d := y.name.toNat - x.name.toNat
  let n := max x.bytes.length (d + y.bytes.length)
  let at' (h : Flight) (i : Nat) : Option Byte := let o := h.name.toNat - x.name.toNat; if o ≤ i then h.bytes[i - o]? else none
  { g with
    name := x.name, place := x.place, elem := min f.elem g.elem
    bytes := (List.range n).map fun i => (at' g i).getD ((at' f i).getD 0) }

/-- Store `a` in flight merges into the later store `b`, whose place it takes; none of the unit's stores between them shares a byte
with it (R325). -/
def State.mergeStores (s : State) (a b : Nat) : State :=
  match s.flights[a]?, s.flights[b]? with
  | some f, some g =>
    if a < b && f.merges g && !((s.flights.take b).drop (a + 1)).any f.overlaps then
      { s with flights := (s.flights.set b (f.merged g)).eraseIdx a }
    else s
  | _, _ => s

/-- ACCESS_PERFORM: store `a` of those in flight; with `yes` it merges into store `b`. -/
def execAccessPerform (s : State) : Host.Outcome State Fault Refusal :=
  .next (if s.arg.yes then s.mergeStores s.arg.a s.arg.b
    else match s.flights[s.arg.a]? with
      | some f => s.performFlight f
      | none => s)

/-! ## The row service unit (R154) -/

/-- A home accepts the job at a place of a source's list, behind that source's refused jobs to it and its earlier operations on
the row (R328); a queue of 64 refuses it. -/
def State.acceptRow (s : State) (src i : Nat) (isOp : Bool) : State :=
  match (s.core src).rowOut[i]? with
  | none => s
  | some j => match j.home with
    | none => s
    | some h =>
      let ahead := (s.core src).rowOut.take i
      if j.isOp != isOp || s.niHolds (.ni src) h j.id || ahead.any fun e => (e.refused && e.home == some h) || (e.isOp && isOp && e.meets j) then s
      else if s.homeFull h then
        s.onCore src fun c => { c with rowOut := c.rowOut.set i { j with refused := true } }
      else
        let s := s.onCore src fun c => { c with rowOut := c.rowOut.eraseIdx i }
        (s.onCore h fun c => { c with rowQ := c.rowQ ++ [{ j with acc := s.nextId, refused := false }] }).stamp

/-- Serve an accepted job: those that touch one granule in arrival order; a frame that is not NORMAL parks it (R60). An absent
core's pseudo-channel serves nothing (R382). -/
def State.serveRow (s : State) (h i : Nat) (isOp : Bool) : State :=
  match (s.core h).rowQ[i]? with
  | none => s
  | some j => if s.absent h || j.isOp != isOp || ((s.core h).rowQ.take i).any (·.meets j) then s else s.serveJob h j

/-- A row job is accepted at its home (`yes`: entry `b` of the unit's core), or served there (entry `b` of core `a`). -/
def State.rowService (s : State) (isOp : Bool) : State :=
  if s.arg.yes then s.acceptRow (s.arg.u.coord.getD 0) s.arg.b isOp else s.serveRow s.arg.a s.arg.b isOp

def execRowRequestService (s : State) : Host.Outcome State Fault Refusal := .next (s.rowService false)
def execRowOperationService (s : State) : Host.Outcome State Fault Refusal := .next (s.rowService true)

/-! ## Landings (R173) -/

/-- Is a byte of a row poisoned, by the bits of the granules it lies in? -/
def RowLanding.bad (l : RowLanding) (off : Nat) : Bool := l.poison.getD ((l.job.dva % 32 + off) / 32) false

/-- The bytes that land, with their poison and the flags of the conversion. -/
def RowLanding.data (l : RowLanding) : List Byte × List Bool × Flags :=
  match l.job.cvt with
  | none => (l.bytes, (List.range l.bytes.length).map l.bad, 0)
  | some d =>
    let se := etOf l.job.tet
    let de := etOf d
    let cs := (unpackCodes se l.bytes).map fun c => convert de se .rne 1 c 31
    let per := ElemType.size de
    (packCodes de (cs.map (·.code)),
     (List.range (cs.length * per)).map fun i =>
       (List.range (ElemType.size se)).any fun b => l.bad (i / per * ElemType.size se + b),
     cs.foldl (fun f r => f ||| r.flags) 0)

/-- Write granule i of a landing row at its bank. -/
def State.landGranule (s : State) (k : Nat) (l : RowLanding) (i : Nat) : State :=
  let (bs, bad, _) := l.data
  let p : Place := .tile k l.job.destOff
  match (p.pieces bs.length)[i]? with
  | none => s
  | some (o, n) =>
    let s := s.writePlace (p.add o) ((bs.drop o).take n) none
    if ((bad.drop o).take n).any id then s.poisonPlace (p.add o) n else s

/-- Land granules of a row in its requester's tile memory: one, or all that are left. With its last byte the counter advances and the
flags of the conversion are raised (R173). -/
def State.landRow (s : State) (k b : Nat) (l : RowLanding) (one : Option Nat) : State :=
  let (bs, _, f) := l.data
  let count := ((Place.tile k l.job.destOff).pieces bs.length).length
  let todo := (List.range count).filter fun i => bits l.done i i == 0 && (one.isNone || one == some i)
  let s := todo.foldl (fun s i => s.landGranule k l i) s
  let done := todo.foldl (fun d i => d + 2 ^ i) l.done
  if done + 1 < 2 ^ count then s.onCore k fun c => { c with landings := c.landings.set b { l with done := done } }
  else
    let s := (s.orNi k f).onCore k fun c =>
      { c with landings := c.landings.eraseIdx b, rowReqs := c.rowReqs.filter fun j => j.id != l.job.id }
    match l.job.counter with
    | some n => s.advance k n 1
    | none => s

/-- ROW_LANDING: reply `b` waiting at core `a`: all of it, or with `yes` its granule `v`. -/
def execRowLanding (s : State) : Host.Outcome State Fault Refusal :=
  let k := s.arg.a
  .next (match (s.core k).landings[s.arg.b]? with
    | some l => s.landRow k s.arg.b l (if s.arg.yes then some s.arg.v.toNat else none)
    | none => s)

/-! ## PUT landings (R148) -/

/-- One word of a transform: new code and flags from the old word and a payload element. -/
def xfWord (xf : Nat) (scale : Nat) (old v : Nat) : Nat × Flags :=
  match xf with
  | 1 => let r := convert .fp32 .bf16 .rne 1 v 31; (r.code, r.flags)
  | 2 => let r := convert .bf16 .fp32 .rne 1 v 31; (r.code, r.flags)
  | 3 => rowAcc .fp32 .fp32 old v
  | 4 => rowAcc .fp32 .bf16 old v
  | 5 => ((fpMinMax true .fp32 old v (opd .fp32 old 31) (opd .fp32 v 31)).1, 0)
  | _ => let r := finish .fp32 .rne 1 (exactMul (decodeNum .int8 v) (decodeNum .fp32 scale)) fun _ => 0; (r.code, r.flags)

/-- Bytes of a payload element and of a destination word. -/
def xfSizes (xf : Nat) : Nat × Nat :=
  match xf with
  | 1 | 4 => (2, 4)
  | 2 => (4, 2)
  | 7 => (1, 4)
  | _ => (4, 4)

/-- Pieces of n bytes. -/
def chunks (n : Nat) (bs : List Byte) : List (List Byte) := (List.range (bs.length / n)).map fun i => (bs.drop (n * i)).take n

/-- Write word i of a transform at its bank, from payload element `e`. -/
def State.xfWrite (s : State) (k : Nat) (p : Place) (xf scale i : Nat) (e : List Byte) : State :=
  let n := (xfSizes xf).2
  let at' := p.add (n * i)
  let old := match s.key at' with
    | some a => leNat (s.readKey a n)
    | none => 0
  let (c, f) := xfWord xf scale old (leNat e)
  let s := match xf, s.key at' with
    | 3, some a | 4, some a | 5, some a => s.countSoft a n
    | _, _ => s
  (s.writePlace at' (leBytes n c) none).orNi k f

/-- The accesses that write a PUT's bytes: a granule, a register, or an aligned 32-byte chunk each; with code 6 a chunk of zeros is left
out (R148). -/
def PutInfo.stores (q : PutInfo) (k id : Nat) (payload : List Byte) : List Flight :=
  let one (p : Place) (off : Nat) (xs : List Byte) : List Flight :=
    ({ who := .ni k, name := q.name + BitVec.ofNat 64 off, place := p, bytes := xs, elem := id } : Flight).pieces
  (q.parts.foldl (fun (fs, off) (p, n) =>
    let here := (payload.drop off).take n
    let more := if q.xf = 6 then
        (List.range ((n + 31) / 32)).flatMap fun i =>
          let c := (here.drop (32 * i)).take 32
          if c.length = 32 && c.all (· == 0) then [] else one (p.add (32 * i)) (off + 32 * i) c
      else one p off here
    (fs ++ more, off + n)) (([] : List Flight), 0)).1

/-- The writes of a PUT at core k, each on its own. -/
def Message.putSteps (m : Message) (k : Nat) (q : PutInfo) : List (State → State) :=
  let words (scale : Nat) (es : List (List Byte)) : List (State → State) := match q.parts with
    | (p, _) :: _ => ((List.range es.length).zip es).map fun (i, e) => fun s => s.xfWrite k p q.xf scale i e
    | [] => []
  match q.xf with
  | 0 | 6 => (q.stores k m.id m.payload).map fun f => fun s => s.performStore f
  | 7 => words (leNat (m.payload.take 4)) (chunks 1 (m.payload.drop 4))
  | x => words 0 (chunks (xfSizes x).1 m.payload)

/-- Does an earlier access of a PUT's context to a byte of its name come before it (R317): a PUT, or a store? -/
def State.putWaits (s : State) (m : Message) (q : PutInfo) : Bool :=
  let u : UnitId := .ctx m.srcCore m.srcCtx
  m.srcDev == Config.deviceNumber && (s.nameOut u q.name q.len || s.cores.any fun (_, x) => (x.vn0 ++ x.puts).any fun e =>
    decide (e.id < m.id) && e.srcDev == m.srcDev && e.srcCore == m.srcCore && e.srcCtx == m.srcCtx && e.put.any fun p => p.meets q.name q.len)

/-- Land writes of a PUT at core k: one, or all that are left. Its landing counter advances after the last is performed, and its
request-store space is free (R148, R411). -/
def State.landPut (s : State) (k b : Nat) (m : Message) (one : Option Nat) : State :=
  match m.put with
  | none => s
  | some q =>
    if s.putWaits m q then s else
    let steps := m.putSteps k q
    let todo := (List.range steps.length).filter fun i => bits q.done i i == 0 && (one.isNone || one == some i)
    let s := todo.foldl (fun s i => (steps.getD i id) s) s
    let done := todo.foldl (fun d i => d + 2 ^ i) q.done
    if done + 1 < 2 ^ steps.length || s.storesOut.any (fun f => f.who == .ni k && f.elem == m.id) then
      s.onCore k fun c => { c with puts := c.puts.set b { m with put := some { q with done := done } } }
    else
      let s := if m.poisoned then q.parts.foldl (fun s (p, n) => s.poisonPlace p n) s else s
      let s := s.onCore k fun c => { c with puts := c.puts.eraseIdx b, reqStore := c.reqStore - 1 }
      match q.counter with
      | some n => s.advance k n 1
      | none => s

/-- PUT_LANDING: PUT `b` accepted at core `a`: all that is left of it, or with `yes` its write `v`. -/
def execPutLanding (s : State) : Host.Outcome State Fault Refusal :=
  let k := s.arg.a
  .next (match (s.core k).puts[s.arg.b]? with
    | some m => s.landPut k s.arg.b m (if s.arg.yes then some s.arg.v.toNat else none)
    | none => s)

/-! ## Use counters (R153) -/

/-- USE_COUNTER_INCREMENT: the oldest increment on its way to core `a`; a counter stops at its maximum. -/
def execUseCounterIncrement (s : State) : Host.Outcome State Fault Refusal :=
  let k := s.arg.a
  .next (match (s.core k).ucQ with
    | [] => s
    | (_, u) :: us => s.onCore k fun c =>
      let v := Tab.get 0 c.useCtr u
      { c with ucQ := us, useCtr := if v = BitVec.allOnes 48 then c.useCtr else Tab.set c.useCtr u (v + 1) })

end Sys2Proof.Machine
end

