-- ==== Sys2Proof/Machine/MemEvents.lean ====
section
/-! DEFINITION. Events of memory: walks (R54), frames (R62), the Lantern (R109, R111), register writes (R112, R219, R367, R416),
scrubbing (R377) and soft errors (R114, R375). -/

namespace Sys2Proof.Machine

/-- PAGE_WALK: a walk of the unit for the DVA `addr`, with `yes` of its stream fetch; a leaf is cached, and what it lacks is raised by the access (R54). -/
def execPageWalk (s : State) : Host.Outcome State Fault Refusal :=
  let dva := s.arg.addr.toNat % 2 ^ 48
  .next (match s.walk dva with
    | .leaf size e => s.cacheLeaf { s.who s.arg.u with fetch := s.arg.yes } { page := dva / 2 ^ size * 2 ^ size, size := size, leaf := e }
    | _ => s)

/-- FSCMD: word `v` written at the home core `a`, behind what arrived there before; a home that is full refuses it (R154). -/
def execFscmd (s : State) : Host.Outcome State Fault Refusal :=
  .next (if s.homeFull s.arg.a then s else s.fscmd s.arg.a s.arg.v.toNat)

/-- LANTERN_ACCESS: offset `b` of cluster `a`: a write of `bs` by its granules, or a read of a word; a miss that finds no room
parks (R111). -/
def execLanternAccess (s : State) : Host.Outcome State Fault Refusal :=
  let cl := s.arg.a
  let o := s.arg.b
  let name := absAddr 3 (cornerCore cl) o
  .next (if s.arg.yes then s.performPieces { who := s.arg.u, name := name, place := .cmem cl o, bytes := s.arg.bs }
    else match s.lantern cl (o / 256) false with
      | (t, true) => t
      | (_, false) => s.settle s.arg.u (.error (.full cl (o / 256) (.read s.arg.u 0 (.cmem cl o) name 4))))

/-- CMEM_EVICTION_RESUME: cluster `a`. -/
def execCmemEvictionResume (s : State) : Host.Outcome State Fault Refusal := .next (s.resumeEviction s.arg.a)

/-- A unit's write of `v` to a register of cluster `a`. -/
def State.clusterWrite (s : State) (off : Nat) : State :=
  let cl := s.arg.a
  match s.writeReg s.arg.u (cornerCore cl) cl off s.arg.v.toNat 0xFF with
  | .ok t => t
  | .error c => s.raise s.arg.u c (absAddr 4 (cornerCore cl) off)

def execCmgrant (s : State) : Host.Outcome State Fault Refusal := .next (s.clusterWrite 0x8610)
def execSmquery (s : State) : Host.Outcome State Fault Refusal := .next (s.clusterWrite 0x8800)
def execNresume (s : State) : Host.Outcome State Fault Refusal := .next (s.clusterWrite 0x8A18)

/-- REGISTER_WRITE: the unit writes `v` at the ENGREG address `addr`. -/
def execRegisterWrite (s : State) : Host.Outcome State Fault Refusal :=
  .next (if addrSpace s.arg.addr = 4 then s.settle s.arg.u (s.store s.arg.u s.arg.addr (w64Bytes s.arg.v)) else s)

/-! ## Errors -/

/-- A stored sector is struck: its error waits to be found (R114, R377). -/
def CMem.strike (m : CMem) (b i : Nat) (correctable : Bool) : CMem :=
  if correctable then { m with soft := (b, i) :: m.soft.erase (b, i) }
  else if m.bad.any (fun e => e.1 == b && e.2.1 == i) then m
  else { m with bad := (b, i, false) :: m.bad, soft := m.soft.erase (b, i) }

/-- A scrub step of a stored sector of cluster `cl`: an error found is corrected, or its granules carry the syndrome (R114, R377). -/
def State.scrubSector (s : State) (cl b i : Nat) : State :=
  let m := (s.cluster cl).cm
  if m.soft.elem (b, i) then
    (s.onCluster cl fun c => { c with cm := { c.cm with soft := c.cm.soft.erase (b, i) } }).countCorrected (s.physCl cl)
  else if m.bad.elem (b, i, false) then
    let s := s.countUncorrected (s.physCl cl) 0
    if m.resident b then s.onCluster cl fun c => { c with cm := { c.cm with bad := (b, i, true) :: c.cm.bad.erase (b, i, false) } }
    else (s.poisonBlock cl b ((Tab.get Form.zero m.forms b).badGranules i)).onCluster cl fun c => { c with cm := { c.cm with bad := c.cm.bad.erase (b, i, false) } }
  else s

/-- SCRUB_STEP: granule `a`, or with `yes` sector `v` of block `b` of cluster `a`. A correctable error is written back corrected, an
uncorrectable one is found, where no access has found it. An interval of 0 turns scrubbing off. -/
def execScrubStep (s : State) : Host.Outcome State Fault Refusal :=
  let g := s.arg.a
  .next (if s.arg.yes then (if s.scrubSram = 0 then s else s.scrubSector g s.arg.b s.arg.v.toNat)
    else if (if 32 * g ≥ hbmBase then s.scrubHbm else s.scrubSram) = 0 then s
    else { s.checkGranule g with soft := setRemove s.soft g })

/-- A struck entry of a cluster: corrected, or poisoned, counted and logged. -/
def State.strike (s : State) (cl : Nat) (correctable : Bool) (f : State → State) : State :=
  if correctable then s.countCorrected (s.physCl cl) else (f s).countUncorrected (s.physCl cl) 0

/-- A message of a queue is poisoned. -/
def poisonMsg (q : List Message) (i : Nat) : List Message :=
  match q[i]? with | some m => q.set i { m with poisoned := true } | none => q

def State.strikeReg (s : State) (cl : Nat) (correctable : Bool) (r : PendDest) : State :=
  s.strike cl correctable fun s => s.onDense cl fun d => if d.bad.elem r then d else { d with bad := r :: d.bad }

/-- SOFT_ERROR. -/
def execSoftError (s : State) : Host.Outcome State Fault Refusal :=
  .next (match s.arg.soft with
    | .granule g c =>
      if c then (if s.poison.elem g then s else { s with soft := setInsert s.soft g })
      else if s.poison.elem g then s
      else { s with soft := setRemove s.soft g, hard := setInsert s.hard g }.setPoison g
    | .sector cl b i c => s.onCluster cl fun x => { x with cm := x.cm.strike b i c }
    | .sreg cl r c => if r = 0 then s else s.strikeReg cl c (.s r)
    | .vreg cl r c => s.strikeReg cl c (.v r)
    | .kreg cl r c => s.strikeReg cl c (if r = 15 then .k15 else .k r)
    | .mreg cl r c => if r = 0 then s else s.strikeReg cl c (.m r)
    | .ctxReg k x r c => s.strike (clusterOf k) c fun s => s.onCtx k x fun y => if y.bad.elem r then y else { y with bad := r :: y.bad }
    | .element cl bank k c => s.strike cl c fun s => s.onDense cl fun d =>
      let b := d.bank (bank != 0)
      d.setBank (bank != 0) (if b.bad.elem k then b else { b with bad := k :: b.bad })
    | .queued k i c => s.strike (clusterOf k) c fun s => s.onCore k fun x => { x with vn0 := poisonMsg x.vn0 i }
    | .queuedReply k i c => s.strike (clusterOf k) c fun s => s.onCore k fun x => { x with vn1 := poisonMsg x.vn1 i }
    | .arrived k ch i c => s.strike (clusterOf k) c fun s => s.onCore k fun x =>
      { x with channels := Tab.set x.channels ch (poisonMsg (Tab.get [] x.channels ch) i) }
    | .ereg cl e r c => s.strikeReg cl c (.e e r)
    | .emreg cl e r c => if r = 0 then s else s.strikeReg cl c (.em e r)
    | .treg cl n c => s.strikeReg cl c (.t n)
    | .format cl i c => s.strike cl c fun s => s.onDense cl fun d =>
      if decide (i < d.fq.length) && !d.fqBad.elem i then { d with fqBad := i :: d.fqBad } else d
    | .supReg n r c => if r = 0 ∨ c then s else (s.onSup n fun x => if x.bad.elem r then x else { x with bad := r :: x.bad }).ordelLog n Cause.poison.code 0
    | .tile cl q u c => s.strike cl c fun s => s.onCe cl fun e =>
      { e with q := Tab.set e.q q ((Tab.get [] e.q q).map fun x =>
          { x with cache := x.cache.map fun (v, bs) => if v = u then (v, bs.map fun b => (b.1, true)) else (v, bs) }) }
    | .descriptor cl st n c => s.strike cl c fun s => s.onDense cl fun d =>
      if st then { d with dstore := Tab.set d.dstore n { Tab.get {} d.dstore n with poison := true } }
      else { d with dload := Tab.set d.dload n { Tab.get {} d.dload n with poison := true } })

end Sys2Proof.Machine
end

