-- ==== Sys2Proof/Machine/VectorFun.lean ====
section
/-! DEFINITION. The function algorithms VRCP, VRSQ, VEXP2 and VLOG2 (R245 to R248). Table entries and coefficients are
FP32 codes; RCPT and GT, whose exact reals are rational, are rounded where they are used. -/

namespace Sys2Proof.Machine

/-! ## Tables -/

/-- RSQT (R247): R(1/√c) over [1, 4). -/
def rsqt : List Nat :=
  [0x3F7E05EC, 0x3F7A33F9, 0x3F768CDC, 0x3F730D8A, 0x3F6FB345, 0x3F6C7B90, 0x3F69642A, 0x3F666B02] ++
  [0x3F638E39, 0x3F60CC16, 0x3F5E2305, 0x3F5B9193, 0x3F59166B, 0x3F56B051, 0x3F545E22, 0x3F521ED0] ++
  [0x3F4FF162, 0x3F4DD4ED, 0x3F4BC89B, 0x3F49CBA2, 0x3F47DD45, 0x3F45FCD6, 0x3F4429AF, 0x3F426337] ++
  [0x3F40A8DE, 0x3F3EFA1C, 0x3F3D5671, 0x3F3BBD67, 0x3F3A2E8C, 0x3F38A975, 0x3F372DBF, 0x3F35BB09] ++
  [0x3F339F19, 0x3F30EB96, 0x3F2E565C, 0x3F2BDD46, 0x3F297E62, 0x3F2737F0, 0x3F250855, 0x3F22EE1D] ++
  [0x3F20E7F5, 0x3F1EF4A4, 0x3F1D130E, 0x3F1B422C, 0x3F19810C, 0x3F17CED0, 0x3F162AA9, 0x3F1493D9] ++
  [0x3F1309AF, 0x3F118B87, 0x3F1018C6, 0x3F0EB0E0, 0x3F0D534F, 0x3F0BFF97, 0x3F0AB544, 0x3F0973E8] ++
  [0x3F083B1E, 0x3F070A87, 0x3F05E1C7, 0x3F04C08B, 0x3F03A682, 0x3F029362, 0x3F0186E2, 0x3F0080C1]

/-- EXPT (R248): R(2^(j/64)). -/
def expt : List Nat :=
  [0x3F800000, 0x3F8164D2, 0x3F82CD87, 0x3F843A29, 0x3F85AAC3, 0x3F871F62, 0x3F88980F, 0x3F8A14D5] ++
  [0x3F8B95C2, 0x3F8D1ADF, 0x3F8EA43A, 0x3F9031DC, 0x3F91C3D3, 0x3F935A2B, 0x3F94F4F0, 0x3F96942D] ++
  [0x3F9837F0, 0x3F99E046, 0x3F9B8D3A, 0x3F9D3EDA, 0x3F9EF532, 0x3FA0B051, 0x3FA27043, 0x3FA43516] ++
  [0x3FA5FED7, 0x3FA7CD94, 0x3FA9A15B, 0x3FAB7A3A, 0x3FAD583F, 0x3FAF3B79, 0x3FB123F6, 0x3FB311C4] ++
  [0x3FB504F3, 0x3FB6FD92, 0x3FB8FBAF, 0x3FBAFF5B, 0x3FBD08A4, 0x3FBF179A, 0x3FC12C4D, 0x3FC346CD] ++
  [0x3FC5672A, 0x3FC78D75, 0x3FC9B9BE, 0x3FCBEC15, 0x3FCE248C, 0x3FD06334, 0x3FD2A81E, 0x3FD4F35B] ++
  [0x3FD744FD, 0x3FD99D16, 0x3FDBFBB8, 0x3FDE60F5, 0x3FE0CCDF, 0x3FE33F89, 0x3FE5B907, 0x3FE8396A] ++
  [0x3FEAC0C7, 0x3FED4F30, 0x3FEFE4BA, 0x3FF28177, 0x3FF5257D, 0x3FF7D0DF, 0x3FFA83B3, 0x3FFD3E0C]

/-- LOGT (R248): R(log2(1 + j/64)). -/
def logt : List Nat :=
  [0x00000000, 0x3CB73CB4, 0x3D35D69C, 0x3D8759C5, 0x3DB31FB8, 0x3DDE4212, 0x3E0462C4, 0x3E19574F] ++
  [0x3E2E00D2, 0x3E42615F, 0x3E567AF1, 0x3E6A4F72, 0x3E7DE0B6, 0x3E88983F, 0x3E92203D, 0x3E9B8926] ++
  [0x3EA4D3C2, 0x3EAE00D2, 0x3EB7110E, 0x3EC0052B, 0x3EC8DDD4, 0x3ED19BB0, 0x3EDA3F60, 0x3EE2C97D] ++
  [0x3EEB3A9F, 0x3EF39355, 0x3EFBD42B, 0x3F01FED4, 0x3F060828, 0x3F0A0650, 0x3F0DF989, 0x3F11E20F] ++
  [0x3F15C01A, 0x3F1993E3, 0x3F1D5DA0, 0x3F211D84, 0x3F24D3C2, 0x3F28808C, 0x3F2C2411, 0x3F2FBE80] ++
  [0x3F335004, 0x3F36D8CB, 0x3F3A58FF, 0x3F3DD0C8, 0x3F41404F, 0x3F44A7BA, 0x3F480731, 0x3F4B5ED7] ++
  [0x3F4EAED0, 0x3F51F740, 0x3F553848, 0x3F587209, 0x3F5BA4A4, 0x3F5ED039, 0x3F61F4E5, 0x3F6512C7] ++
  [0x3F6829FB, 0x3F6B3A9F, 0x3F6E44CD, 0x3F7148A1, 0x3F744636, 0x3F773DA4, 0x3F7A2F04, 0x3F7D1A71]

def expC1 : Nat := 0x3F317218
def expC2 : Nat := 0x3E75FDF0
def expC3 : Nat := 0x3D635847
def logD1 : Nat := 0x3FB8AA3B
def logD2 : Nat := 0xBF38AA3B
def logD3 : Nat := 0x3EF6384F

/-! ## Steps (R245) -/

/-- R(z). -/
def r32 (x : Num) : Nat := (roundTo .fp32 .rne 0 x).1
def v32 (c : Nat) : Num := decodeNum .fp32 c
/-- FMA(a, b, c) on a value and FP32 codes. -/
def fma32 (a : Num) (b c : Nat) : Nat := r32 (exactFma .rne a (v32 b) (v32 c)).1
def mul32 (a b : Num) : Nat := r32 (exactMul a b).1
def add32 (a b : Num) : Nat := r32 (exactAdd .rne a b).1
def one32 : Nat := 0x3F800000
def half32 : Nat := 0x3F000000

/-- Split(x): the significand in [1, 2) and the exponent of a finite nonzero value. -/
def splitNum (x : Num) : Num × Int :=
  match x with
  | .fin _ n d e => (.fin false n d (e - x.exp), x.exp)
  | y => (y, 0)
/-- Floor of a finite value times 2^k. -/
def floorScaled (k : Int) : Num → Int
  | .fin neg n d e =>
    let (q, rem, _) := inUnits n d (e + k) 0
    if neg then -(q : Int) - (if rem = 0 then 0 else 1) else q
  | _ => 0

/-- Round the last step: INEXACT when the result is not the mathematical value, UNDERFLOW when it is also tiny (R123). -/
def funResult (last : Num) (exact : Nat → Bool) : Nat × Flags :=
  let (r, f) := roundTo .fp32 .rne 0 last
  let tiny := !last.isZero && decide (last.exp < -126)
  (r, (f &&& fOverflow) ||| (if exact r then 0 else if tiny then fInexact ||| fUnderflow else fInexact))

def qnan : Nat := 0x7FC00000
def infSigned (neg : Bool) : Nat := if neg then 0xFF800000 else 0x7F800000

/-- VRCP (R246). -/
def rcpIter (m : Num) : Nat → Nat → Nat
  | 0, y => y
  | n + 1, y => rcpIter m n (let h := fma32 m.negate y one32; fma32 (v32 y) h y)
def vrcp32 (c : Nat) : Nat × Flags :=
  match v32 c with
  | .nan => (qnan, 0)
  | .inf neg => (if neg then 0x80000000 else 0, 0)
  | .fin neg n d e =>
    if n = 0 then (infSigned neg, fDivZero)
    else
      let (m, ex) := splitNum (.fin false n d e)
      let i := (floorScaled 6 (exactAdd .rne m (.fin true 1 1 0)).1).toNat
      let y := rcpIter m 2 (r32 (.fin false 128 (129 + 2 * i) 0))
      funResult (Num.scale (-ex) (if neg then (v32 y).negate else v32 y)) fun r =>
        (exactMul (v32 r) (v32 c)).1.eqv (.ofInt 1)

/-- VRSQ (R247). -/
def rsqIter (m : Num) : Nat → Nat → Nat
  | 0, y => y
  | n + 1, y => rsqIter m n (let t := mul32 (v32 y) (v32 y); let h := fma32 m.negate t one32
                             fma32 (v32 (mul32 (v32 half32) (v32 y))) h y)
def vrsq32 (c : Nat) : Nat × Flags :=
  match v32 c with
  | .nan => (qnan, 0)
  | .inf neg => if neg then (qnan, fInvalid) else (0, 0)
  | .fin neg n d e =>
    if n = 0 then (infSigned neg, fDivZero)
    else if neg then (qnan, fInvalid)
    else
      let (m1, ex) := splitNum (.fin false n d e)
      let odd := decide (ex % 2 = 1)
      let m := if odd then Num.scale 1 m1 else m1
      let e0 := if odd then ex - 1 else ex
      let i := if odd then 32 + (floorScaled 4 (exactAdd .rne m (.fin true 2 1 0)).1).toNat
        else (floorScaled 5 (exactAdd .rne m (.fin true 1 1 0)).1).toNat
      let y := rsqIter m 2 (rsqt.getD i 0)
      funResult (Num.scale (-(e0 / 2)) (v32 y)) fun r =>
        (exactMul (exactMul (v32 r) (v32 r)).1 (v32 c)).1.eqv (.ofInt 1)

/-- VEXP2 (R248). -/
def vexp232 (c : Nat) : Nat × Flags :=
  let x := v32 c
  match x with
  | .nan => (qnan, 0)
  | .inf neg => (if neg then 0 else infSigned false, 0)
  | .fin .. =>
    if !x.lt (.ofInt 128) then (infSigned false, fOverflow ||| fInexact)
    else if x.lt (.ofInt (-150)) then (0, fUnderflow ||| fInexact)
    else
      let n := floorScaled 6 x
      let j := (n % 64).toNat
      let k := (n - j) / 64
      let f := add32 x (Num.scale (-6) (.ofInt (-n)))
      let p := fma32 (v32 expC3) f expC2
      let p := fma32 (v32 p) f expC1
      let p := fma32 (v32 p) f one32
      let y := mul32 (v32 (expt.getD j 0)) (v32 p)
      let i := floorScaled 0 x
      funResult (Num.scale k (v32 y)) fun r => x.eqv (.ofInt i) && (v32 r).eqv (.fin false 1 1 i)

/-- VLOG2 (R248). -/
def vlog232 (c : Nat) : Nat × Flags :=
  let x := v32 c
  match x with
  | .nan => (qnan, 0)
  | .inf neg => if neg then (qnan, fInvalid) else (infSigned false, 0)
  | .fin neg n d e =>
    if n = 0 then (infSigned true, fDivZero)
    else if neg then (qnan, fInvalid)
    else
      let (m, ex) := splitNum (.fin false n d e)
      let j := (floorScaled 6 (exactAdd .rne m (.fin true 1 1 0)).1).toNat
      let diff := (exactAdd .rne m (.fin true (64 + j) 64 0)).1
      let u := mul32 diff (v32 (r32 (.fin false 64 (64 + j) 0)))
      let q := fma32 (v32 logD3) u logD2
      let q := fma32 (v32 q) u logD1
      let p := mul32 (v32 q) (v32 u)
      let t := add32 (v32 (logt.getD j 0)) (v32 p)
      funResult (exactAdd .rne (.ofInt ex) (v32 t)).1 fun r => m.eqv (.ofInt 1) && (v32 r).eqv (.ofInt ex)

end Sys2Proof.Machine
end

