-- ==== Sys2Proof/Machine/VectorIssue.lean ====
section
/-! DEFINITION. Issue of V words (R220 to R222, R238, R258): the registers a word reads and writes, the bank schedule of its
group, the write port of a bank, shadows and interlocks, and lanes under a mask. -/

namespace Sys2Proof.Machine

/-! ## Registers (R209, R251, R258) -/

inductive VReg where
  | v (n : Nat)
  | e (ctx n : Nat)
deriving DecidableEq, Repr

/-- A vector source: an epilogue names its e registers by 0 to 3 and reads v16 to v31. -/
def srcReg (u : UnitId) (r : BitVec 5) : Option VReg :=
  match u with
  | .epi _ c => if r.toNat < 4 then some (.e c r.toNat) else if r.toNat < 16 then none else some (.v r.toNat)
  | _ => some (.v r.toNat)
/-- A vector destination: an epilogue has only its e registers. -/
def dstReg (u : UnitId) (r : BitVec 5) : Option VReg :=
  match u with
  | .epi _ c => if r.toNat < 4 then some (.e c r.toNat) else none
  | _ => some (.v r.toNat)
def VReg.dest : VReg → PendDest
  | .v n => .v n
  | .e c n => .e c n

/-- A k destination: k15 of an epilogue is read-only. -/
def kDest (u : UnitId) (k : BitVec 4) : Option PendDest :=
  match u with
  | .epi _ _ => if k = 15 then none else some (.k k.toNat)
  | _ => some (if k = 15 then .k15 else .k k.toNat)
/-- A mask register: m0 has no home. -/
def mPlace (u : UnitId) (m : BitVec 3) : Option PendDest :=
  if m = 0 then none else match u with
  | .epi _ c => some (.em c m.toNat)
  | _ => some (.m m.toNat)

def Dense.vreg (d : Dense) : VReg → List Lane
  | .v n => Tab.get [] d.v n
  | .e c n => Tab.get [] (d.epiCtx c).e n
def Dense.kreg (d : Dense) (u : UnitId) (k : BitVec 4) : W64 :=
  if k = 15 then (match u with | .epi _ c => (d.epiCtx c).k15 | _ => d.k15) else Tab.get 0 d.k k.toNat
def Dense.mreg (d : Dense) (u : UnitId) (m : BitVec 3) : W64 :=
  if m = 0 then BitVec.allOnes 64
  else match u with
    | .epi _ c => Tab.get 0 (d.epiCtx c).m m.toNat
    | _ => Tab.get 0 d.m m.toNat

/-! ## What a word uses -/

/-- Vector reads in operand order, k and mask reads, and the destinations with their latencies; `var` marks a word whose
latency is variable (R222). -/
structure VUse where
  vs : List (BitVec 5) := []
  ks : List (BitVec 4) := []
  ms : List (BitVec 3) := []
  dv : List (BitVec 5 × Nat) := []
  dk : Option (BitVec 4) := none
  dm : Option (BitVec 3) := none
  var : Bool := false

/-- The uses of every word of the V format. -/
def vectorUse : Instr → VUse
  | .vadd _ _ d a b m _ | .vsub _ _ d a b m _ | .vmul _ _ d a b m _ => { vs := [a, b], ms := [m], dv := [(d, 4)] }
  | .vmin _ _ d a b m | .vmax _ _ d a b m | .viadd _ _ d a b m | .visub _ _ d a b m | .vimul _ _ d a b m =>
    { vs := [a, b], ms := [m], dv := [(d, 4)] }
  | .vfma _ _ d a b m _ | .vfms _ _ d a b m _ => { vs := [a, b, d], ms := [m], dv := [(d, 5)] }
  | .vabs _ _ d a m | .vneg _ _ d a m => { vs := [a], ms := [m], dv := [(d, 4)] }
  | .vrcp _ _ d a m | .vrsq _ _ d a m | .vexp2 _ _ d a m | .vlog2 _ _ d a m => { vs := [a], ms := [m], dv := [(d, 12)] }
  | .vand _ _ d a b m | .vor _ _ d a b m | .vxor _ _ d a b m | .vshl _ _ d a b m | .vshr _ _ d a b m
  | .vsra _ _ d a b m | .vsel _ _ d a b m => { vs := [a, b], ms := [m], dv := [(d, 2)] }
  | .vcmp _ _ d a b m _ => { vs := [a, b], ms := [m], dm := some d }
  | .vcvt _ _ d a _ m _ => { vs := [a], ms := [m], dv := [(d, 4)] }
  | .vefb _ _ d a b m _ => { vs := [a], ms := [m], dv := [(d, 4), (b, 5)] }
  | .vbcast _ d k => { ks := [k], dv := [(d, 2)] }
  | .vmovk _ d _ a => { vs := [a], dk := some d }
  | .kaddi _ d a _ => { ks := [a], dk := some d }
  | .vld _ d k _ _ | .vldt _ d k _ _ => { ks := [k], dv := [(d, 0)], var := true }
  | .vst _ d k _ _ | .vstt _ d k _ _ => { vs := [d], ks := [k] }
  | .vldg _ d a k _ => { vs := [a], ks := [k], dv := [(d, 0)], var := true }
  | .vsts _ d a k _ => { vs := [a, d], ks := [k] }
  | .vred _ d a m _ => { vs := [a], ms := [m], dv := [(d, 8)] }
  | .vperm _ d a b m => { vs := [a, b], ms := [m], dv := [(d, 3)] }
  | .vsigRead _ d a m | .vsigMintag _ d a m => { vs := [a], ms := [m], dv := [(d, 2)] }
  | .vsigWrite _ d a b m | .vssig _ d a b m => { vs := [a, b], ms := [m], dv := [(d, 2)] }
  | .vbr _ k _ _ => { ks := [k] }
  | .vloop _ k _ => { ks := [k], dk := some k }
  | .epout _ a _ => { vs := [a] }
  | .vsysCrr _ d _ | .vsysTime _ d => { dk := some d, var := true }
  | .vsysCrw _ k _ => { ks := [k] }
  | _ => {}

/-- Every destination of a word, or none where one is not permitted: m0, or another's register in an epilogue. -/
def VUse.dests (x : VUse) (u : UnitId) : Option (List PendDest) :=
  let vs := x.dv.map fun (r, _) => (dstReg u r).map VReg.dest
  let ks := match x.dk with | some k => [kDest u k] | none => []
  let ms := match x.dm with | some m => [mPlace u m] | none => []
  (vs ++ ks ++ ms).mapM id

/-! ## The bank schedule (R220) -/

/-- The bank of each read: none for an e register. -/
def bankOf : VReg → Option Nat
  | .v n => some (n % 4)
  | .e .. => none
/-- The banks of the file reads of a word. -/
def VUse.banks (x : VUse) (u : UnitId) : List Nat := x.vs.filterMap fun r => (srcReg u r).bind bankOf

/-- The clk of each read, counted from the group's first: two reads of a bank to a clk, after those of `before`. -/
def readSlots : List Nat → List VReg → List Nat
  | _, [] => []
  | before, r :: rs => match bankOf r with
    | none => 0 :: readSlots before rs
    | some b => (before.filter (· == b)).length / 2 :: readSlots (before ++ [b]) rs

/-- Extra clk of a group from the reads it makes of its busiest bank. -/
def groupExtra (banks : List Nat) : Nat :=
  let r := (List.range 4).foldl (fun r b => max r (banks.filter (· == b)).length) 0
  (r - 1) / 2

/-- Does a variable-latency word wait for a write to its register? -/
def Dense.varWaits (d : Dense) (dests : List PendDest) : Bool := d.pend.any fun p => dests.elem p.dest

/-- Does the compute stream's turn come in this clk? -/
def State.computeComes (s : State) (cl : Nat) : Bool := (s.agenda.takeWhile fun x => x.dt == 0).any fun x => x.act == .issue (.compute cl)
/-- The compute stream's word that issues in the same clk, after an epilogue's: its bank reads. -/
def State.partnerBanks (s : State) (cl : Nat) : List Nat :=
  let u : UnitId := .compute cl
  match if s.computeComes cl then s.nextInstr u s.time else none with
  | none => []
  | some i =>
    let x := vectorUse i
    match x.dests u with
    | none => []
    | some ds => if x.var && (s.dense cl).varWaits ds then [] else x.banks u

/-! ## Issue -/

/-- A V word that issues: the state with its bank stalls counted, its clk, the reads it makes, and the further clk that its group
takes. -/
structure VIssue where
  s : State
  u : UnitId
  at' : Nat
  ops : List (List Lane)
  d : Dense
  delay : Nat

/-- Issue a V word at the present clk (R220 to R222). -/
def State.vissue (s : State) (u : UnitId) (x : VUse) : Eff VIssue :=
  let cl := u.cl
  let d := s.dense cl
  match x.vs.mapM (srcReg u), x.dests u with
  | some rs, some dests =>
    let named := rs.map VReg.dest ++ x.ks.filterMap (kDest u) ++ x.ms.filterMap (mPlace u)
    if x.var && d.varWaits dests then .error (.wait .retry)
    -- a load of the compute stream's whose granules are still to be read: its readers and writers stall (R222, R258)
    else if d.loading.any (fun r => named.elem r || dests.elem r) && (match u with | .epi .. => true | _ => false) then .error (.wait .retry)
    else
      let isEpi := match u with | .epi _ _ => true | _ => false
      let before := if isEpi then s.partnerBanks cl else []
      let mine := rs.filterMap bankOf
      let others := if isEpi then [] else if d.epiReads.1 = s.time then d.epiReads.2 else []
      let slots := readSlots before rs
      let last := slots.foldl max 0
      let extra := groupExtra (before ++ mine ++ others)
      let busy : Bool := x.dv.any fun (r, lat) => d.pend.any fun p => match p.dest with
        | .v n => decide (n % 4 = r.toNat % 4 ∧ p.due = some (s.time + last + lat))
        | _ => false
      let at' := s.time + last
      let times := slots.map (s.time + ·)
      let shadowed (p : Pending) : Bool :=
        (rs.zip times).any (fun (r, t) => decide (p.dest = r.dest) && decide (p.due.getD 0 > t)) ||
        ((x.ks.any fun k => kDest u k == some p.dest) || (x.ms.any fun m => mPlace u m == some p.dest)) &&
          decide (p.due.getD 0 > at')
      if !isEpi && !x.var && busy then
        -- held at issue for one clk (R221)
        .error (.again fun s => s.onDense cl fun d => { d with bankstall := d.bankstall + 1 })
      else if d.cp.sbchk && d.pend.any shadowed then .error (.trap .shadow 0 s)
      else if named.any d.bad.elem then .error (.trap .poison 0 s)
      else
        let counted := if isEpi then (if before.isEmpty then extra else 0) else if x.vs.isEmpty then 0 else extra
        let next := s.time + 1 + extra
        let s := s.onDense cl fun d =>
          { d with
            bankstall := d.bankstall + BitVec.ofNat 48 counted
            epiReads := if isEpi then (s.time, mine) else d.epiReads
            epiAt := max d.epiAt next
            cp := if isEpi && !s.computeComes cl then { d.cp with readyAt := max d.cp.readyAt next } else d.cp }
        .ok { s := s, u := u, at' := at', d := d.land at', delay := extra
              ops := (rs.zip times).map fun (r, t) => (d.land t).vreg r }
  | _, _ => .error (.trap .illegal 0 s)

/-- Lane i of operand n, as a code with its tag. -/
def VIssue.op (x : VIssue) (n i : Nat) : Nat × Tag :=
  let l := (x.ops.getD n []).getD i {}
  (l.val.toNat, l.tag)
def VIssue.k (x : VIssue) (k : BitVec 4) : W64 := x.d.kreg x.u k
def VIssue.mask (x : VIssue) (m : BitVec 3) : W64 := x.d.mreg x.u m

/-- The sequence number of a word. -/
def VIssue.seq (x : VIssue) : BitVec 8 :=
  match x.u with
  | .epi cl e => ((x.s.dense cl).epiCtx e).seq
  | u => (x.s.dense u.cl).cp.seq

/-- A result that becomes visible `lat` clk after issue. -/
def VIssue.pend (x : VIssue) (s : State) (dest : Option PendDest) (v : PendVal) (lat : Nat) : State :=
  match dest with
  | none => s
  | some d =>
    let p : Pending := { who := x.u, dest := d, val := v, due := some (x.at' + lat), seq := some x.seq }
    s.onDense x.u.cl fun d => { d with pend := d.pend ++ [p] }
/-- Lanes of a vector register, under a mask. -/
def VIssue.putV (x : VIssue) (s : State) (r : BitVec 5) (mask : W64) (ls : List (Nat × Tag)) (lat : Nat) : State :=
  x.pend s ((dstReg x.u r).map VReg.dest) (.lanes mask (ls.map fun (c, t) => { val := BitVec.ofNat 32 c, tag := t })) lat
def VIssue.putK (x : VIssue) (s : State) (k : BitVec 4) (v : W64) (lat : Nat) : State := x.pend s (kDest x.u k) (.word v) lat
/-- Retire with the word's own idle slots and its issue's delay. -/
def VIssue.retire (x : VIssue) (s : State) (idle : Nat) : State := s.retire x.u (idle + x.delay)

/-! ## Words -/

/-- A word that the compute stream and epilogues have. -/
def vectorWord (s : State) (f : UnitId → Eff State) : Host.Outcome State Fault Refusal :=
  match s.cur with
  | .compute c => .next (s.settle s.cur (f (.compute c)))
  | .epi c e => .next (s.settle s.cur (f (.epi c e)))
  | u => .next (s.raise u .illegal 0)

/-- A V word whose operands are issued before its effect. -/
def issueWord (s : State) (x : VUse) (f : VIssue → Eff State) : Host.Outcome State Fault Refusal :=
  vectorWord s fun u => match s.vissue u x with
    | .error q => .error q
    | .ok y => f y

/-- Active lanes in ascending order, one generator; an inactive lane does nothing (R238). -/
def runMasked (mask : W64) (f : Nat → W32 → Res) : W32 → List Nat → LaneRun
  | sr, [] => ⟨[], 0, sr⟩
  | sr, i :: is =>
    if mask.getLsbD i then
      let r := f i sr
      let t := runMasked mask f r.sr is
      ⟨(r.code, BitVec.ofNat 5 r.tag) :: t.lanes, r.flags ||| t.flags, t.sr⟩
    else
      let t := runMasked mask f sr is
      ⟨(0, 31) :: t.lanes, t.flags, t.sr⟩

/-- An active lane whose tag is below the threshold (R135). -/
def State.lowLane (s : State) (u : UnitId) (mask : W64) (ls : List (Nat × Tag)) : Bool :=
  ((List.range ls.length).zip ls).any fun (i, l) => mask.getLsbD i && s.sigLow u l.2.toNat

/-- A word that computes each active lane of a register from the same lanes of its operands. -/
def laneWord (s : State) (w : BitVec 3) (x : VUse) (d : BitVec 5) (m : BitVec 3) (lat : Nat) (check : Bool)
    (f : (Nat → Nat × Tag) → W32 → Res) : Host.Outcome State Fault Refusal :=
  issueWord s x fun y =>
    let mask := y.mask m
    let r := runMasked mask (fun i => f fun n => y.op n i) (s.num y.u).sr (List.range 64)
    let s := (y.putV y.s d mask r.lanes lat).collect y.u r.flags r.sr
    if check && s.lowLane y.u mask r.lanes then .error (.trap .sigThreshold 0 s) else .ok (y.retire s w.toNat)

end Sys2Proof.Machine
end

