-- ==== Sys2Proof/Machine/Vector.lean ====
section
/-! DEFINITION. V words that compute: arithmetic, comparison, selection, conversion, error feedback, functions, reductions,
tags and the k registers (R240 to R251). -/

namespace Sys2Proof.Machine

/-! ## Floating point (R240) -/

def fopd (x : Nat × Tag) : Opd := opd .fp32 x.1 x.2

def execVadd (z : Bool) (w : BitVec 3) (d a b : BitVec 5) (m : BitVec 3) (r : Rm) (s : State) : Host.Outcome State Fault Refusal :=
  laneWord s w (vectorUse (.vadd z w d a b m r)) d m 4 true fun o g => fpAdd .fp32 r g (fopd (o 0)) (fopd (o 1))
def execVsub (z : Bool) (w : BitVec 3) (d a b : BitVec 5) (m : BitVec 3) (r : Rm) (s : State) : Host.Outcome State Fault Refusal :=
  laneWord s w (vectorUse (.vsub z w d a b m r)) d m 4 true fun o g => fpSub .fp32 r g (fopd (o 0)) (fopd (o 1))
def execVmul (z : Bool) (w : BitVec 3) (d a b : BitVec 5) (m : BitVec 3) (r : Rm) (s : State) : Host.Outcome State Fault Refusal :=
  laneWord s w (vectorUse (.vmul z w d a b m r)) d m 4 true fun o g => fpMul .fp32 r g (fopd (o 0)) (fopd (o 1))
def execVfma (z : Bool) (w : BitVec 3) (d a b : BitVec 5) (m : BitVec 3) (r : Rm) (s : State) : Host.Outcome State Fault Refusal :=
  laneWord s w (vectorUse (.vfma z w d a b m r)) d m 5 true fun o g => fpFma .fp32 r g false (fopd (o 0)) (fopd (o 1)) (fopd (o 2))
def execVfms (z : Bool) (w : BitVec 3) (d a b : BitVec 5) (m : BitVec 3) (r : Rm) (s : State) : Host.Outcome State Fault Refusal :=
  laneWord s w (vectorUse (.vfms z w d a b m r)) d m 5 true fun o g => fpFma .fp32 r g true (fopd (o 0)) (fopd (o 1)) (fopd (o 2))
def execVmin (z : Bool) (w : BitVec 3) (d a b : BitVec 5) (m : BitVec 3) (s : State) : Host.Outcome State Fault Refusal :=
  laneWord s w (vectorUse (.vmin z w d a b m)) d m 4 false fun o => minMaxRes false .fp32 (o 0) (o 1)
def execVmax (z : Bool) (w : BitVec 3) (d a b : BitVec 5) (m : BitVec 3) (s : State) : Host.Outcome State Fault Refusal :=
  laneWord s w (vectorUse (.vmax z w d a b m)) d m 4 false fun o => minMaxRes true .fp32 (o 0) (o 1)
def execVabs (z : Bool) (w : BitVec 3) (d a : BitVec 5) (m : BitVec 3) (s : State) : Host.Outcome State Fault Refusal :=
  laneWord s w (vectorUse (.vabs z w d a m)) d m 4 false fun o => signRes absCode (o 0)
def execVneg (z : Bool) (w : BitVec 3) (d a : BitVec 5) (m : BitVec 3) (s : State) : Host.Outcome State Fault Refusal :=
  laneWord s w (vectorUse (.vneg z w d a m)) d m 4 false fun o => signRes negCode (o 0)

/-- A function of one value: the algorithm's result with the tag of R130's function rule. -/
def funRes (f : Nat → Nat × Flags) (x : Nat × Tag) : W32 → Res :=
  let o := fopd x
  let (c, g) := f x.1
  fun sr => ⟨c, funTag o.tag o.p (decodeNum .fp32 c), g, sr⟩
def execVrcp (z : Bool) (w : BitVec 3) (d a : BitVec 5) (m : BitVec 3) (s : State) : Host.Outcome State Fault Refusal :=
  laneWord s w (vectorUse (.vrcp z w d a m)) d m 12 true fun o => funRes vrcp32 (o 0)
def execVrsq (z : Bool) (w : BitVec 3) (d a : BitVec 5) (m : BitVec 3) (s : State) : Host.Outcome State Fault Refusal :=
  laneWord s w (vectorUse (.vrsq z w d a m)) d m 12 true fun o => funRes vrsq32 (o 0)
def execVexp2 (z : Bool) (w : BitVec 3) (d a : BitVec 5) (m : BitVec 3) (s : State) : Host.Outcome State Fault Refusal :=
  laneWord s w (vectorUse (.vexp2 z w d a m)) d m 12 true fun o => funRes vexp232 (o 0)
def execVlog2 (z : Bool) (w : BitVec 3) (d a : BitVec 5) (m : BitVec 3) (s : State) : Host.Outcome State Fault Refusal :=
  laneWord s w (vectorUse (.vlog2 z w d a m)) d m 12 true fun o => funRes vlog232 (o 0)

/-! ## Integers (R241) -/

/-- A 32-bit operation on lanes. -/
def laneInt (f : W32 → W32 → W32) (o : Nat → Nat × Tag) : W32 → Res :=
  pureRes (f (BitVec.ofNat 32 (o 0).1) (BitVec.ofNat 32 (o 1).1)).toNat 31
def execViadd (z : Bool) (w : BitVec 3) (d a b : BitVec 5) (m : BitVec 3) (s : State) : Host.Outcome State Fault Refusal :=
  laneWord s w (vectorUse (.viadd z w d a b m)) d m 4 false (laneInt (· + ·))
def execVisub (z : Bool) (w : BitVec 3) (d a b : BitVec 5) (m : BitVec 3) (s : State) : Host.Outcome State Fault Refusal :=
  laneWord s w (vectorUse (.visub z w d a b m)) d m 4 false (laneInt (· - ·))
def execVimul (z : Bool) (w : BitVec 3) (d a b : BitVec 5) (m : BitVec 3) (s : State) : Host.Outcome State Fault Refusal :=
  laneWord s w (vectorUse (.vimul z w d a b m)) d m 4 false (laneInt (· * ·))
def execVand (z : Bool) (w : BitVec 3) (d a b : BitVec 5) (m : BitVec 3) (s : State) : Host.Outcome State Fault Refusal :=
  laneWord s w (vectorUse (.vand z w d a b m)) d m 2 false (laneInt (· &&& ·))
def execVor (z : Bool) (w : BitVec 3) (d a b : BitVec 5) (m : BitVec 3) (s : State) : Host.Outcome State Fault Refusal :=
  laneWord s w (vectorUse (.vor z w d a b m)) d m 2 false (laneInt (· ||| ·))
def execVxor (z : Bool) (w : BitVec 3) (d a b : BitVec 5) (m : BitVec 3) (s : State) : Host.Outcome State Fault Refusal :=
  laneWord s w (vectorUse (.vxor z w d a b m)) d m 2 false (laneInt (· ^^^ ·))
def execVshl (z : Bool) (w : BitVec 3) (d a b : BitVec 5) (m : BitVec 3) (s : State) : Host.Outcome State Fault Refusal :=
  laneWord s w (vectorUse (.vshl z w d a b m)) d m 2 false (laneInt (fun x y => x <<< (y.toNat % 32)))
def execVshr (z : Bool) (w : BitVec 3) (d a b : BitVec 5) (m : BitVec 3) (s : State) : Host.Outcome State Fault Refusal :=
  laneWord s w (vectorUse (.vshr z w d a b m)) d m 2 false (laneInt (fun x y => x >>> (y.toNat % 32)))
def execVsra (z : Bool) (w : BitVec 3) (d a b : BitVec 5) (m : BitVec 3) (s : State) : Host.Outcome State Fault Refusal :=
  laneWord s w (vectorUse (.vsra z w d a b m)) d m 2 false (laneInt (fun x y => x.sshiftRight (y.toNat % 32)))

/-! ## Comparison, selection, permutation (R242) -/

/-- A comparison of two lanes as FP32. -/
def vcond (c : VCond) (x y : Num) : Bool :=
  let nan := x.isNan || y.isNan
  match c with
  | .eq => !nan && x.eqv y
  | .ne => nan || !x.eqv y
  | .lt => !nan && x.lt y
  | .le => !nan && !y.lt x
  | .gt => !nan && y.lt x
  | .ge => !nan && !x.lt y
  | .unord => nan
  | .ord => !nan

/-- A mask of the lanes that satisfy a test. -/
def maskOf (p : Nat → Bool) : W64 := BitVec.ofNat 64 ((List.range 64).foldl (fun v i => if p i then v + 2 ^ i else v) 0)

def execVcmp (z : Bool) (w : BitVec 3) (d : BitVec 3) (a b : BitVec 5) (m : BitVec 3) (c : VCond) (s : State) :
    Host.Outcome State Fault Refusal :=
  issueWord s (vectorUse (.vcmp z w d a b m c)) fun y =>
    let mask := y.mask m
    let v := maskOf fun i => mask.getLsbD i && vcond c (v32 (y.op 0 i).1) (v32 (y.op 1 i).1)
    .ok (y.retire (y.pend y.s (mPlace y.u d) (.word v) 3) w.toNat)

/-- Lanes moved with their tags into the active lanes of vd. -/
def moveWord (s : State) (w : BitVec 3) (x : VUse) (d : BitVec 5) (lat : Nat) (mask : VIssue → W64)
    (f : VIssue → Nat → Nat × Tag) : Host.Outcome State Fault Refusal :=
  issueWord s x fun y =>
    .ok (y.retire (y.putV y.s d (mask y) ((List.range 64).map (f y)) lat) w.toNat)

/-- VSEL: MASK selects, and every lane is written. -/
def execVsel (z : Bool) (w : BitVec 3) (d a b : BitVec 5) (m : BitVec 3) (s : State) : Host.Outcome State Fault Refusal :=
  moveWord s w (vectorUse (.vsel z w d a b m)) d 2 (fun _ => BitVec.allOnes 64) fun y i =>
    if (y.mask m).getLsbD i then y.op 0 i else y.op 1 i
def execVperm (w : BitVec 3) (d a b : BitVec 5) (m : BitVec 3) (s : State) : Host.Outcome State Fault Refusal :=
  moveWord s w (vectorUse (.vperm w d a b m)) d 3 (fun y => y.mask m) fun y i => y.op 0 ((y.op 1 i).1 % 64)

/-! ## Conversion and error feedback (R243, R244) -/

/-- VCVT of one lane: the narrowed value is held as the lane value that equals it. -/
def vcvtRes (e : ElemType) (r : Rm) (x : Nat × Tag) (sr : W32) : Res :=
  if e = .fp32 then
    let (c, f, g) := roundSr .fp32 r sr (.ofInt (sext 32 x.1))
    ⟨c, 24, f, g⟩
  else
    let y := convert e .fp32 r sr x.1 (BitVec.ofNat 5 (fopd x).tag)
    { y with code := if ElemType.isFloat e then widen e y.code else wrapN 32 (intVal e y.code) }

def execVcvt (z : Bool) (w : BitVec 3) (d a : BitVec 5) (e : ElemType) (m : BitVec 3) (r : Rm) (s : State) :
    Host.Outcome State Fault Refusal :=
  if e = .cb3 then vectorWord s fun _ => .error (.trap .illegal 0 s)
  else laneWord s w (vectorUse (.vcvt z w d a e m r)) d m 4 (ElemType.isFloat e) fun o g => vcvtRes e r (o 0) g

/-- One lane of VEFB: the value, the residue, both with tags, flags and generator. -/
def efbLane (det ret : ElemType) (r : Rm) (x : Nat × Tag) (sr : W32) : Res × Res :=
  let o := fopd x
  let (q, f, g) := roundSr det r sr o.val
  let qv := decodeNum det q
  let qt := if qv.isInf || qv.isNan then 0 else min o.tag (precision det q)
  let (c, f2) : Nat × Flags := if o.val.isFinite then roundTo ret .rne 0 (exactAdd .rne o.val qv.negate).1 else (0, 0)
  let rv := decodeNum ret c
  let rt := min (addTag .fp32 o.val o.tag 24 qv 24 24 rv) (precision ret c)
  (⟨widen det q, qt, f, g⟩, ⟨widen ret c, rt, f2, g⟩)

def efbTypes (t : BitVec 8) : Option (ElemType × ElemType) :=
  match ElemType.ofCode (bits t.toNat 3 0), ElemType.ofCode (bits t.toNat 7 4) with
  | some det, some ret =>
    if [ElemType.bf16, .fp16, .e4m3, .e5m2, .m8, .fp4].elem det && [ElemType.fp32, .bf16, .fp16, .e4m3, .e5m2, .m8].elem ret
    then some (det, ret) else none
  | _, _ => none

/-- VEFB: two results, the value after 4 clk and the residue after 5. -/
def execVefb (z : Bool) (w : BitVec 3) (d a b : BitVec 5) (m : BitVec 3) (r : Rm) (s : State) :
    Host.Outcome State Fault Refusal :=
  if d = b then vectorWord s fun _ => .error (.trap .illegal 0 s)
  else issueWord s (vectorUse (.vefb z w d a b m r)) fun y =>
    match efbTypes y.d.efbt with
    | none => .error (.trap .illegal 0 s)
    | some (det, ret) =>
      let mask := y.mask m
      let rs := runMasked mask (fun i g => (efbLane det ret r (y.op 0 i) g).1) (s.num y.u).sr (List.range 64)
      let es := runMasked mask (fun i g => (efbLane det ret r (y.op 0 i) g).2) (s.num y.u).sr (List.range 64)
      let s := (y.putV (y.putV y.s d mask rs.lanes 4) b mask es.lanes 5).collect y.u (rs.flags ||| es.flags) rs.sr
      if s.lowLane y.u mask (rs.lanes) || s.lowLane y.u mask es.lanes then .error (.trap .sigThreshold 0 s)
      else .ok (y.retire s w.toNat)

/-! ## Reductions (R249) -/

/-- One level of the tree: an absent lane takes no part. -/
def redLevel (f : Nat × Tag → Nat × Tag → Res) : List (Option (Nat × Tag)) → List (Option (Nat × Tag)) × Flags
  | a :: b :: xs =>
    let (t, g) := redLevel f xs
    match a, b with
    | some x, some y => let r := f x y; (some (r.code, BitVec.ofNat 5 r.tag) :: t, r.flags ||| g)
    | none, y => (y :: t, g)
    | x, none => (x :: t, g)
  | xs => (xs, 0)
def redTree (f : Nat × Tag → Nat × Tag → Res) : Nat → List (Option (Nat × Tag)) → Option (Nat × Tag) × Flags
  | 0, xs => (xs.headD none, 0)
  | n + 1, xs =>
    let (ys, g) := redLevel f xs
    let (r, h) := redTree f n ys
    (r, g ||| h)

def redCombine (op : RedOp) (x y : Nat × Tag) : Res :=
  match op with
  | .sum => fpAdd .fp32 .rne 0 (fopd x) (fopd y)
  | .min => minMaxRes false .fp32 x y 0
  | .max => minMaxRes true .fp32 x y 0

def execVred (w : BitVec 3) (d a : BitVec 5) (m : BitVec 3) (f : RedOp) (s : State) : Host.Outcome State Fault Refusal :=
  issueWord s (vectorUse (.vred w d a m f)) fun y =>
    let mask := y.mask m
    let xs := (List.range 64).map fun i => if mask.getLsbD i then some ((y.op 0 i).1, BitVec.ofNat 5 (fopd (y.op 0 i)).tag) else none
    let (r, g) := redTree (redCombine f) 6 xs
    let v := r.getD (0, 24)
    let s := (y.putV y.s d (BitVec.allOnes 64) (List.replicate 64 v) 8).collect y.u g (s.num y.u).sr
    if f = .sum && s.sigLow y.u v.2.toNat then .error (.trap .sigThreshold 0 s) else .ok (y.retire s w.toNat)

/-! ## Tags (R250) -/

def clamp24 (t : Tag) : Nat := min t.toNat 24

def execVsigRead (w : BitVec 3) (d a : BitVec 5) (m : BitVec 3) (s : State) : Host.Outcome State Fault Refusal :=
  moveWord s w (vectorUse (.vsigRead w d a m)) d 2 (fun y => y.mask m) fun y i => (clamp24 (y.op 0 i).2, 31)
def execVsigWrite (w : BitVec 3) (d a b : BitVec 5) (m : BitVec 3) (s : State) : Host.Outcome State Fault Refusal :=
  moveWord s w (vectorUse (.vsigWrite w d a b m)) d 2 (fun y => y.mask m) fun y i =>
    ((y.op 0 i).1, BitVec.ofNat 5 (min (y.op 1 i).1 24))
/-- The least tag of the active lanes goes to every lane. -/
def execVsigMintag (w : BitVec 3) (d a : BitVec 5) (m : BitVec 3) (s : State) : Host.Outcome State Fault Refusal :=
  moveWord s w (vectorUse (.vsigMintag w d a m)) d 2 (fun _ => BitVec.allOnes 64) fun y _ =>
    ((List.range 64).foldl (fun t j => if (y.mask m).getLsbD j then min t (clamp24 (y.op 0 j).2) else t) 24, 31)
def execVssig (w : BitVec 3) (d a b : BitVec 5) (m : BitVec 3) (s : State) : Host.Outcome State Fault Refusal :=
  moveWord s w (vectorUse (.vssig w d a b m)) d 2 (fun y => y.mask m) fun y i =>
    ((y.op 0 i).1, BitVec.ofNat 5 (min (clamp24 (y.op 0 i).2) (clamp24 (y.op 1 i).2)))

/-! ## k registers (R251) -/

def execVbcast (w : BitVec 3) (d : BitVec 5) (k : BitVec 4) (s : State) : Host.Outcome State Fault Refusal :=
  moveWord s w (vectorUse (.vbcast w d k)) d 2 (fun _ => BitVec.allOnes 64) fun y _ => ((y.k k).toNat % 2 ^ 32, 31)
def execVmovk (w : BitVec 3) (d : BitVec 4) (l : BitVec 6) (a : BitVec 5) (s : State) : Host.Outcome State Fault Refusal :=
  issueWord s (vectorUse (.vmovk w d l a)) fun y =>
    if (match y.u with | .epi .. => decide (a.toNat ≥ 4) | _ => false) then .error (.trap .illegal 0 s)
    else .ok (y.retire (y.putK y.s d (BitVec.ofInt 64 (sext 32 (y.op 0 l.toNat).1)) 3) w.toNat)
def execKaddi (w : BitVec 3) (d a : BitVec 4) (i : BitVec 12) (s : State) : Host.Outcome State Fault Refusal :=
  issueWord s (vectorUse (.kaddi w d a i)) fun y =>
    .ok (y.retire (y.putK y.s d (y.k a + i.signExtend 64) 1) w.toNat)

end Sys2Proof.Machine
end

