-- ==== Sys2Proof/Machine/VectorMem.lean ====
section
/-! DEFINITION. V words that reach memory or steer the stream: loads and stores (R252 to R254), branches (R255), tokens,
promises and markers (R256), VSYS (R257), and the end of an epilogue (R259, R260). -/

namespace Sys2Proof.Machine

/-! ## Loads and stores -/

/-- The dense scratchpad of the issuer's cluster: the part of n bytes at an address, else SPACE; then ALIGN (R252). -/
def State.scratchPart (s : State) (u : UnitId) (a : W64) (n align : Nat) : Eff Part :=
  match s.resolve (s.who u) a n with
  | .ok (.inl (.scratch c o)) =>
    if c ≠ u.cl then .error (.trap .space a s)
    else if a.toNat % align ≠ 0 then .error (.trap .align a s)
    else .ok { place := .scratch c o, len := n, name := nameOf (s.who u) a, raw := a }
  | .error q => .error (.trap q a s)
  | .ok _ => .error (.trap .space a s)

/-- One element as a lane: floats widen, integers extend (R252). -/
def laneOfCode (e : ElemType) (c : Nat) : Nat × Tag :=
  if ElemType.isFloat e then (widen e c, fullTag e c) else (wrapN 32 (intVal e c), 31)
/-- One lane as an element: floats rounded RNE, integers their low bits (R252). -/
def codeOfLane (e : ElemType) (x : Nat × Tag) : Nat × Flags :=
  if e = .fp32 then (x.1, 0)
  else if ElemType.isFloat e then roundTo e .rne 0 (decodeNum .fp32 x.1)
  else (x.1 % 2 ^ ElemType.bits e, 0)
/-- All 64 lanes narrowed, with their flags. -/
def VIssue.narrow (y : VIssue) (n : Nat) (e : ElemType) : List Nat × Flags :=
  (List.range 64).foldl (fun (cs, f) i => let (c, g) := codeOfLane e (y.op n i); (cs ++ [c], f ||| g)) ([], 0)

/-- Bytes of 64 elements. -/
def rowBytes (e : ElemType) : Nat := 8 * ElemType.bits e
/-- The address of a VM word: k[K] + 256 * IMM8. -/
def VIssue.address (y : VIssue) (k : BitVec 4) (i : BitVec 8) : W64 := y.k k + BitVec.ofNat 64 (256 * i.toNat)
/-- The domain and type that a V store gives its blocks (R217). -/
def VIssue.writer (y : VIssue) (e : ElemType) : Writer := some (y.d.vdom.toNat, e)

/-- Read parts for a load; a poisoned granule is POISON, late, and vd keeps its value. -/
def VIssue.read (y : VIssue) (ps : List Part) : Eff (List Byte × State) :=
  match y.s.readParts (y.s.who y.u) ps with
  | .error q => .error q
  | .ok (bs, po, s) => if po then .error (.trap .poison 0 y.s) else .ok (bs, s)

def execVld (w : BitVec 3) (d : BitVec 5) (k : BitVec 4) (i : BitVec 8) (e : ElemType) (s : State) :
    Host.Outcome State Fault Refusal :=
  issueWord s (vectorUse (.vld w d k i e)) fun y =>
    if e = .cb3 then .error (.trap .illegal 0 s)
    else match y.s.scratchPart y.u (y.address k i) (rowBytes e) (ElemType.size e) with
      | .error q => .error q
      | .ok p => match y.read [p] with
        | .error q => .error q
        | .ok (bs, s) =>
          .ok (y.retire (y.putV s d (BitVec.allOnes 64) ((unpackCodes e bs).map (laneOfCode e)) 0) w.toNat)

def execVst (w : BitVec 3) (d : BitVec 5) (k : BitVec 4) (i : BitVec 8) (e : ElemType) (s : State) :
    Host.Outcome State Fault Refusal :=
  issueWord s (vectorUse (.vst w d k i e)) fun y =>
    if e = .cb3 then .error (.trap .illegal 0 s)
    else match y.s.scratchPart y.u (y.address k i) (rowBytes e) (ElemType.size e) with
      | .error q => .error q
      | .ok p =>
        let (cs, f) := y.narrow 0 e
        match y.s.writePart (y.s.who y.u) p (packCodes e cs) (y.writer e) with
        | .error q => .error q
        | .ok s => .ok (y.retire (s.collect y.u f (s.num y.u).sr) w.toNat)

/-- The parts of the 64 lane addresses, all checked before any is accessed (R253). -/
def VIssue.lanesAt (y : VIssue) (k : BitVec 4) (e : ElemType) : Nat → Nat → Eff (List Part)
  | 0, _ => .ok []
  | n + 1, i =>
    let a := y.k k + BitVec.ofInt 64 (sext 32 (y.op 0 i).1)
    match y.s.scratchPart y.u a (ElemType.size e) (ElemType.size e) with
    | .error q => .error q
    | .ok p => match y.lanesAt k e n (i + 1) with
      | .error q => .error q
      | .ok ps => .ok (p :: ps)

/-- Types of whole bytes, which VLDG and VSTS need. -/
def wholeBytes (e : ElemType) : Bool := e ≠ .cb3 && decide (ElemType.bits e ≥ 8)

def execVldg (w : BitVec 3) (d a : BitVec 5) (k : BitVec 4) (e : ElemType) (s : State) : Host.Outcome State Fault Refusal :=
  issueWord s (vectorUse (.vldg w d a k e)) fun y =>
    if !wholeBytes e then .error (.trap .illegal 0 s)
    else match y.lanesAt k e 64 0 with
      | .error q => .error q
      | .ok ps => match y.read ps with
        | .error q => .error q
        | .ok (bs, s) =>
          .ok (y.retire (y.putV s d (BitVec.allOnes 64) ((unpackCodes e bs).map (laneOfCode e)) 0) w.toNat)

/-- VSTS: lanes in ascending order, so the higher lane's value stands. -/
def execVsts (w : BitVec 3) (d a : BitVec 5) (k : BitVec 4) (e : ElemType) (s : State) : Host.Outcome State Fault Refusal :=
  issueWord s (vectorUse (.vsts w d a k e)) fun y =>
    if !wholeBytes e then .error (.trap .illegal 0 s)
    else match y.lanesAt k e 64 0 with
      | .error q => .error q
      | .ok ps =>
        let (cs, f) := y.narrow 1 e
        match y.s.writeParts (y.s.who y.u) (y.writer e) ps (packCodes e cs) with
        | .error q => .error q
        | .ok s => .ok (y.retire (s.collect y.u f (s.num y.u).sr) w.toNat)

/-- Data and tag parts of a tagged access of 64 words, both checked first (R133, R254). -/
def VIssue.tagged (y : VIssue) (a : W64) : Eff (Part × Part) :=
  match y.s.scratchPart y.u a 256 4 with
  | .error q => .error q
  | .ok p => match tagAddr (y.s.num y.u).tagbase a with
    | none => .error (.trap .space a y.s)
    | some t => match y.s.scratchPart y.u t 64 1 with
      | .error q => .error q
      | .ok q => .ok (p, q)

def execVstt (w : BitVec 3) (d : BitVec 5) (k : BitVec 4) (i : BitVec 8) (e : ElemType) (s : State) :
    Host.Outcome State Fault Refusal :=
  issueWord s (vectorUse (.vstt w d k i e)) fun y =>
    if e ≠ .fp32 then .error (.trap .illegal 0 s)
    else match y.tagged (y.address k i) with
      | .error q => .error q
      | .ok (p, t) =>
        let w0 := y.s.who y.u
        match y.s.writePart w0 p (packCodes .fp32 ((List.range 64).map fun i => (y.op 0 i).1)) (y.writer e) with
        | .error q => .error q
        | .ok s => match s.writePart w0 t ((List.range 64).map fun i => byteOfTag (y.op 0 i).2) none with
          | .error q => .error q
          | .ok s => .ok (y.retire s w.toNat)

def execVldt (w : BitVec 3) (d : BitVec 5) (k : BitVec 4) (i : BitVec 8) (e : ElemType) (s : State) :
    Host.Outcome State Fault Refusal :=
  issueWord s (vectorUse (.vldt w d k i e)) fun y =>
    if e ≠ .fp32 then .error (.trap .illegal 0 s)
    else match y.tagged (y.address k i) with
      | .error q => .error q
      | .ok (p, t) => match y.read [p, t] with
        | .error q => .error q
        | .ok (bs, s) =>
          let tags := bs.drop 256
          let ls := ((List.range 64).zip (unpackCodes .fp32 (bs.take 256))).map fun (i, c) => (c, tagOfByte (tags.getD i 0))
          .ok (y.retire (y.putV s d (BitVec.allOnes 64) ls 0) w.toNat)

/-! ## Branches and loops (R255) -/

/-- VBR: the flags of k compared with zero. -/
def execVbr (w : BitVec 3) (k : BitVec 4) (c : Cond) (o : BitVec 12) (s : State) : Host.Outcome State Fault Refusal :=
  issueWord s (vectorUse (.vbr w k c o)) fun y =>
    let v := y.k k
    y.s.branch y.u (c.holds { z := v == 0, n := v.getLsbD 63, c := true, v := false })
      (branchTarget (s.pc y.u) 12 o) (w.toNat + y.delay)

def execVjmp (w : BitVec 3) (o : BitVec 21) (s : State) : Host.Outcome State Fault Refusal :=
  vectorWord s fun u => s.jumpTo u (branchTarget (s.pc u) 21 o) w.toNat

/-- VLOOP: a target that faults leaves k unwritten. -/
def execVloop (w : BitVec 3) (k : BitVec 4) (o : BitVec 16) (s : State) : Host.Outcome State Fault Refusal :=
  issueWord s (vectorUse (.vloop w k o)) fun y =>
    let v := y.k k - 1
    match y.s.branch y.u (v != 0) (branchTarget (s.pc y.u) 16 o) (w.toNat + y.delay) with
    | .error q => .error q
    | .ok t => .ok (y.putK t k v 1)

/-! ## Tokens, promises, markers (R256) -/

/-- A word of the compute stream that an epilogue does not have. -/
def streamWord (s : State) (f : UnitId → Eff State) : Host.Outcome State Fault Refusal :=
  match s.cur with
  | .compute c => .next (s.settle s.cur (f (.compute c)))
  | u => .next (s.raise u .illegal 0)

def execVWaitp (w : BitVec 3) (p : BitVec 3) (s : State) : Host.Outcome State Fault Refusal :=
  streamWord s fun u => s.waitp u p.toNat w.toNat
def execVTsend (w : BitVec 3) (n : BitVec 8) (q : BitVec 3) (s : State) : Host.Outcome State Fault Refusal :=
  streamWord s fun u => s.tsend u q.toNat n.toNat w.toNat
def execVTwait (w : BitVec 3) (n : BitVec 8) (q : BitVec 3) (s : State) : Host.Outcome State Fault Refusal :=
  streamWord s fun u => s.twait u q.toNat n.toNat w.toNat
def execVMark (w : BitVec 3) (m : BitVec 8) (s : State) : Host.Outcome State Fault Refusal :=
  streamWord s fun u => .ok ((s.mark (some u) u.cl (s.launchId u) m.toNat).retire u w.toNat)

/-! ## VSYS (R257) -/

def execVsysTrap (_w : BitVec 3) (s : State) : Host.Outcome State Fault Refusal :=
  match s.cur with
  | .compute c => .next (s.raise (.compute c) .trap 0)
  | .epi c e => .next (s.raise (.epi c e) .trap 0)
  | u => .next (s.raise u .illegal 0)
def execVsysTret (w : BitVec 3) (s : State) : Host.Outcome State Fault Refusal :=
  match s.cur with
  | .compute c => .next (s.returnTrap (.compute c) w.toNat)
  | u => .next (s.raise u .illegal 0)
def execVsysCrr (w : BitVec 3) (d : BitVec 4) (r : BitVec 10) (s : State) : Host.Outcome State Fault Refusal :=
  issueWord s (vectorUse (.vsysCrr w d r)) fun y =>
    match y.s.readCr y.u r.toNat with
    | .error q => .error q
    | .ok v => .ok (y.retire (y.putK y.s d (BitVec.ofNat 64 v) 0) w.toNat)
/-- VSYS.CRW: in an epilogue every CRW is ILLEGAL, as R257 has it, so an epilogue does not write its SRSTATE although R127 says that
epilogues read and write it (DESIGN CHOICE, log 96). -/
def execVsysCrw (w : BitVec 3) (k : BitVec 4) (r : BitVec 10) (s : State) : Host.Outcome State Fault Refusal :=
  match s.cur with
  | .epi .. => .next (s.raise s.cur .illegal 0)
  | _ => issueWord s (vectorUse (.vsysCrw w k r)) fun y =>
    match y.s.writeCr y.u r.toNat (y.k k).toNat with
    | .error q => .error q
    | .ok s => .ok (y.retire s w.toNat)
def execVsysTime (w : BitVec 3) (d : BitVec 4) (s : State) : Host.Outcome State Fault Refusal :=
  issueWord s (vectorUse (.vsysTime w d)) fun y =>
    .ok (y.retire (y.putK y.s d (BitVec.ofNat 64 (s.time % 2 ^ 56)) 0) w.toNat)

/-! ## The end of an epilogue (R259, R260) -/

/-- A word that only an epilogue has. -/
def epilogueWord (s : State) (f : Nat → Nat → Eff State) : Host.Outcome State Fault Refusal :=
  match s.cur with
  | .epi c e => .next (s.settle s.cur (f c e))
  | u => .next (s.raise u .illegal 0)

/-- EPOUT: the row's bytes, and its tags, into its drain buffer entry; a second one is ILLEGAL. -/
def execEpout (w : BitVec 3) (a : BitVec 5) (e : ElemType) (s : State) : Host.Outcome State Fault Refusal :=
  epilogueWord s fun cl c =>
    match s.vissue (.epi cl c) (vectorUse (.epout w a e)) with
    | .error q => .error q
    | .ok y =>
      let x := (s.dense cl).epiCtx c
      let tagged := match (s.dense cl).drain.find? fun r => r.id == x.row with
        | some r => fmtDtag r.fmt
        | none => false
      if e = .cb3 || x.outDone || (tagged && e ≠ .fp32) then .error (.trap .illegal 0 s)
      else
        let (cs, f) := y.narrow 0 e
        let tags := (List.range 64).map fun i => byteOfTag (y.op 0 i).2
        let s := y.s.onDense cl fun d =>
          { d.setEpi c { d.epiCtx c with outDone := true } with
            drain := d.drain.map fun r => if r.id = x.row then { r with bytes := packCodes e cs, tags := tags, et := ElemType.code e } else r }
        .ok (y.retire (s.collect y.u f (s.num y.u).sr) w.toNat)

/-- EPIRET: the context is free and its row ready for release. -/
def execEpiret (w : BitVec 3) (s : State) : Host.Outcome State Fault Refusal :=
  epilogueWord s fun cl c =>
    let row := ((s.dense cl).epiCtx c).row
    let s := s.onDense cl fun d =>
      { d.setEpi c { d.epiCtx c with live := false } with
        drain := d.drain.map fun r => if r.id = row then { r with state := 2 } else r }
    .ok (s.retire (.epi cl c) w.toNat)

end Sys2Proof.Machine
end

