-- ==== Sys2Proof/Machine/WaitEvents.lean ====
section
/-! DEFINITION. A sleeping word finds what it waits for (R78, R86, R90, R189 to R191, R205, R237, R285): it does at that moment
what the same word does at issue. -/

namespace Sys2Proof.Machine

/-- The word that a unit sleeps on, when its wait is of the kind that an event ends. -/
def State.sleeping (s : State) (u : UnitId) (kind : Wait → Bool) : Option Instr :=
  if !(s.canIssue u && kind (s.wait u)) then none
  else match s.fetch u with
    | .ok (w, _) => (decodeWord (streamOf u) w).toOption
    | .error _ => none

/-- The words that sleep on a promise. -/
def waitpAgain (s : State) : Host.Outcome State Fault Refusal :=
  match s.sleeping s.arg.u fun w => match w with | .promise _ | .stat _ => true | _ => false with
  | some (.lWaitp p) => execLWaitp p s
  | some (.sWaitp w p) => execSWaitp w p s
  | some (.cWaitp w) => execCWaitp w s
  | some (.vWaitp w p) => execVWaitp w p s
  | _ => .next s

/-- PROMISE_EXPIRY: the unit's promise is reached before DONE: PROMISE_MISSED. -/
def execPromiseExpiry (s : State) : Host.Outcome State Fault Refusal := waitpAgain s
/-- WAITP_COMPLETE. -/
def execWaitpComplete (s : State) : Host.Outcome State Fault Refusal := waitpAgain s

/-- TOKEN_WAIT_COMPLETE. -/
def execTokenWaitComplete (s : State) : Host.Outcome State Fault Refusal :=
  match s.sleeping s.arg.u fun w => match w with | .token .. => true | _ => false with
  | some (.sTwait w q n) => execSTwait w q n s
  | some (.cTwait q n) => execCTwait q n s
  | some (.vTwait w n q) => execVTwait w n q s
  | _ => .next s

/-- WAITC_COMPLETE. -/
def execWaitcComplete (s : State) : Host.Outcome State Fault Refusal :=
  match s.sleeping s.arg.u fun w => match w with | .counter .. => true | _ => false with
  | some (.waitc k n) => execWaitc k n s
  | _ => .next s

/-- WAITT_EXPIRY. -/
def execWaittExpiry (s : State) : Host.Outcome State Fault Refusal :=
  match s.sleeping s.arg.u fun w => match w with | .untilTime _ => true | _ => false with
  | some (.waitt n) => execWaitt n s
  | _ => .next s

/-- CFENCE_COMPLETE: a CFENCE, a HALT, or a stream that was run off (R17). -/
def execCfenceComplete (s : State) : Host.Outcome State Fault Refusal :=
  let u := s.arg.u
  match s.wait u with
  | .fence _ =>
    if s.canIssue u && decide ((s.pc u).toNat ≥ s.streamLen u) then .next (s.runOff u)
    else match s.sleeping u fun _ => true with
      | some .cfence => execCfence s
      | some .cHalt => execCHalt s
      | _ => .next s
  | _ => .next s

/-- MSYNC_COMPLETE. -/
def execMsyncComplete (s : State) : Host.Outcome State Fault Refusal :=
  match s.sleeping s.arg.u fun w => match w with | .msync _ => true | _ => false with
  | some (.msync w) => execMsync w s
  | _ => .next s

/-- WFE_WAKE. -/
def execWfeWake (s : State) : Host.Outcome State Fault Refusal :=
  match s.sleeping s.arg.u fun w => match w with | .wfe => true | _ => false with
  | some (.sysWfe w) => execSysWfe w s
  | _ => .next s

/-- EPOCH_ADVANCE. -/
def execEpochAdvance (s : State) : Host.Outcome State Fault Refusal :=
  match s.sleeping s.arg.u fun w => match w with | .epoch _ => true | _ => false with
  | some (.tepoch t) => execTepoch t s
  | _ => .next s

/-- VARIABLE_RESULT_LANDING: result `a` outstanding for the unit, whose data have come, is in its register. -/
def execVariableResultLanding (s : State) : Host.Outcome State Fault Refusal :=
  let u := s.arg.u
  .next (match (s.pendOf u)[s.arg.a]? with
    | none => s
    | some p =>
      if p.waiting then s
      else match u with
        | .sup n => s.onSup n fun x => Sup.land { x with pend := x.pend.set s.arg.a { p with due := some s.time } } s.time
        | u => s.onDense u.cl fun d => Dense.land { d with pend := d.pend.set s.arg.a { p with due := some s.time } } s.time)

/-- UNASSIGNED_OPCODE: ILLEGAL at the unit that issued the word (R14). -/
def execUnassignedOpcode (s : State) : Host.Outcome State Fault Refusal := .next (s.raise s.arg.u .illegal 0)

end Sys2Proof.Machine
end

