-- ==== Sys2Proof/Machine/HostEvents.lean ====
section
/-! DEFINITION. The host ports: packets and their acknowledgement (R388 to R392), answers to the device's own reads, event
notices of links (R393), and device time (R394). -/

namespace Sys2Proof.Machine

/-! ## Packets (R389, R390) -/

structure Packet where
  type : Nat
  seq : Nat
  addr : Nat
  aux : Nat
  ackreq : Bool
  rel : Bool
  payload : List Byte
  port : Nat
  source : Nat

/-- A well-formed packet: version 1, a type of R390, reserved fields zero, LEN as the datagram has it. -/
def Packet.ofDatagram (d : Datagram) : Option Packet :=
  let w0 := field d.bytes 0 4
  let w5 := field d.bytes 0x14 4
  let ty := bits w0 23 16
  if d.bytes.length < 24 || bits w0 31 24 != 1 || ty == 0 || ty > 8 || bits w0 15 13 != 0 || bits w5 31 2 != 0 ||
      bits w0 12 0 != d.bytes.length - 24 || bits w0 12 0 > 4096 then none
  else some
    { type := ty, seq := field d.bytes 4 4, addr := field d.bytes 8 8, aux := field d.bytes 0x10 4, ackreq := bits w5 0 0 == 1
      rel := bits w5 1 1 == 1 && ty == 2
      payload := d.bytes.drop 24, port := d.port, source := d.source }

def Packet.req (p : Packet) : PortReq :=
  { dev := none, port := p.port, seq := p.seq, ack := p.ackreq, who := p.source, rel := p.rel }

def State.sendAck (s : State) (p : Packet) : State :=
  s.sendHost { type := 5, seq := 0, addr := 0, aux := p.seq, payload := [], port := p.port, dest := some p.source }
def State.sendNack (s : State) (p : Packet) (reason : Nat) : State := s.answerNack p.req reason

/-- Has a packet's SEQ been accepted from its source (R391)? -/
def State.accepted (s : State) (p : Packet) : Bool := s.sources.any fun x => x.who == p.source && x.seqs.elem p.seq
/-- Keep a SEQ among the last 64 of its source, and the source among the last 256. -/
def State.noteSeq (s : State) (p : Packet) : State :=
  let old := (s.sources.find? fun x => x.who == p.source).map (·.seqs)
  { s with sources := (({ who := p.source, seqs := (p.seq :: old.getD []).take 64 } : Source) ::
      s.sources.filter fun x => x.who != p.source).take 256 }

/-- A datagram of a type at the host port: others are not this event; a malformed one is counted; one accepted before is only
acknowledged again, or, where its access is not performed yet, left to that access's own answer; `f` answers an error where it
refuses the packet with a reason. -/
def State.hostPacket (s : State) (type : Nat) (f : Packet → Except Nat State) : State :=
  let d := s.arg.d
  if d.udp ≠ s.hostUdp || !s.powered then s
  else match Packet.ofDatagram d with
    | none => { s with hostDrop := s.hostDrop + 1 }
    | some p =>
      if p.type ≠ type then s
      else if s.accepted p then (if s.serving p.req then s else s.sendAck p)
      else match f p with
        | .error r => s.sendNack p r
        | .ok t => t.noteSeq p

def reasonQfull : Nat := 1
def reasonFormat : Nat := 6

/-! ## Requests -/

/-- A launch record joins its queue, at the memory place `at'` (R336). -/
def State.addLaunch (s : State) (q : Nat) (bs : List Byte) (at' : Nat) : State :=
  let bytes := patchBytes bs 0x10 (leBytes 8 (setBits (field bs 0x10 8) 37 32 q))
  let l : Launch :=
    { id := s.nextLaunch, bytes := bytes, queue := q, arrival := s.nextLaunch, recAddr := BitVec.ofNat 64 at'
      g := (List.range 8).map fun i => (i, bytesW64 bs (0x40 + 8 * i))
      failCause := if recordOk bs then none else some .descriptor }
  let s := match s.store (launchUnit l) (hbmAddr at') bytes with
    | .ok t => t.drain (launchUnit l)
    | .error _ => s
  { s with launches := s.launches ++ [l], nextLaunch := s.nextLaunch + 1 }

/-- LAUNCH: `addr` is the DVA at which the device keeps the record. -/
def execLaunch (s : State) : Host.Outcome State Fault Refusal :=
  .next (s.hostPacket 1 fun p =>
    if !s.ready then .error nackBusy
    else if p.payload.length ≠ 128 ∨ p.aux > 63 ∨ p.addr ≠ 0 then .error reasonFormat
    else if (s.launches.filter fun l => l.state == .waiting && l.queue == p.aux).length ≥ 256 then .error reasonQfull
    else .ok ((s.addLaunch p.aux p.payload s.arg.addr.toNat).sendAck p))

/-- A packet's access: held behind a release of its source, refused, parked, or performed and answered. -/
def State.hostAccess (s : State) (p : Packet) (op : PortOp) : Except Nat State :=
  if s.mustHold p.req then .ok { s with hostHeld := s.hostHeld ++ [{ src := p.req, dva := p.addr, op := op }] }
  else match s.portTurn p.req p.addr op with
  | .nack r => .error r
  | .park h f => .ok (s.parkAt h (.port f p.req p.addr op)).1
  | .go ps => .ok (s.portPerform p.req p.addr op ps)

/-- MEMWR. -/
def execMemwr (s : State) : Host.Outcome State Fault Refusal :=
  .next (s.hostPacket 2 fun p => if p.aux ≠ 0 then .error reasonFormat else s.hostAccess p (.write p.payload))

/-- MEMRD. -/
def execMemrd (s : State) : Host.Outcome State Fault Refusal :=
  .next (s.hostPacket 3 fun p =>
    if p.aux = 0 ∨ p.aux > 4096 ∨ !p.payload.isEmpty then .error reasonFormat else s.hostAccess p (.read p.aux))

/-- WINDOW: opens or closes a host window (R392). -/
def execWindow (s : State) : Host.Outcome State Fault Refusal :=
  .next (s.hostPacket 8 fun p =>
    let len := field p.payload 0 8
    if p.payload.length ≠ 8 ∨ len % 4096 ≠ 0 ∨ p.addr % 4096 ≠ 0 ∨ bits p.aux 31 9 ≠ 0 ∨ bits p.aux 7 7 ≠ 0 then .error reasonFormat
    else
      let i := bits p.aux 3 0
      let w : Window :=
        if bits p.aux 6 6 = 1 then
          { isOpen := true, base := p.addr, len := len, r := bits p.aux 4 4 == 1, w := bits p.aux 5 5 == 1, port := bits p.aux 8 8 }
        else { Tab.get {} s.windows i with isOpen := false }
      let s := { s with windows := Tab.set s.windows i w }
      .ok (if p.ackreq then s.sendAck p else s))

/-! ## Answers to the device's own packets -/

/-- The data of an outstanding read have come: to the packet it serves, the register it loads, or the word that waits. -/
def State.finishRead (s : State) (r : ExtRead) (bs : List Byte) (poison : Bool) : State :=
  let s := { s with extReads := s.extReads.filter fun e => e.id != r.id }
  match r.serves, r.reg with
  | some q, _ => (match r.amo with
    | some _ => if poison then s.answerNack q (nackReason .poison) else s.answerData q (r.addr.toNat % 2 ^ 48) bs
    | none =>
      -- a part of a port's read: the access is made again with it (log 76)
      let d : Delivered := { addr := r.addr, bytes := bs, poison := poison }
      let s : State := { s with portJobs := s.portJobs.map fun (j : PortJob) => if j.req == q then { j with got := j.got ++ [d] } else j }
      match s.portJobs.find? fun (j : PortJob) => j.req == q with
      | some j => s.portAccess q j.dva j.op
      | none => s).resumeHosts
  | none, some x => s.finishLoad r.u x r.amo bs poison
  | none, none => s.deliver r.u { addr := r.addr, bytes := bs, poison := poison }

/-- The launch whose records a unit reads and writes. -/
def State.launchOfUnit (s : State) (e : Nat) : Option Launch := if e < 10 then none else s.launch? (e - 10)

/-- An access of an engine's operation, or of a launch's records, is refused by another device or the host: the operation is FAILED and
its node stops (R308); the launch fails. -/
def State.failEngine (s : State) (cl e : Nat) (c : Cause) (a : W64) : State :=
  match s.launchOfUnit e with
  | some l => (s.dropDelivered (.engine cl e)).retireLaunch l 2 c.code
  | none => if ((s.dense cl).engine e).busy then s.failOperation cl e c a else s

/-- The fill of a descriptor register is refused by the memory it reads: its node stops. -/
def State.copyFillFailed (s : State) (cl q : Nat) (c : Cause) (a : W64) : State :=
  let u : UnitId := if q = 4 then .load cl else .store cl
  s.stopUnit u (mkReport c u false 0 0 a)

/-- An outstanding read is refused: raised at its requester; a copy burst acts as R82 states, a register's load is reported as
R230 reports POISON (R396). -/
def State.failRead (s : State) (r : ExtRead) (c : Cause) : State :=
  if c = .poison then s.finishRead r [] true
  else
    let s := { s with extReads := s.extReads.filter fun e => e.id != r.id }
    match r.serves, r.reg with
    | some q, _ => (s.answerNack q (nackReason c)).resumeHosts
    | none, some x =>
      let waits (p : Pending) : Bool := decide (p.who = r.u ∧ p.dest = .s x) && p.waiting
      let pc := match (s.pendOf r.u).find? waits with | some p => p.pc | none => 0
      let s := match r.u with
        | .sup n => s.onSup n fun y => { y with pend := y.pend.filter fun p => !waits p }
        | u => s.onDense u.cl fun d => { d with pend := d.pend.filter fun p => !waits p }
      s.takeTrap r.u { cause := c, addr := r.addr, pc := pc, resume := pc }
    | none, none => match r.u with
      | .copy cl q => if r.cmd = 0 then s.copyFillFailed cl q c r.addr else s.refuseRead cl r c
      | .engine cl e => s.failEngine cl e c r.addr
      | u => (s.setWait u .none).raise u c r.addr

/-- A write that another device or the host refuses: a copy burst acts as R82 states, a packet's is refused in turn, an engine's or a
launch's fails it, and any other stops its node at the word that made it (R396). -/
def State.failWrite (s : State) (x : ExtWrite) (c : Cause) : State :=
  match x.f.serves with
  | some r => (s.answerNack r (nackReason c)).resumeHosts
  | none => match x.f.who with
    | .copy cl _ => s.refuseWrite cl x.f c
    | .engine cl e => s.failEngine cl e c x.f.name
    | .home _ | .ni _ | .port _ | .host => s
    | u => s.takeTrap u { cause := c, addr := x.f.name, src := u.src, pc := x.f.pc, resume := x.f.pc, seq := x.f.seq }

/-- The home of a write has performed it; a packet that it serves is answered with its last part. -/
def State.writeDone (s : State) (x : ExtWrite) : State :=
  let s := { s with extWrites := s.extWrites.erase x }
  if x.f.serves.isSome then s.answerServed.resumeHosts else s

/-- The outstanding write of host memory that a packet carried. -/
def State.hostWrite? (s : State) (p : Nat → Bool) : Option ExtWrite :=
  s.extWrites.find? fun e => p e.seq && match e.f.place with | .host _ => true | _ => false

/-- The cause of a NACK's reason: QFULL, BUSY and FORMAT name none. -/
def reasonCause : Nat → Option Cause
  | 2 => some .xlateMiss
  | 3 => some .xlatePerm
  | 4 => some .poison
  | _ => none

/-- The outstanding read of host memory with a number. -/
def State.hostRead? (s : State) (seq : Nat) : Option ExtRead :=
  s.extReads.find? fun e => e.seq == seq && match e.place with | .host _ => true | _ => false

/-- RDDATA: data for the MEMRD that AUX names. -/
def execRddata (s : State) : Host.Outcome State Fault Refusal :=
  .next (s.hostPacket 4 fun p =>
    match s.hostRead? p.aux with
    | none => .ok (if p.ackreq then s.sendAck p else s)
    | some r =>
      if p.payload.length ≠ r.len ∨ r.place ≠ .host p.addr then .error reasonFormat
      else
        let t := s.finishRead r p.payload false
        .ok (if p.ackreq then t.sendAck p else t))

/-- An ACK or a NACK has ADDR 0 and no payload (R390). -/
def Packet.bare (p : Packet) : Bool := p.addr == 0 && p.payload.isEmpty

/-- ACK: the packet that AUX names is acknowledged; a write it carried is performed (R392). -/
def execAck (s : State) : Host.Outcome State Fault Refusal :=
  .next (s.hostPacket 5 fun p => if !p.bare then .error reasonFormat else
    let s := { s with unacked := s.unacked.filter fun q => q.seq != p.aux }
    .ok (match s.hostWrite? (· == p.aux) with
      | some x => s.writeDone x
      | none => s))

/-- NACK: a refused read or write is raised at its requester, or made again when the reason names no cause. -/
def execNack (s : State) : Host.Outcome State Fault Refusal :=
  .next (s.hostPacket 6 fun p => if !p.bare then .error reasonFormat else
    let seq := p.aux / 256
    let cause := reasonCause (p.aux % 256)
    match s.extReads.find? fun e => e.seq % 2 ^ 24 == seq && match e.place with | .host _ => true | _ => false with
    | some r => match cause with
      | some c => .ok (s.failRead r c)
      | none =>
        let t := s.sendHost { type := 3, seq := 0, addr := (match r.place with | .host a => a | _ => 0), aux := r.len, payload := [], port := r.port }
        .ok { t with extReads := t.extReads.map fun e => if e.id = r.id then { e with seq := s.hostSeq } else e }
    | none => match s.hostWrite? fun n => n % 2 ^ 24 == seq with
      | none => .ok s
      | some x =>
        let s := { s with unacked := s.unacked.filter fun q => q.seq != x.seq }
        match cause with
        | some c => .ok ({ s with extWrites := s.extWrites.erase x }.failWrite x c)
        | none =>
          let t := s.sendHost { type := 2, seq := 0, addr := (match x.f.place with | .host a => a | _ => 0), aux := 0, payload := x.f.bytes
                                port := x.port, ackreq := true }
          .ok { t with extWrites := t.extWrites.map fun e => if e = x then { e with seq := s.hostSeq } else e })

/-- COMPLETION_RETRANSMIT: the unacknowledged packet numbered `a` is sent again. -/
def execCompletionRetransmit (s : State) : Host.Outcome State Fault Refusal :=
  .next (match s.unacked.find? fun q => q.seq == s.arg.a with
    | some q => { s with hostOut := q :: s.hostOut }
    | none => s)

/-! ## Time and links -/

/-- Bring-up ends when PTP locks: launches are taken, and a NODE_STOP notice with cause 0 reports readiness (R405). -/
def State.becomeReady (s : State) : State :=
  if s.ready || !s.powered then s
  else
    let (d, s) := { s with ready := true }.freeBytes 8
    s.notice 1 d (leBytes 8 ({} : StopReport).word0 ++ leBytes 8 ({} : StopReport).word1)

/-- PTP_MESSAGE: the master's time `v`. Before lock DEVNS may step forward once, and bring-up ends; after, only its rate is corrected, by at most
100 ppm, and the correction that the servo chooses is free (DESIGN CHOICE, log 4). -/
def execPtpMessage (s : State) : Host.Outcome State Fault Refusal :=
  .next (if !s.ptpLocked then State.becomeReady { s with ptpLocked := true, devns := if s.devns.ult s.arg.v then s.arg.v else s.devns }
    else
      let (bs, s) := s.freeBytes 1
      { s with ppm := (leNat bs % 201 : Int) - 100 })

/-- HOST_PORT_LINK_CHANGE: port `a` comes up (`yes`) or goes down; a LINK notice. -/
def execHostPortLinkChange (s : State) : Host.Outcome State Fault Refusal :=
  .next ({ s with portUp := s.portUp.set s.arg.a s.arg.yes }.noticeFree 5)

end Sys2Proof.Machine
end

