-- ==== Sys2Proof/Machine/FabricEvents.lean ====
section
/-! DEFINITION. The row fabric (R395 to R398): packets that arrive, their acknowledgement and refusal (R417), and what a
port does when none comes. -/

namespace Sys2Proof.Machine

/-! ## Arrival (R397) -/

/-! A packet that answers one of this device names, in `b`, the port that packet left by: sequence numbers are a port's (R397), and an
answer leaves by the port of the core that answers (R395; log 94). -/

/-- A packet's number, with the device whose port gave it. -/
def FabIn.key (f : FabIn) : Nat := f.seq * 65536 + f.dev.toNat

/-- A packet arrives by port `a`: one received before is only acknowledged again; `f` answers a reason where it refuses the
packet. A packet refused with BUSY is not received: it comes again (R61). -/
def State.fabricPacket (s : State) (f : PortReq → FabIn → State → Except Nat State) : State :=
  let p := s.arg.a
  let x := s.arg.f
  let r : PortReq := { dev := some x.dev, port := p, seq := x.seq }
  let hop (s : State) : State := (s.onPort p fun q => { q with seen := FabIn.key x :: q.seen }).sendFabric p x.dev (.ack x.seq 0)
  if p ≥ fabricPorts then s
  else if (Tab.get ({} : Port) s.ports p).seen.elem (FabIn.key x) then s.sendFabric p x.dev (.ack x.seq 0)
  else match f r x (hop s) with
    | .ok t => t
    | .error n => if n = nackBusy then s.answerNack r n else (hop s).answerNack r (if n = 6 then 2 else n)

/-! ## Rows (R396, R417) -/

/-- Where a row that a packet names lies: its home's place, with the state after the walk, or why it is refused. A row of another device, or across pages, is
XLATE_MISS; one in host memory is XLATE_PERM. -/
def State.portRow (s : State) (dva n : Nat) (perm : Perm) : Except Nat (Place × State) :=
  match s.rowPlace (.port 0) dva n perm with
  | .ok (.hbm a, _, s) => .ok (.hbm a, s)
  | .ok _ => .error 2
  | .error (.trap .xlatePerm ..) => .error 3
  | .error (.trap ..) => .error 2
  | .error _ => .error nackBusy

/-- A row job joins its home's queue of 64. -/
def State.takeRow (s : State) (j : RowJob) (perm : Perm) : Except Nat State :=
  match s.portRow j.dva j.rowb perm with
  | .error n => .error n
  | .ok (p, s) =>
    let j := { j with place := p }
    match j.home with
    | none => .error 2
    | some h =>
      if s.homeFull h then .error nackBusy
      else .ok ((s.onCore h fun c => { c with rowQ := c.rowQ ++ [{ j with id := s.nextId, acc := s.nextId }] }).stamp)

/-- The job of a row packet. -/
def FabIn.job (f : FabIn) (port : Nat) : RowJob :=
  { src := f.core, srcDev := f.dev, tbl := f.tbl, row := f.row, dva := f.dva, place := .hbm 0, rowb := f.rowb, tet := f.tet
    epoch := f.epoch, port := some port, seq := f.seq, requesters := f.requesters, merged := f.merged, reply := f.reply }

/-- ROWREQ. -/
def execRowreq (s : State) : Host.Outcome State Fault Refusal :=
  .next (s.fabricPacket fun r f s => s.takeRow (FabIn.job f r.port) .r)

/-- ROWACC: an accumulate, combined or not, or a SCATW; the flags of any combining travel with it (R333). -/
def execRowacc (s : State) : Host.Outcome State Fault Refusal :=
  .next (s.fabricPacket fun r f s => s.takeRow
    { FabIn.job f r.port with isOp := true, set := f.pet, write := f.write, payload := f.payload, parts := f.parts, flags := f.flags }
    (if f.write then .w else .rw))

/-- A row a core has asked another device for, that a ROWDATA answers, and that has not come yet. -/
def Core.awaited (c : Core) (f : FabIn) : Option RowJob :=
  let home : RowJob → Bool := fun j => match j.place with | .peer d _ => d == f.dev.toNat | _ => false
  c.rowReqs.find? fun j => j.port.isSome && home j && j.tbl == f.tbl && j.row == f.row && j.dva == f.dva && j.rowb == f.payload.length &&
    j.epoch == f.epoch && j.tet == f.tet && !c.landings.any fun l => l.job.id == j.id

/-- ROWDATA: the row waits to land at each listed requester of this device (R173, R334). -/
def execRowdata (s : State) : Host.Outcome State Fault Refusal :=
  .next (s.fabricPacket fun _ f s => .ok (f.requesters.foldl (fun s (d, k) =>
    if d ≠ Config.deviceNumber then s
    else match (s.core k).awaited f with
      | some j => s.onCore k fun c => { c with landings := c.landings ++ [{ job := j, bytes := f.payload, poison := f.poison }] }
      | none => s) s))

/-! ## Memory and messages -/

/-- The outstanding read that an answer on a port names. -/
def State.peerRead? (s : State) (port seq : Nat) : Option ExtRead :=
  s.extReads.find? fun e => e.seq == seq && e.port == port && match e.place with | .peer .. => true | _ => false

/-- An access that a packet asks for (R314, R199): its SYSTEM address is a DVA of this device. -/
def State.peerAccess (s : State) (r : PortReq) (dva : Nat) (op : PortOp) : Except Nat State :=
  match s.portTurn r dva op with
  | .nack n => .error n
  | .park h f => .ok (s.parkAt h (.port f r dva op)).1
  | .go ps => .ok (s.portPerform r dva op ps)

/-- The data of a read or an atomic that this device asked for. -/
def State.peerData (s : State) (port : Nat) (f : FabIn) : State :=
  match s.peerRead? port f.of with
  | some e => s.finishRead e f.payload (f.poison.any id)
  | none => s

/-- FABRIC_MEMRD: a request, or with `yes` the data that answer one. -/
def execFabricMemrd (s : State) : Host.Outcome State Fault Refusal :=
  .next (s.fabricPacket fun r f s =>
    if s.arg.yes then .ok (s.peerData s.arg.b f)
    else if f.len = 0 then .ok s
    else s.peerAccess r f.addr (.read f.len))

/-- The bytes of a packet's payload in granules whose poison bit is set (R376). -/
def FabIn.bad (f : FabIn) : List Nat := (List.range f.payload.length).filter fun o => f.poison.getD ((f.addr % 32 + o) / 32) false

/-- FABRIC_MEMWR. -/
def execFabricMemwr (s : State) : Host.Outcome State Fault Refusal :=
  .next (s.fabricPacket fun r f s => if f.payload.isEmpty then .ok s else s.peerAccess r f.addr (.write f.payload (FabIn.bad f)))

/-- ATOMIC: a request, or with `yes` the old value that answers one. One that no atomic has is left without effect. -/
def execAtomic (s : State) : Host.Outcome State Fault Refusal :=
  .next (s.fabricPacket fun r f s =>
    if s.arg.yes then .ok (s.peerData s.arg.b f)
    else match Aop.ofCode f.aop with
      | some op => if f.addr % (if f.wide then 8 else 4) = 0 then s.peerAccess r f.addr (.amo op f.wide f.v f.c) else .ok s
      | none => .ok s)

/-- MSG: delivered as a VN0 message, a reply as a VN1 one; a full request store is BUSY (R149), a core that is not there XLATE_MISS. Its
home acknowledges that it has accepted it (log 94). -/
def execMsg (s : State) : Host.Outcome State Fault Refusal :=
  .next (s.fabricPacket fun _ f s =>
    if f.dst ≥ 1024 || s.absent f.dst then .error 2
    else
      let m : Message :=
        { id := s.nextId, chan := f.chan, tag := f.tag, srcDev := f.dev, srcCore := f.core, dstDev := Config.deviceNumber
          dstCore := f.dst, payload := f.payload, vn1 := f.isReply, rq := f.rq, reply := f.reply, answers := f.isReply, poisoned := f.poison.any id }
      match s.stamp.receive m with
      | some t => .ok (t.sendBy f.dev f.dst (.ack f.seq 1))
      | none => .error nackBusy)

/-! ## Acknowledgement and refusal of what this device sent -/

/-- A packet sent on a port, by its number. -/
def Port.sent (x : Port) (n : Nat) : Option FabPkt :=
  (x.queue.find? fun q => q.seq == n).or (x.out.find? fun q => q.seq == n && !q.body.isAnswer)
def Port.drop (x : Port) (n : Nat) : Port := { x with queue := x.queue.filter fun q => q.seq != n }
/-- Send a packet again: it waits for its acknowledgement in its place. -/
def Port.again (x : Port) (q : FabPkt) : Port :=
  { x with
    out := q :: x.out
    queue := (x.queue.filter fun e => decide (e.seq < q.seq)) ++ q :: x.queue.filter fun e => decide (q.seq < e.seq) }

/-- Is a row job the one a packet carried? -/
def RowJob.sentAs (j : RowJob) (p n : Nat) : Bool := j.port == some p && j.seq == n

/-- A row operation's home has performed it, or refuses it: its place in the epoch's count is free; counters advance only for
parts performed (R174, R417). -/
def State.rowDone (s : State) (j : RowJob) (performed : Option Nat) : State :=
  let s := s.onCore j.src fun c => { c with rowOps := c.rowOps.filter fun e => e.id != j.id }
  match performed with
  | some n => s.rowAcked j.src j.tbl j.epoch.toNat j.counter n
  | none => s.rowAcked j.src j.tbl j.epoch.toNat none 1

/-- The outstanding write that a packet on a port carried. -/
def State.peerWrite? (s : State) (port seq : Nat) : Option ExtWrite :=
  s.extWrites.find? fun e => e.seq == seq && e.port == port && match e.f.place with | .peer .. => true | _ => false

/-- The home of a packet has performed what it carried: a row operation, a write; or accepted its message (log 94). -/
def State.homeDone (s : State) (p n parts : Nat) : State :=
  match s.cores.findSome? fun (_, c) => c.rowOps.find? fun j => j.sentAs p n with
  | some j => s.rowDone j (some parts)
  | none => match s.peerWrite? p n with
    | some x => s.writeDone x
    | none => { s with extMsgs := s.extMsgs.filter fun (q, k) => !(q == p && k.seq == n) }

/-- FABRIC_ACK: of the next hop, or with `yes` of the home that has performed what the packet asks. -/
def execFabricAck (s : State) : Host.Outcome State Fault Refusal :=
  let p := if s.arg.yes then s.arg.b else s.arg.a
  let f := s.arg.f
  let s := s.onPort p fun x => x.drop f.of
  .next (if s.arg.yes then s.homeDone p f.of f.parts else s)

/-- A refused row stops its requester's node: SRC 9, and an item record (R417). -/
def State.rowRefused (s : State) (j : RowJob) (c : Cause) : State :=
  let u : UnitId := .ni j.src
  (s.item j.src 9 (if j.isOp then 3 else 4) c.code (s.launchId u) j.who j.dest).stopUnit u (mkReport c u false 0 0 (BitVec.ofNat 64 (8 * 2 ^ 60 + j.dva)))

/-- What a refusal with a cause does to a packet this device sent on a port. -/
def State.refusedPacket (s : State) (p : Nat) (k : FabPkt) (c : Cause) : State :=
  let s := s.onPort p fun x => x.drop k.seq
  match k.body with
  | .rowReq j => match (s.core j.src).rowReqs.find? fun e => e.sentAs p k.seq with
    | some e => (s.onCore e.src fun x => { x with rowReqs := x.rowReqs.filter fun y => y.id != e.id }).rowRefused e c
    | none => s
  | .rowAcc j => match (s.core j.src).rowOps.find? fun e => e.sentAs p k.seq with
    | some e => (s.rowDone e none).rowRefused e c
    | none => s
  | .memRd .. | .atomic .. => match s.peerRead? p k.seq with
    | some e => s.failRead e c
    | none => s
  | .memWr .. => match s.peerWrite? p k.seq with
    | some x => { s with extWrites := s.extWrites.erase x }.failWrite x c
    | none => s
  | .msg m => { s with extMsgs := s.extMsgs.filter fun (q, e) => !(q == p && e.seq == k.seq) }.item m.srcCore 0 2 c.code (s.launchId (.ni m.srcCore)) m.who 0
  | _ => s

/-- FABRIC_NACK: a reason that names no cause sends the packet again. -/
def execFabricNack (s : State) : Host.Outcome State Fault Refusal :=
  let p := s.arg.b
  .next (match (Tab.get ({} : Port) s.ports p).sent s.arg.f.of with
    | none => s
    | some k => match reasonCause s.arg.f.reason with
      | some c => s.refusedPacket p k c
      | none => s.onPort p fun x => x.again k)

/-! ## Retransmission (R397) -/

/-- The source core whose place in a route list a packet takes (R395). -/
def FabPkt.core (k : FabPkt) : Nat :=
  match k.body with
  | .rowReq j | .rowAcc j => j.src
  | .memRd _ _ _ u | .memWr _ _ _ _ u | .atomic _ _ _ _ _ _ u => (UnitId.coord u).getD 0
  | .msg m => m.srcCore
  | .rowData js .. => (js.findSome? RowJob.home).getD 0
  | .data _ _ c => c
  | .ack .. | .nack .. => 0

/-- A packet leaves its port, which is down, by the next one of its route, under a number of that port; with none up it is
answered XLATE_MISS. -/
def State.movePacket (s : State) (p : Nat) (k : FabPkt) : State :=
  match s.routePort k.dev.toNat k.core with
  | none => s.refusedPacket p k .xlateMiss
  | some p' =>
    let n := (Tab.get ({} : Port) s.ports p').nextSeq
    let fix (j : RowJob) : RowJob := if j.sentAs p k.seq then { j with port := some p', seq := n } else j
    let body : FabBody := match k.body with
      | .rowReq j => .rowReq (fix j)
      | .rowAcc j => .rowAcc (fix j)
      | b => b
    let q : FabPkt := { k with seq := n, body := body, tries := 0 }
    let s := (s.onPort p fun x => x.drop k.seq).onPort p' fun x =>
      { x with queue := x.queue ++ [q], out := q :: x.out, nextSeq := n + 1 }
    let s := match k.body with
      | .rowReq j => s.onCore j.src fun c => { c with rowReqs := c.rowReqs.map fix }
      | .rowAcc j => s.onCore j.src fun c => { c with rowOps := c.rowOps.map fix }
      | _ => s
    let peer : Place → Bool
      | .peer .. => true
      | _ => false
    { s with
      extReads := s.extReads.map fun e => if e.seq = k.seq && e.port = p && peer e.place then { e with seq := n, port := p' } else e
      extWrites := s.extWrites.map fun e => if e.seq = k.seq && e.port = p && peer e.f.place then { e with seq := n, port := p' } else e
      extMsgs := s.extMsgs.map fun (r, e) => if r = p && e.seq = k.seq then (p', q) else (r, e) }

/-- FABRIC_RETRANSMIT: packet `b` of port `a`'s queue goes again; after 8 times the port is down and its flows move in order. A packet
queued at a port that is down moves, or is answered. -/
def execFabricRetransmit (s : State) : Host.Outcome State Fault Refusal :=
  let p := s.arg.a
  .next (match (Tab.get ({} : Port) s.ports p).queue[s.arg.b]? with
    | none => s
    | some k =>
      if (Tab.get ({} : Port) s.ports p).down then s.movePacket p k
      else if k.tries < 8 then s.onPort p fun x => x.again { k with tries := k.tries + 1 }
      else
        let s := (s.onPort p fun x => { x with down := true }).noticeFree 5
        (Tab.get ({} : Port) s.ports p).queue.foldl (fun s k => s.movePacket p k) s)

end Sys2Proof.Machine
end

