-- ==== Sys2Proof/Machine/OrdelEvents.lean ====
section
/-! DEFINITION. Ordel, the management controller (R400 to R404), bring-up (R405), power and temperature (R406). -/

namespace Sys2Proof.Machine

def State.onOrdel (s : State) (f : Ordel → Ordel) : State := { s with ordel := f s.ordel }
/-- Ordel answers a request, once. -/
def State.ordelAnswer (s : State) (bs : List Byte) : State := s.onOrdel fun o => { o with out := bs :: o.out }
/-- An answer whose bytes the spec does not give: a status (DESIGN CHOICE, log 4). -/
def State.ordelStatus (s : State) : State :=
  let (bs, s) := s.freeBytes 4
  s.ordelAnswer bs

/-! ## Requests -/

/-- Ordel's own 1000BASE-T port, beside the host ports 0 and 1. -/
def ordelPort : Nat := 2
/-- A request reaches Ordel: at the host ports by the UDP port in ORDUDP, or on its own port (R400). -/
def State.ordelRequest (s : State) (f : State → State) : Host.Outcome State Fault Refusal :=
  .next (if s.arg.d.port = ordelPort ∨ s.arg.d.udp = s.ordel.udp then f s else s)

/-- SENSOR: DEVNS of the latest sample set, then the set. -/
def execSensor (s : State) : Host.Outcome State Fault Refusal :=
  s.ordelRequest fun s => s.ordelAnswer (w64Bytes s.ordel.sampleNs ++ Config.sensors s.ordel.sample)

/-- The 32 bytes of a log entry (R402). -/
def LogEnt.toBytes (e : LogEnt) : List Byte := w64Bytes e.devns ++ leBytes 8 e.source ++ leBytes 8 e.cause ++ leBytes 8 e.detail

/-- LOG: `b` entries from entry `a`, the oldest first; `yes` is CLEAR, which acts after the response is formed. -/
def execLog (s : State) : Host.Outcome State Fault Refusal :=
  s.ordelRequest fun s =>
    let o := s.ordel
    let es := ((o.log.reverse.drop s.arg.a).take s.arg.b).flatMap LogEnt.toBytes
    let t := s.ordelAnswer (leBytes 4 o.logLost.toNat ++ leBytes 4 o.log.length ++ es)
    if s.arg.yes then t.onOrdel fun o => { o with logLost := 0 } else t

def Ordel.image (o : Ordel) (i : Nat) : Image := if i = 0 then o.slot0 else o.slot1
def Ordel.setImage (o : Ordel) (i : Nat) (x : Image) : Ordel := if i = 0 then { o with slot0 := x } else { o with slot1 := x }

/-- Both signatures verify over the same bytes and the version is not below the minimum (R403). -/
def Ordel.accepts (o : Ordel) (image sigs : List Byte) (version : Nat) : Bool :=
  Config.verifyEd25519 image (sigs.take 64) && Config.verifyMlDsa image (sigs.drop 64) && decide (o.minVersion ≤ version)

/-- FWUPDATE: image `bs` of version `a` with its signatures `bs2`, 64 bytes of Ed25519 first. An image that is installed takes the
slot that is not running and runs from the next module reset. -/
def execFwupdate (s : State) : Host.Outcome State Fault Refusal :=
  s.ordelRequest fun s =>
    (if s.ordel.accepts s.arg.bs s.arg.bs2 s.arg.a then
      s.onOrdel fun o => { o.setImage (1 - o.running) { bytes := s.arg.bs, version := s.arg.a } with next := 1 - o.running }
    else s).ordelStatus

/-- IDENTITY: both public keys and their certificates. -/
def execIdentity (s : State) : Host.Outcome State Fault Refusal := s.ordelRequest fun s => s.ordelAnswer Config.identity

/-- The cluster and spare maps as measured. -/
def State.mapBytes (s : State) : List Byte :=
  (List.range 64).flatMap fun cl =>
    let r := (s.cluster cl).rel
    leBytes 1 (match Tab.get (some cl) s.cmap cl with | some p => p | none => 64) ++
      leBytes 1 (flag r.spareUsed 4 + r.spareFor.toNat)

/-- The attestation report of R404 for a nonce. -/
def State.attestation (s : State) (nonce : List Byte) : List Byte :=
  nonce ++ w64Bytes s.devns ++ Config.partBytes ++ Config.sha384 (s.ordel.image s.ordel.running).bytes ++
    Config.sha384 Config.supFirmware ++ Config.sha384 s.mapBytes

/-- ATTEST: the report of nonce `bs` of 32 bytes, signed by both keys; another length is no request that Ordel recognises. -/
def execAttest (s : State) : Host.Outcome State Fault Refusal :=
  s.ordelRequest fun s =>
    if s.arg.bs.length = 32 then
      let r := s.attestation s.arg.bs
      s.ordelAnswer (r ++ Config.signEd25519 r ++ Config.signMlDsa r)
    else s.ordelStatus

/-- ORDEL_UNRECOGNISED_REQUEST: an error status. -/
def execOrdelUnrecognisedRequest (s : State) : Host.Outcome State Fault Refusal := s.ordelRequest State.ordelStatus

/-! ## Sampling, power and temperature (R401, R406) -/

/-- SENSOR_SAMPLE: the next sample set; above 115 °C the module shuts down, with a log entry. -/
def execSensorSample (s : State) : Host.Outcome State Fault Refusal :=
  let s := s.onOrdel fun o => { o with sample := o.sample + 1, sampleNs := s.devns }
  .next (if Config.dieTemp s.ordel.sample > 115 then
      (s.onOrdel fun o => { o with shut := true }).ordelLog 0 0 (Config.dieTemp s.ordel.sample)
    else s)

/-- Average power over the last ten samples, 10 ms. -/
def averagePower (n : Nat) : Nat := ((List.range 10).map fun i => Config.power (n - i)).sum / 10

/-- Ordel's setting POWERLIM, 1,200 to 2,400 W; by what means it is set the spec does not say (DESIGN CHOICE, log 135). -/
def Ordel.setLimit (o : Ordel) (w : Nat) : Ordel := if 1200 ≤ w ∧ w ≤ 2400 then { o with powerLim := w } else o

/-- POWER_GATING: with `yes` the setting POWERLIM first becomes `b`. Issue is gated to `a` sixteenths, one at least, while power or temperature is above its limit; a hot die is noticed. -/
def execPowerGating (s : State) : Host.Outcome State Fault Refusal :=
  let s := if s.arg.yes then s.onOrdel fun o => o.setLimit s.arg.b else s
  let hot : Bool := decide (Config.dieTemp s.ordel.sample > 105)
  let above : Bool := decide (averagePower s.ordel.sample > s.ordel.powerLim)
  let s := s.onOrdel fun o => { o with duty := if hot || above then max 1 (s.arg.a % 16) else 16 }
  .next (if hot then s.noticeFree 4 else s)

/-! ## Reset (R405), power loss (R402), supervisor restart (R237) -/

/-- What Ordel keeps over a reset: its log, LOGLOST, its two images, its latest sample set. -/
def Ordel.kept (o : Ordel) : Ordel :=
  { log := o.log, logLost := o.logLost, slot0 := o.slot0, slot1 := o.slot1, running := o.running, next := o.next
    minVersion := o.minVersion, sample := o.sample, sampleNs := o.sampleNs, out := o.out }

/-- What stands outside the module over a reset: what it has sent, what will happen, the count of free values. -/
def State.outsideKept (s t : State) : State :=
  { t with
    agenda := s.agenda, arg := s.arg, hostOut := s.hostOut, fresh := s.fresh
    ports := s.ports.map fun (i, p) => (i, ({ out := p.out } : Port)) }

/-- The image of the next slot runs, or, when it fails to start three times, that of the other slot (R403). -/
def Ordel.start (o : Ordel) : Ordel :=
  let starts : Bool := (List.range 3).any fun i => Config.imageStarts o.next i
  let fails := if starts then 0 else 3
  let run := if starts then o.next else 1 - o.next
  let o := o.setImage o.next { o.image o.next with fails := fails }
  { o with running := run, next := run }

/-- MODULE_RESET: bring-up begins, every store zero; it ends when PTP locks (R405). -/
def execModuleReset (s : State) : Host.Outcome State Fault Refusal :=
  .next { s.outsideKept State.reset with ordel := s.ordel.kept.start }

/-- POWER_LOSS. -/
def execPowerLoss (s : State) : Host.Outcome State Fault Refusal :=
  .next { s.outsideKept State.reset with powered := false, ordel := s.ordel.kept }

/-- SUPERVISOR_RESTART: supervisor core `a` runs its firmware from the start. -/
def execSupervisorRestart (s : State) : Host.Outcome State Fault Refusal :=
  .next (if (s.sup s.arg.a).live then s else s.onSup s.arg.a fun x => { x with live := true, pc := 0, wait := .none, readyAt := s.time })

end Sys2Proof.Machine
end

