-- ==== Sys2Proof/Machine/Dispatch.lean ====
section
/-! DEFINITION. One arm per constructor: a direct call of its meaning. -/

namespace Sys2Proof.Machine

def exec (i : Instr) (s : State) : Host.Outcome State Fault Refusal :=
  match i with
  | .lda z e a => Sys2Proof.Machine.execLda z e a s
  | .sta z e a => Sys2Proof.Machine.execSta z e a s
  | .adda z e a b r => Sys2Proof.Machine.execAdda z e a b r s
  | .suba z e a b r => Sys2Proof.Machine.execSuba z e a b r s
  | .mula z e a b r => Sys2Proof.Machine.execMula z e a b r s
  | .maca z e a b r => Sys2Proof.Machine.execMaca z e a b r s
  | .mina z e a b => Sys2Proof.Machine.execMina z e a b s
  | .maxa z e a b => Sys2Proof.Machine.execMaxa z e a b s
  | .loga z f e a b => Sys2Proof.Machine.execLoga z f e a b s
  | .shfa z f e a b => Sys2Proof.Machine.execShfa z f e a b s
  | .cvta z sf e a r => Sys2Proof.Machine.execCvta z sf e a r s
  | .hred z f e a r => Sys2Proof.Machine.execHred z f e a r s
  | .cmpa z e a b => Sys2Proof.Machine.execCmpa z e a b s
  | .sigaRead z e a => Sys2Proof.Machine.execSigaRead z e a s
  | .sigaWrite z e a b => Sys2Proof.Machine.execSigaWrite z e a b s
  | .sigaMintag z e a => Sys2Proof.Machine.execSigaMintag z e a s
  | .immaSet z e imm => Sys2Proof.Machine.execImmaSet z e imm s
  | .immaAddi z e imm => Sys2Proof.Machine.execImmaAddi z e imm s
  | .immaLane0 z e imm => Sys2Proof.Machine.execImmaLane0 z e imm s
  | .pset z d imm => Sys2Proof.Machine.execPset z d imm s
  | .pldc z d imm => Sys2Proof.Machine.execPldc z d imm s
  | .padd z d sf imm => Sys2Proof.Machine.execPadd z d sf imm s
  | .pstr z d imm => Sys2Proof.Machine.execPstr z d imm s
  | .pld z d sf imm => Sys2Proof.Machine.execPld z d sf imm s
  | .pst z d sf imm => Sys2Proof.Machine.execPst z d sf imm s
  | .paccGet z d n => Sys2Proof.Machine.execPaccGet z d n s
  | .paccPut z d n => Sys2Proof.Machine.execPaccPut z d n s
  | .paccAdd z d n => Sys2Proof.Machine.execPaccAdd z d n s
  | .paccAddw z d n => Sys2Proof.Machine.execPaccAddw z d n s
  | .pcrdAbs z d sf => Sys2Proof.Machine.execPcrdAbs z d sf s
  | .pcrdMyxy z d => Sys2Proof.Machine.execPcrdMyxy z d s
  | .pcrdGlob z d sf => Sys2Proof.Machine.execPcrdGlob z d sf s
  | .pcrdHome z d sf => Sys2Proof.Machine.execPcrdHome z d sf s
  | .br c o => Sys2Proof.Machine.execBr c o s
  | .bpc c a b o => Sys2Proof.Machine.execBpc c a b o s
  | .lBsig h e o => Sys2Proof.Machine.execLBsig h e o s
  | .call o => Sys2Proof.Machine.execCall o s
  | .lJmp o => Sys2Proof.Machine.execLJmp o s
  | .gath t a b c v k e => Sys2Proof.Machine.execGath t a b c v k e s
  | .scat t a b c x k e => Sys2Proof.Machine.execScat t a b c x k e s
  | .scatw t a b c x k e => Sys2Proof.Machine.execScatw t a b c x k e s
  | .dedup a b c v => Sys2Proof.Machine.execDedup a b c v s
  | .bucket a b c => Sys2Proof.Machine.execBucket a b c s
  | .ucinc t a b => Sys2Proof.Machine.execUcinc t a b s
  | .rowadd z t a b c n r e => Sys2Proof.Machine.execRowadd z t a b c n r e s
  | .rowscl z t a b c r e => Sys2Proof.Machine.execRowscl z t a b c r e s
  | .rowcvt z t a b c r e => Sys2Proof.Machine.execRowcvt z t a b c r e s
  | .rowdot z t a b c r e => Sys2Proof.Machine.execRowdot z t a b c r e s
  | .lAmo o sf e a q l => Sys2Proof.Machine.execLAmo o sf e a q l s
  | .amov o sf e a q l => Sys2Proof.Machine.execAmov o sf e a q l s
  | .lFence f sf => Sys2Proof.Machine.execLFence f sf s
  | .lBar f l => Sys2Proof.Machine.execLBar f l s
  | .lMark m => Sys2Proof.Machine.execLMark m s
  | .tepoch t => Sys2Proof.Machine.execTepoch t s
  | .send c a b n l => Sys2Proof.Machine.execSend c a b n l s
  | .senda c a b l => Sys2Proof.Machine.execSenda c a b l s
  | .reply b n l => Sys2Proof.Machine.execReply b n l s
  | .put k c a b n x l => Sys2Proof.Machine.execPut k c a b n x l s
  | .hctlMask c => Sys2Proof.Machine.execHctlMask c s
  | .hctlUnmask c => Sys2Proof.Machine.execHctlUnmask c s
  | .hctlPrio p c => Sys2Proof.Machine.execHctlPrio p c s
  | .hctlBind n c => Sys2Proof.Machine.execHctlBind n c s
  | .waitc k n => Sys2Proof.Machine.execWaitc k n s
  | .lWaitp sf => Sys2Proof.Machine.execLWaitp sf s
  | .waitt n => Sys2Proof.Machine.execWaitt n s
  | .copy a k n sf l q c => Sys2Proof.Machine.execCopy a k n sf l q c s
  | .spawn b o => Sys2Proof.Machine.execSpawn b o s
  | .join b o => Sys2Proof.Machine.execJoin b o s
  | .wlistPush a => Sys2Proof.Machine.execWlistPush a s
  | .wlistPop a => Sys2Proof.Machine.execWlistPop a s
  | .lSysTrap c => Sys2Proof.Machine.execLSysTrap c s
  | .lSysCrr n r => Sys2Proof.Machine.execLSysCrr n r s
  | .lSysCrw n r => Sys2Proof.Machine.execLSysCrw n r s
  | .lSysTime sf n => Sys2Proof.Machine.execLSysTime sf n s
  | .sysYield n => Sys2Proof.Machine.execSysYield n s
  | .add z w d a b => Sys2Proof.Machine.execAdd z w d a b s
  | .sub z w d a b => Sys2Proof.Machine.execSub z w d a b s
  | .and z w d a b => Sys2Proof.Machine.execAnd z w d a b s
  | .or z w d a b => Sys2Proof.Machine.execOr z w d a b s
  | .xor z w d a b => Sys2Proof.Machine.execXor z w d a b s
  | .shl z w d a b => Sys2Proof.Machine.execShl z w d a b s
  | .shr z w d a b => Sys2Proof.Machine.execShr z w d a b s
  | .sra z w d a b => Sys2Proof.Machine.execSra z w d a b s
  | .mul z w d a b => Sys2Proof.Machine.execMul z w d a b s
  | .mulh z w d a b => Sys2Proof.Machine.execMulh z w d a b s
  | .div z w d a b => Sys2Proof.Machine.execDiv z w d a b s
  | .rem z w d a b => Sys2Proof.Machine.execRem z w d a b s
  | .slt z w d a b => Sys2Proof.Machine.execSlt z w d a b s
  | .sltu z w d a b => Sys2Proof.Machine.execSltu z w d a b s
  | .min z w d a b => Sys2Proof.Machine.execMin z w d a b s
  | .max z w d a b => Sys2Proof.Machine.execMax z w d a b s
  | .addi z w d a imm => Sys2Proof.Machine.execAddi z w d a imm s
  | .andi z w d a imm => Sys2Proof.Machine.execAndi z w d a imm s
  | .ori z w d a imm => Sys2Proof.Machine.execOri z w d a imm s
  | .xori z w d a imm => Sys2Proof.Machine.execXori z w d a imm s
  | .shli z w d a c => Sys2Proof.Machine.execShli z w d a c s
  | .shri z w d a c => Sys2Proof.Machine.execShri z w d a c s
  | .srai z w d a c => Sys2Proof.Machine.execSrai z w d a c s
  | .slti z w d a imm => Sys2Proof.Machine.execSlti z w d a imm s
  | .lui z w d imm => Sys2Proof.Machine.execLui z w d imm s
  | .ldc z w d imm => Sys2Proof.Machine.execLdc z w d imm s
  | .fadd z w d a b r => Sys2Proof.Machine.execFadd z w d a b r s
  | .fsub z w d a b r => Sys2Proof.Machine.execFsub z w d a b r s
  | .fmul z w d a b r => Sys2Proof.Machine.execFmul z w d a b r s
  | .fdiv z w d a b r => Sys2Proof.Machine.execFdiv z w d a b r s
  | .fsqrt z w d a r => Sys2Proof.Machine.execFsqrt z w d a r s
  | .fmin z w d a b => Sys2Proof.Machine.execFmin z w d a b s
  | .fmax z w d a b => Sys2Proof.Machine.execFmax z w d a b s
  | .fabs z w d a => Sys2Proof.Machine.execFabs z w d a s
  | .fneg z w d a => Sys2Proof.Machine.execFneg z w d a s
  | .fcvtif z w d a r => Sys2Proof.Machine.execFcvtif z w d a r s
  | .fcvtfi z w d a r => Sys2Proof.Machine.execFcvtfi z w d a r s
  | .fcvtn z w d a e r => Sys2Proof.Machine.execFcvtn z w d a e r s
  | .fcvtw z w d a e => Sys2Proof.Machine.execFcvtw z w d a e s
  | .fcmp z w d a b => Sys2Proof.Machine.execFcmp z w d a b s
  | .fsigr z w d a => Sys2Proof.Machine.execFsigr z w d a s
  | .fsigw z w d a b => Sys2Proof.Machine.execFsigw z w d a b s
  | .fma z w d a b c r => Sys2Proof.Machine.execFma z w d a b c r s
  | .fms z w d a b c r => Sys2Proof.Machine.execFms z w d a b c r s
  | .ldb z w d a imm => Sys2Proof.Machine.execLdb z w d a imm s
  | .ldh z w d a imm => Sys2Proof.Machine.execLdh z w d a imm s
  | .ldw z w d a imm => Sys2Proof.Machine.execLdw z w d a imm s
  | .ldd z w d a imm => Sys2Proof.Machine.execLdd z w d a imm s
  | .ldwt z w d a imm => Sys2Proof.Machine.execLdwt z w d a imm s
  | .stb w b a imm => Sys2Proof.Machine.execStb w b a imm s
  | .sth w b a imm => Sys2Proof.Machine.execSth w b a imm s
  | .stw w b a imm => Sys2Proof.Machine.execStw w b a imm s
  | .std w b a imm => Sys2Proof.Machine.execStd w b a imm s
  | .stwt w b a imm => Sys2Proof.Machine.execStwt w b a imm s
  | .sAmo w d a b o sf x => Sys2Proof.Machine.execSAmo w d a b o sf x s
  | .beq w a b o => Sys2Proof.Machine.execBeq w a b o s
  | .bne w a b o => Sys2Proof.Machine.execBne w a b o s
  | .blt w a b o => Sys2Proof.Machine.execBlt w a b o s
  | .bge w a b o => Sys2Proof.Machine.execBge w a b o s
  | .bltu w a b o => Sys2Proof.Machine.execBltu w a b o s
  | .bgeu w a b o => Sys2Proof.Machine.execBgeu w a b o s
  | .sBsig w a h o => Sys2Proof.Machine.execSBsig w a h o s
  | .jal w d o => Sys2Proof.Machine.execJal w d o s
  | .jalr w d a imm => Sys2Proof.Machine.execJalr w d a imm s
  | .ewr w a g r => Sys2Proof.Machine.execEwr w a g r s
  | .erd w d g r => Sys2Proof.Machine.execErd w d g r s
  | .engo w g => Sys2Proof.Machine.execEngo w g s
  | .fpush w a => Sys2Proof.Machine.execFpush w a s
  | .shape w d a => Sys2Proof.Machine.execShape w d a s
  | .sTsend w q n => Sys2Proof.Machine.execSTsend w q n s
  | .sTwait w q n => Sys2Proof.Machine.execSTwait w q n s
  | .sWaitp w p => Sys2Proof.Machine.execSWaitp w p s
  | .sMark w m => Sys2Proof.Machine.execSMark w m s
  | .sBar w o l => Sys2Proof.Machine.execSBar w o l s
  | .sFence w sf k => Sys2Proof.Machine.execSFence w sf k s
  | .sSysTrap w => Sys2Proof.Machine.execSSysTrap w s
  | .sSysTret w => Sys2Proof.Machine.execSSysTret w s
  | .sSysCrr w d r => Sys2Proof.Machine.execSSysCrr w d r s
  | .sSysCrw w d r => Sys2Proof.Machine.execSSysCrw w d r s
  | .sysTlbinv w a b => Sys2Proof.Machine.execSysTlbinv w a b s
  | .sysHalt w => Sys2Proof.Machine.execSysHalt w s
  | .sysWfe w => Sys2Proof.Machine.execSysWfe w s
  | .sSysTime w d => Sys2Proof.Machine.execSSysTime w d s
  | .sysLnpop w d a => Sys2Proof.Machine.execSysLnpop w d a s
  | .sysLnret w a => Sys2Proof.Machine.execSysLnret w a s
  | .sysNstart w a b => Sys2Proof.Machine.execSysNstart w a b s
  | .sysNstop w a => Sys2Proof.Machine.execSysNstop w a s
  | .sysCmapw w a b => Sys2Proof.Machine.execSysCmapw w a b s
  | .sysSmapw w a b => Sys2Proof.Machine.execSysSmapw w a b s
  | .sysMapfence w => Sys2Proof.Machine.execSysMapfence w s
  | .sysPtbase w a => Sys2Proof.Machine.execSysPtbase w a s
  | .cpy d w q l sf f p t k => Sys2Proof.Machine.execCpy d w q l sf f p t k s
  | .dload d imm => Sys2Proof.Machine.execDload d imm s
  | .cTsend q n => Sys2Proof.Machine.execCTsend q n s
  | .cTwait q n => Sys2Proof.Machine.execCTwait q n s
  | .cWaitp w => Sys2Proof.Machine.execCWaitp w s
  | .lset l c => Sys2Proof.Machine.execLset l c s
  | .lbr l o => Sys2Proof.Machine.execLbr l o s
  | .cJmp o => Sys2Proof.Machine.execCJmp o s
  | .cMark m => Sys2Proof.Machine.execCMark m s
  | .vadd z w d a b m r => Sys2Proof.Machine.execVadd z w d a b m r s
  | .vsub z w d a b m r => Sys2Proof.Machine.execVsub z w d a b m r s
  | .vmul z w d a b m r => Sys2Proof.Machine.execVmul z w d a b m r s
  | .vfma z w d a b m r => Sys2Proof.Machine.execVfma z w d a b m r s
  | .vfms z w d a b m r => Sys2Proof.Machine.execVfms z w d a b m r s
  | .vmin z w d a b m => Sys2Proof.Machine.execVmin z w d a b m s
  | .vmax z w d a b m => Sys2Proof.Machine.execVmax z w d a b m s
  | .vabs z w d a m => Sys2Proof.Machine.execVabs z w d a m s
  | .vneg z w d a m => Sys2Proof.Machine.execVneg z w d a m s
  | .vrcp z w d a m => Sys2Proof.Machine.execVrcp z w d a m s
  | .vrsq z w d a m => Sys2Proof.Machine.execVrsq z w d a m s
  | .vexp2 z w d a m => Sys2Proof.Machine.execVexp2 z w d a m s
  | .vlog2 z w d a m => Sys2Proof.Machine.execVlog2 z w d a m s
  | .viadd z w d a b m => Sys2Proof.Machine.execViadd z w d a b m s
  | .visub z w d a b m => Sys2Proof.Machine.execVisub z w d a b m s
  | .vimul z w d a b m => Sys2Proof.Machine.execVimul z w d a b m s
  | .vand z w d a b m => Sys2Proof.Machine.execVand z w d a b m s
  | .vor z w d a b m => Sys2Proof.Machine.execVor z w d a b m s
  | .vxor z w d a b m => Sys2Proof.Machine.execVxor z w d a b m s
  | .vshl z w d a b m => Sys2Proof.Machine.execVshl z w d a b m s
  | .vshr z w d a b m => Sys2Proof.Machine.execVshr z w d a b m s
  | .vsra z w d a b m => Sys2Proof.Machine.execVsra z w d a b m s
  | .vcmp z w d a b m c => Sys2Proof.Machine.execVcmp z w d a b m c s
  | .vsel z w d a b m => Sys2Proof.Machine.execVsel z w d a b m s
  | .vcvt z w d a e m r => Sys2Proof.Machine.execVcvt z w d a e m r s
  | .vefb z w d a b m r => Sys2Proof.Machine.execVefb z w d a b m r s
  | .vbcast w d k => Sys2Proof.Machine.execVbcast w d k s
  | .vmovk w d l a => Sys2Proof.Machine.execVmovk w d l a s
  | .kaddi w d a imm => Sys2Proof.Machine.execKaddi w d a imm s
  | .vld w d k imm e => Sys2Proof.Machine.execVld w d k imm e s
  | .vst w d k imm e => Sys2Proof.Machine.execVst w d k imm e s
  | .vldg w d a k e => Sys2Proof.Machine.execVldg w d a k e s
  | .vsts w d a k e => Sys2Proof.Machine.execVsts w d a k e s
  | .vstt w d k imm e => Sys2Proof.Machine.execVstt w d k imm e s
  | .vldt w d k imm e => Sys2Proof.Machine.execVldt w d k imm e s
  | .vred w d a m f => Sys2Proof.Machine.execVred w d a m f s
  | .vperm w d a b m => Sys2Proof.Machine.execVperm w d a b m s
  | .vsigRead w d a m => Sys2Proof.Machine.execVsigRead w d a m s
  | .vsigWrite w d a b m => Sys2Proof.Machine.execVsigWrite w d a b m s
  | .vsigMintag w d a m => Sys2Proof.Machine.execVsigMintag w d a m s
  | .vssig w d a b m => Sys2Proof.Machine.execVssig w d a b m s
  | .vbr w k c o => Sys2Proof.Machine.execVbr w k c o s
  | .vjmp w o => Sys2Proof.Machine.execVjmp w o s
  | .vloop w k o => Sys2Proof.Machine.execVloop w k o s
  | .epout w a e => Sys2Proof.Machine.execEpout w a e s
  | .epiret w => Sys2Proof.Machine.execEpiret w s
  | .vWaitp w p => Sys2Proof.Machine.execVWaitp w p s
  | .vTsend w n q => Sys2Proof.Machine.execVTsend w n q s
  | .vTwait w n q => Sys2Proof.Machine.execVTwait w n q s
  | .vMark w m => Sys2Proof.Machine.execVMark w m s
  | .vsysTrap w => Sys2Proof.Machine.execVsysTrap w s
  | .vsysTret w => Sys2Proof.Machine.execVsysTret w s
  | .vsysCrr w d r => Sys2Proof.Machine.execVsysCrr w d r s
  | .vsysCrw w k r => Sys2Proof.Machine.execVsysCrw w k r s
  | .vsysTime w d => Sys2Proof.Machine.execVsysTime w d s
  | .mnop w => Sys2Proof.Machine.execMnop w s
  | .mma w a b n sf k v => Sys2Proof.Machine.execMma w a b n sf k v s
  | .mmac w a b n sf k v => Sys2Proof.Machine.execMmac w a b n sf k v s
  | .mmak w a b n sf v => Sys2Proof.Machine.execMmak w a b n sf v s
  | .mzero w n => Sys2Proof.Machine.execMzero w n s
  | .mdrain w c n v => Sys2Proof.Machine.execMdrain w c n v s
  | .mldacc w a n v => Sys2Proof.Machine.execMldacc w a n v s
  | .msync w => Sys2Proof.Machine.execMsync w s
  | .nop => Sys2Proof.Machine.execNop s
  | .retp => Sys2Proof.Machine.execRetp s
  | .hend => Sys2Proof.Machine.execHend s
  | .commit => Sys2Proof.Machine.execCommit s
  | .tend => Sys2Proof.Machine.execTend s
  | .lSysTret => Sys2Proof.Machine.execLSysTret s
  | .cfence => Sys2Proof.Machine.execCfence s
  | .cHalt => Sys2Proof.Machine.execCHalt s
  | .messageArrival => Sys2Proof.Machine.execMessageArrival s
  | .handlerBind => Sys2Proof.Machine.execHandlerBind s
  | .epriAging => Sys2Proof.Machine.execEpriAging s
  | .niRetry => Sys2Proof.Machine.execNiRetry s
  | .accessPerform => Sys2Proof.Machine.execAccessPerform s
  | .rowRequestService => Sys2Proof.Machine.execRowRequestService s
  | .rowOperationService => Sys2Proof.Machine.execRowOperationService s
  | .rowLanding => Sys2Proof.Machine.execRowLanding s
  | .putLanding => Sys2Proof.Machine.execPutLanding s
  | .useCounterIncrement => Sys2Proof.Machine.execUseCounterIncrement s
  | .pageWalk => Sys2Proof.Machine.execPageWalk s
  | .fscmd => Sys2Proof.Machine.execFscmd s
  | .lanternAccess => Sys2Proof.Machine.execLanternAccess s
  | .cmemEvictionResume => Sys2Proof.Machine.execCmemEvictionResume s
  | .cmgrant => Sys2Proof.Machine.execCmgrant s
  | .smquery => Sys2Proof.Machine.execSmquery s
  | .nresume => Sys2Proof.Machine.execNresume s
  | .registerWrite => Sys2Proof.Machine.execRegisterWrite s
  | .copyBurst => Sys2Proof.Machine.execCopyBurst s
  | .copyComplete => Sys2Proof.Machine.execCopyComplete s
  | .tblrdyRead => Sys2Proof.Machine.execTblrdyRead s
  | .dloadFillComplete => Sys2Proof.Machine.execDloadFillComplete s
  | .promiseExpiry => Sys2Proof.Machine.execPromiseExpiry s
  | .waitpComplete => Sys2Proof.Machine.execWaitpComplete s
  | .tokenWaitComplete => Sys2Proof.Machine.execTokenWaitComplete s
  | .waitcComplete => Sys2Proof.Machine.execWaitcComplete s
  | .waittExpiry => Sys2Proof.Machine.execWaittExpiry s
  | .cfenceComplete => Sys2Proof.Machine.execCfenceComplete s
  | .msyncComplete => Sys2Proof.Machine.execMsyncComplete s
  | .wfeWake => Sys2Proof.Machine.execWfeWake s
  | .epochAdvance => Sys2Proof.Machine.execEpochAdvance s
  | .variableResultLanding => Sys2Proof.Machine.execVariableResultLanding s
  | .transformComplete => Sys2Proof.Machine.execTransformComplete s
  | .condenserComplete => Sys2Proof.Machine.execCondenserComplete s
  | .mergeComplete => Sys2Proof.Machine.execMergeComplete s
  | .matrixArbiterAccept => Sys2Proof.Machine.execMatrixArbiterAccept s
  | .matrixCommandStart => Sys2Proof.Machine.execMatrixCommandStart s
  | .matrixCommandComplete => Sys2Proof.Machine.execMatrixCommandComplete s
  | .epilogueStart => Sys2Proof.Machine.execEpilogueStart s
  | .drainRowRelease => Sys2Proof.Machine.execDrainRowRelease s
  | .watchdogExpiry => Sys2Proof.Machine.execWatchdogExpiry s
  | .phaseEnd => Sys2Proof.Machine.execPhaseEnd s
  | .bundleRelease => Sys2Proof.Machine.execBundleRelease s
  | .markerRetire => Sys2Proof.Machine.execMarkerRetire s
  | .belfryHop => Sys2Proof.Machine.execBelfryHop s
  | .stealAttempt => Sys2Proof.Machine.execStealAttempt s
  | .taskMigration => Sys2Proof.Machine.execTaskMigration s
  | .levellingInterval => Sys2Proof.Machine.execLevellingInterval s
  | .carryGranuleFill => Sys2Proof.Machine.execCarryGranuleFill s
  | .nodePlacement => Sys2Proof.Machine.execNodePlacement s
  | .branchNode => Sys2Proof.Machine.execBranchNode s
  | .barrierNodePoll => Sys2Proof.Machine.execBarrierNodePoll s
  | .endNode => Sys2Proof.Machine.execEndNode s
  | .scrubStep => Sys2Proof.Machine.execScrubStep s
  | .launch => Sys2Proof.Machine.execLaunch s
  | .memwr => Sys2Proof.Machine.execMemwr s
  | .memrd => Sys2Proof.Machine.execMemrd s
  | .rddata => Sys2Proof.Machine.execRddata s
  | .ack => Sys2Proof.Machine.execAck s
  | .nack => Sys2Proof.Machine.execNack s
  | .window => Sys2Proof.Machine.execWindow s
  | .completionRetransmit => Sys2Proof.Machine.execCompletionRetransmit s
  | .ptpMessage => Sys2Proof.Machine.execPtpMessage s
  | .rowreq => Sys2Proof.Machine.execRowreq s
  | .rowdata => Sys2Proof.Machine.execRowdata s
  | .rowacc => Sys2Proof.Machine.execRowacc s
  | .fabricMemrd => Sys2Proof.Machine.execFabricMemrd s
  | .fabricMemwr => Sys2Proof.Machine.execFabricMemwr s
  | .atomic => Sys2Proof.Machine.execAtomic s
  | .msg => Sys2Proof.Machine.execMsg s
  | .fabricAck => Sys2Proof.Machine.execFabricAck s
  | .fabricNack => Sys2Proof.Machine.execFabricNack s
  | .fabricRetransmit => Sys2Proof.Machine.execFabricRetransmit s
  | .sensor => Sys2Proof.Machine.execSensor s
  | .log => Sys2Proof.Machine.execLog s
  | .fwupdate => Sys2Proof.Machine.execFwupdate s
  | .identity => Sys2Proof.Machine.execIdentity s
  | .attest => Sys2Proof.Machine.execAttest s
  | .sensorSample => Sys2Proof.Machine.execSensorSample s
  | .powerGating => Sys2Proof.Machine.execPowerGating s
  | .moduleReset => Sys2Proof.Machine.execModuleReset s
  | .unassignedOpcode => Sys2Proof.Machine.execUnassignedOpcode s
  | .softError => Sys2Proof.Machine.execSoftError s
  | .supervisorRestart => Sys2Proof.Machine.execSupervisorRestart s
  | .hostPortLinkChange => Sys2Proof.Machine.execHostPortLinkChange s
  | .powerLoss => Sys2Proof.Machine.execPowerLoss s
  | .ordelUnrecognisedRequest => Sys2Proof.Machine.execOrdelUnrecognisedRequest s

end Sys2Proof.Machine
end

