-- ==== Sys2Proof/Machine/Turns.lean ====
section
/-! DEFINITION. The turns of one clk in the order that the rules give them (R108, R140, R208, R211, R212, R220, R281, R339, R348,
R364, R388), the unit that takes an issue slot (R141, R220), one turn up to its instruction, and what follows its word. -/

namespace Sys2Proof.Machine

/-- What a turn comes to: an instruction to execute at a state, or a state in which nothing more happens. -/
inductive Ready where
  | run (i : Instr) (s : State)
  | idle (s : State)

/-! ## A unit's word -/

/-- The core whose late fault a unit's issue may meet. -/
def vectorCore : UnitId → Option Nat
  | .compute cl | .epi cl _ => some cl
  | _ => none

/-- A late fault's freeze comes at this turn of a unit: the issue groups that may come before it have come, or the compute stream
issues no more (R261). -/
def State.lateDue (s : State) (u : UnitId) : Option State :=
  (vectorCore u).bind fun cl => (s.dense cl).vfault.bind fun (f, left, last) =>
    if (s.dense cl).frozen.isNone && (s.nodeOf u).any (!·.stopped) &&
        ((left == 0 && s.time != last) || (u == .compute cl && !s.canIssue u)) then some (s.takeLate cl f) else none
/-- An issue group after a late fault is counted. -/
def State.countGroup (s : State) (u : UnitId) : State :=
  match vectorCore u with
  | none => s
  | some cl => match (s.dense cl).vfault with
    | none => s
    | some (f, left, last) => if last = s.time then s else s.onDense cl fun d => { d with vfault := some (f, left - 1, s.time) }

/-- A lookup word with T takes three issue turns of its context and retires at the third (R141). Is this the first or the second, of
a word that waits for nothing? -/
def State.spendsTurn (s : State) (u : UnitId) (i : Instr) : Bool :=
  match u with
  | .ctx k c => tripled i && decide ((s.ctx k c).turns < 2) && (match exec i s with | .next t => t.wait u == .none | _ => false)
  | _ => false
def State.spendTurn (s : State) (u : UnitId) : State :=
  match u with
  | .ctx k c => (s.onCtx k c fun x => { x with turns := x.turns + 1, wait := .none, readyAt := s.time + 1 }).onCore k fun x =>
      { x with last := c, slotAt := s.time + 1 }
  | _ => s

/-- The word of a unit at its turn. -/
def State.issueUnit (s : State) (u : UnitId) : Ready :=
  match s.lateDue u with
  | some t => .idle t
  | none =>
    if !s.canIssue u then .idle s
    else
      let s := s.countGroup u
      let len := s.streamLen u
      let pc := (s.pc u).toNat
      if pc ≥ len then .idle (if pc > len || s.badEntry u then (s.takeSeq u).raise u .illegal 0 else s.runOff u)
      else
        let s0 := s
        let s := s.takeSeq u
        if pc % 4 ≠ 0 then .idle (s.raise u .align (BitVec.ofNat 64 pc))
        else match s.fetch u with
          | .error e => .idle ((if e.retries then s0 else s).settle u (.error e))
          | .ok (w, s) => match decodeWord (streamOf u) w with
            | .error _ => .run .unassignedOpcode { s with arg := { u := u, v := BitVec.ofNat 64 w } }
            | .ok i => match s.badContext u i with
              | (s, true) => .idle (s.raise u .poison 0)
              | (s, false) => if s.spendsTurn u i then .idle (s.spendTurn u) else .run i s

/-- A turn of a unit as it would come at TIME t, were it alone: the instruction, and the states before and after it. -/
def State.tried (s : State) (u : UnitId) (t : Nat) : Option (Option Instr × State × State) :=
  if s.canIssue u && decide (s.readyAt u ≤ t) then
    let x := ((s.viewFor u).passTime (t - s.time)).landDue
    let x := { x with cur := u, quota := none, got := [], further := 0, lateStores := false, disturb := .none, arg := {} }
    match x.issueUnit u with
    | .idle y => some (none, x, y)
    | .run i y => match exec i y with
      | .next z => some (some i, y, z)
      | _ => none
  else none

/-- Is a unit ready at TIME t: its next word has no operand pending and waits for nothing (R141, R220)? -/
def State.contends (s : State) (u : UnitId) (t : Nat) : Bool :=
  match s.tried u t with
  | some (_, _, z) => !z.stalled u
  | none => false

/-- The unit that takes the issue slot which a turn gives to `u`. Contexts of a lookup core take turns, starting after the one that
issued last (R141); of the epilogue contexts the highest-numbered ready one issues (R220). -/
def State.pick (s : State) (u : UnitId) : UnitId :=
  match u with
  | .ctx k c =>
    let order := (List.range 16).map fun i => ((s.core k).last + 1 + i) % 16
    match order.find? fun i => i == c || s.contends (.ctx k i) s.time with
    | some i => .ctx k i
    | none => u
  | .epi cl e =>
    match [3, 2, 1, 0].find? fun i => i == e || s.contends (.epi cl i) s.time with
    | some i => .epi cl i
    | none => u
  | u => u

/-! ## Turns of one clk

The rules order what some units do in one clk. At a tile memory's bank and at the Lantern, landings come first, then the copy engine,
matrix operand reads, the row service unit, and words, those of the dense core before those of the lookup cores in ascending index
(R108, R140). An epilogue's word comes before the compute stream's (R220), a push of the format queue before a pop and the compute
stream's pop before a follow-on's (R212), an ADV before a CRW of the same t register (R211), a compute-stream command before a
follow-on (R281), TSENDs' additions before completion tokens, those in acceptance order, before a subtraction (R208); traps in the
order scalar, load, store, compute, after the words that do not fault (R364). A launch arbiter serves supervisor cores in ascending
number (R339), a victim core its owner before a thief (R348), a host port one source's packets by SEQ (R388). Turns of one clk that the
rules leave open take these places as well (DESIGN CHOICE, log 95). -/

/-- Turns that are ordered among themselves, a turn's place there, and its place among equals. -/
structure Rank where
  group : Nat
  place : Nat
  sub : Nat := 0

def Rank.before (x y : Rank) : Bool :=
  decide (x.group = y.group) && (decide (x.place < y.place) || decide (x.place = y.place ∧ x.sub < y.sub))

/-- A fault takes its unit's place among the traps of a clk (R364). -/
def trapPlace : UnitId → Nat
  | .scalar _ => 100
  | .load _ => 101
  | .store _ => 102
  | _ => 103

def tNumber (r : Nat) : Bool := decide (0x060 ≤ r ∧ r ≤ 0x07F)
/-- The place of a dense unit's word among the turns of its clk. -/
def wordPlace (u : UnitId) (i : Option Instr) : Nat :=
  match u, i with
  | _, some (.sTwait ..) | _, some (.cTwait ..) | _, some (.vTwait ..) => 60
  | .scalar _, some (.sSysCrw _ _ r) => if tNumber r.toNat then 50 else 10
  | .compute _, some (.vsysCrw _ _ r) => if tNumber r.toNat then 51 else 40
  | .scalar _, _ => 10
  | .load _, some (.cpy ..) => 46
  | .load _, _ => 20
  | .store _, some (.cpy ..) => 47
  | .store _, _ => 25
  | .epi _ e, _ => 39 - e
  | _, _ => 40

/-- The place of a unit's turn at TIME t. -/
def State.issueRank (s : State) (t : Nat) (u : UnitId) : Option Rank :=
  match u with
  | .sup n => some { group := 66, place := n }
  | .ctx k _ => some { group := clusterOf k, place := 70 + coreIndex k }
  | u => (s.tried u t).map fun (i, y, z) =>
      { group := u.cl, place := if y.faulted z u then trapPlace u else wordPlace u i }

/-- Does an event of the matrix engine raise a late fault? -/
def State.matrixFaults (s : State) (t : Nat) (i : Instr) (a : EvArg) : Bool :=
  let x := ((s.viewFor a.u).passTime (t - s.time)).landDue
  let x := { x with cur := a.u, arg := a }
  match exec i x with
  | .next y => x.faulted y (.matrix a.a)
  | _ => false

/-- Copy commands complete in acceptance order. -/
def State.completionRank (s : State) (cl : Nat) (id : Option Nat) : Option Rank :=
  some { group := cl, place := 45, sub := id.getD s.nextId }

/-- The place of a unit's access at a bank or the Lantern. -/
def accessRank : UnitId → Option Rank
  | .copy cl _ | .engine cl _ => some { group := cl, place := 1 }
  | .matrix cl => some { group := cl, place := 2 }
  | .ctx k _ => some { group := clusterOf k, place := 70 + coreIndex k }
  | .scalar cl | .load cl | .store cl | .compute cl | .epi cl _ => some { group := cl, place := 9 }
  | _ => none

/-- The place of an event at TIME t. -/
def State.eventRank (s : State) (t : Nat) (i : Instr) (a : EvArg) : Option Rank :=
  match i with
  | .rowLanding | .putLanding => some { group := clusterOf a.a, place := 0 }
  | .copyBurst | .tblrdyRead => some { group := a.a, place := 1 }
  | .matrixCommandStart | .matrixCommandComplete | .drainRowRelease =>
    if s.matrixFaults t i a then some { group := a.a, place := 103 } else some { group := a.a, place := 2 }
  | .rowRequestService | .rowOperationService => if a.yes then none else some { group := clusterOf a.a, place := 3 }
  | .accessPerform => (s.flights[a.a]?).bind fun f => accessRank f.who
  | .niRetry => some { group := clusterOf a.a, place := 70 + coreIndex a.a }
  | .copyComplete => s.completionRank a.a ((Tab.get [] (s.cluster a.a).ce.q a.b).head?.map (·.id))
  | .matrixArbiterAccept => s.completionRank a.a ((s.dense a.a).follow.head?.map (·.copy))
  | .tokenWaitComplete => some { group := a.u.cl, place := 60 }
  | .handlerBind => some { group := 65, place := 0 }
  | .stealAttempt => some { group := 65, place := 1 }
  | .launch | .memwr | .memrd | .rddata | .ack | .nack | .window =>
    some { group := 100 + 2 * a.d.source + a.d.port % 2, place := 0, sub := leNat ((a.d.bytes.drop 4).take 4) }
  | _ => none

def State.turnRank (s : State) (t : Nat) (x : Turn) : Option Rank :=
  match x.act with
  | .event i a => s.eventRank t i a
  | .issue u => s.issueRank t u

/-- Events at which a sleeping word issues again. -/
def wakes : Instr → Bool
  | .promiseExpiry | .waitpComplete | .tokenWaitComplete | .waitcComplete | .waittExpiry | .cfenceComplete | .msyncComplete
  | .wfeWake | .epochAdvance => true
  | _ => false

/-- The unit whose word a turn issues. -/
def Turn.unit (x : Turn) : Option UnitId :=
  match x.act with
  | .issue u => some u
  | .event i a => if wakes i then some a.u else none
/-- The clk that pass before a turn's instruction: a word's are those until it and its slot are free. -/
def State.delayOf (s : State) (x : Turn) (dt : Nat) : Nat :=
  match x.unit with
  | some u => s.turnDelay u dt
  | none => dt

/-- Does none of the others come before this turn? -/
def isFirst (r : Option Rank) (others : List (Option (Option Rank))) : Bool :=
  match r with
  | none => true
  | some r => !others.any fun y => match y with
    | some (some y) => y.before r
    | _ => false

/-- The turn to take next: of the clk that the first of the agenda falls into, the first that none of the others must precede. Words
that must wait for a later clk stand behind them. The others keep their order. -/
def State.nextTurn (s : State) (x : Turn) (rest : List Turn) : Turn × List Turn :=
  let same := rest.takeWhile fun y => y.dt == 0
  if same.isEmpty then (x, rest)
  else
    let clk := { x with dt := 0 } :: same
    let ds := clk.map fun y => s.delayOf y x.dt
    let d := ds.foldl min (ds.headD 0)
    let rs := (clk.zip ds).map fun (y, e) => if e = d then some (s.turnRank (s.time + d) y) else none
    match rs.findIdx? fun r => match r with | some r => isFirst r rs | none => false with
    | some i => ({ clk.getD i x with dt := x.dt }, clk.eraseIdx i ++ rest.drop same.length)
    | none => (x, rest)

/-! ## A turn -/

/-- Ordel and what it runs go on while the module is off (R400, R401, R406). -/
def standby : Instr → Bool
  | .sensor | .log | .fwupdate | .identity | .attest | .ordelUnrecognisedRequest | .sensorSample | .powerGating | .moduleReset
  | .powerLoss => true
  | _ => false
/-- The module is shut down or without power: nothing of it runs. -/
def State.off (s : State) : Bool := s.ordel.shut || !s.powered

/-- Take the next turn; with no agenda the current unit issues. -/
def State.takeTurn (s : State) : Ready :=
  let (t, rest) : Turn × List Turn := match s.agenda with
    | [] => ({ dt := 0, act := .issue s.cur }, [])
    | t :: ts => s.nextTurn t ts
  let s := { s with
    agenda := rest, lateStores := t.late, quota := t.reads, got := [], further := t.further, disturb := t.disturb, arg := {} }
  match t.act with
  | .issue u =>
    let s := s.viewFor u
    let s := (s.passTime (s.turnDelay u t.dt)).landDue
    let u := s.pick u
    { s with cur := u }.issueUnit u
  | .event i a =>
    let s := s.viewFor a.u
    let s := (s.passTime (s.delayOf t t.dt)).landDue
    if s.off && !standby i then .idle s else .run i { s with cur := a.u, arg := a }

/-! ## After an instruction -/

/-- Does an instruction issue a word, rather than happen to the machine? A waking event does where its unit slept. -/
def State.issues (before : State) (i : Instr) : Bool :=
  (Instr.stream i).isSome || i == .unassignedOpcode || (wakes i && before.wait before.cur != .none)
/-- Has the word of a turn retired: it waits for nothing, and raised no fault? -/
def State.retired (before after : State) : Bool :=
  after.wait before.cur == .none && !before.faulted after before.cur

/-- A compute or epilogue word that stalled gives its number back, to the core as the step found it; one that has issued, has no result
in flight, is no tile command and did not fault has completed (R261, R360). -/
def State.numbered (start before after : State) (i : Instr) (cl : Nat) (q : BitVec 8) : State :=
  let u := before.cur
  let old := { start with view := before.view }.dense cl
  if after.wait u = .retry && (after.delivered u).isEmpty then
    if old.nextSeq = q then after.onDense cl fun d => d.untake old else after
  else if before.retired after && !tileInstr i && !((after.dense cl).pend.any fun p => p.seq == some q) then after.ringDone cl q
  else after

/-- A load of the compute stream's that has issued and still reads: the registers it will write (R222, R258). -/
def State.noteLoading (s : State) (cl : Nat) (i : Instr) : State :=
  let u : UnitId := .compute cl
  let out : Bool := match s.wait u with
    | .parked | .reply _ => true
    | _ => !(s.delivered u).isEmpty
  let ds := if out && (vectorUse i).var then ((vectorUse i).dests u).getD [] else []
  if (s.dense cl).loading == ds then s else s.onDense cl fun d => { d with loading := ds }

/-- An issue slot is used: a lookup core's, the epilogues'; a compute word keeps its group's slot (R141, R220). -/
def State.useSlot (before after : State) : State :=
  let u := before.cur
  let t := before.time
  if after.stalled u then after
  else match u with
    | .ctx k c => after.onCore k fun x =>
      let x := { x with last := c, slotAt := t + 1 }
      if (x.ctx c).wait = .none && (x.ctx c).turns ≠ 0 then x.setCtx c { x.ctx c with turns := 0 } else x
    | .epi cl _ => after.onDense cl fun d => { d with epiAt := max d.epiAt (t + 1) }
    | .compute cl => after.onDense cl fun d =>
      if d.epiReads.1 = t then { d with cp := { d.cp with readyAt := max d.cp.readyAt d.epiAt } } else d
    | _ => after

/-- The packets of ports whose every access has been performed are answered, and what waited for them goes on. -/
def State.sweep (s : State) : State :=
  if s.portJobs.isEmpty && s.hostHeld.isEmpty then s else s.answerServed.resumeHosts

/-- After the instruction of a turn: `start` is the state before the step, `before` the one that it was executed at. A word that faults
while a late fault's freeze is to come writes nothing, and the freeze comes (R365); one that retires is checked (R378, R379, R381). -/
def State.afterTurn (start before after : State) (i : Instr) : State :=
  let u := before.cur
  if !before.issues i then { after with disturb := .none }.sweep
  else
    let discarded : Option State := (vectorCore u).bind fun cl => (before.dense cl).vfault.bind fun (f, _, _) =>
      if before.faulted after u then some (before.takeLate cl f) else none
    let t : State := match discarded with
      | some t => t
      | none =>
        let t := if before.retired after then before.checked after u i else after
        let t := before.useSlot t
        match u with
        | .compute cl => (start.numbered before t i cl (before.dense cl).cp.seq).noteLoading cl i
        | .epi cl e => start.numbered before t i cl ((before.dense cl).epiCtx e).seq
        | _ => t
    { t with disturb := .none }.sweep

end Sys2Proof.Machine
end

