-- ==== Sys2Proof/Machine/Step.lean ====
section
/-! DEFINITION. One step: the next turn of the agenda, its instruction or event, and nothing else. -/

namespace Sys2Proof.Machine

/-- One step: the unit whose turn it is issues one word, or one event happens. -/
def step (s : State) : Host.Outcome State Fault Refusal :=
  match s.takeTurn with
  | .run i t => match exec i t with
    | .next t' => .next (s.afterTurn t t' i)
    | o => o
  | .idle t => .next t

/-- The machine with one instruction stored where the next step fetches it (DESIGN CHOICE, log 10). -/
def State.withFetchWord (s : State) (nbits w : Nat) : State := s.placeWord nbits w

end Sys2Proof.Machine
end

