-- ==== Sys2Proof/Safety.lean ====
section
/-! DEFINITION. What the statements call a good state, a word's end, and a frame. -/

namespace Sys2Proof

/-! ## Scope instances (R321, R322) -/

/-- Does an observer stand on a fabric port, in a row service unit or in a supervisor core, where every narrower scope is DEVICE? -/
def UnitId.deviceWide : UnitId → Bool
  | .sup _ | .home _ | .ni _ | .port _ | .host => true
  | _ => false
/-- Is an observer a sequencer or an epilogue context of a dense core? -/
def UnitId.ofDenseCore : UnitId → Bool
  | .scalar _ | .load _ | .store _ | .compute _ | .epi _ _ => true
  | _ => false
/-- The cluster an observer belongs to. -/
def UnitId.inCluster (cl : Nat) : UnitId → Bool
  | .sup _ | .port _ | .host => false
  | u => u.cl == cl
/-- R321: does the s-instance of observer u hold observer v of this device? -/
def Scope.holds (s : Scope) (u v : UnitId) : Bool :=
  match s with
  | .system => true
  | .device => v != .host
  | .cluster => if u.deviceWide then v != .host else v.inCluster u.cl
  | .core =>
    if u.deviceWide then v != .host
    else match u with
      | .ctx k _ => match v with
        | .ctx j _ => k == j
        | _ => false
      | u => if u.ofDenseCore then v.ofDenseCore && v.cl == u.cl else v.inCluster u.cl
/-- R322: a release at scope r and an acquire at scope a synchronise. The model performs every scope alike, as R322 says the hardware
does. -/
def synchronise (releaser acquirer : UnitId) (r a : Scope) : Bool :=
  r.holds releaser releaser && r.holds releaser acquirer && a.holds acquirer releaser && a.holds acquirer acquirer

end Sys2Proof

namespace Sys2Proof.Machine

/-- Every step answers: no fault and no refusal. -/
def Answers (s : State) : Prop := ∃ t, step s = .next t

/-- Memory is in canonical form. -/
def CanonicalMemory (s : State) : Prop := Memory.wf s.mem = true

/-- A word of a unit is over: its PC stands past it, `idle` issue slots follow, and what replies delivered to it is dropped. -/
def State.past (s : State) (u : UnitId) (idle : Nat) : State := (s.retire u idle).dropDelivered u

/-- What ends every word of a context that falls through (R13, R15). -/
def LCtx.past (x : LCtx) (now idle : Nat) : LCtx :=
  { x with pc := x.pc + 4, wait := .none, readyAt := now + 1 + idle, delivered := [] }

/-- Nothing but one context differs. -/
def OnlyCtx (k c : Nat) (s t : State) : Prop := t = s.onCtx k c fun _ => t.ctx k c

/-- Every byte of memory reads as before. -/
def SameMemory (s t : State) : Prop := ∀ a, memGet t.mem a = memGet s.mem a

/-- No unit's register file, PC or control register differs: cores, clusters and supervisor cores are as they were. -/
def SameUnits (s t : State) : Prop := t.cores = s.cores ∧ t.clusters = s.clusters ∧ t.sups = s.sups

/-- What ends every word of a sequencer that falls through. -/
def Seqr.past (q : Seqr) (now idle : Nat) : Seqr :=
  { q with pc := q.pc + 4, wait := .none, readyAt := now + 1 + idle, delivered := [] }

/-! ## A unit with nothing under way -/

/-- The activation of a context, if it runs one, has committed and holds nothing. -/
def State.nothingHeld (s : State) : UnitId → Bool
  | .ctx k c => match (s.ctx k c).act with
    | some a => a.committed && a.held.isEmpty
    | none => true
  | _ => true

/-- A word of unit u issues with nothing of it under way: no store, load or PUT is outstanding and no reply is being consumed, no
granule is poisoned or in error, and this turn performs its accesses at once. -/
def State.quiet (s : State) (u : UnitId) : Bool :=
  s.cur == u && (s.delivered u).isEmpty && s.quota.isNone && !s.lateStores && s.storesOut.isEmpty && !s.unreleased u &&
    s.inOrder u 0 && s.poison.isEmpty && s.soft.isEmpty && s.hard.isEmpty && s.nothingHeld u

/-- A place in a tile memory, a scratchpad or a cluster memory of this device. -/
def Place.onDevice : Place → Bool
  | .tile .. | .scratch .. | .cmem .. => true
  | _ => false

/-- Nothing but memory and the scratchpad's metadata differs. -/
def OnlyMemory (s t : State) : Prop := t = { s with mem := t.mem, smeta := t.smeta }

/-- The n bytes at an address of a context's own tile memory named LOCAL. -/
def State.ownBytes (s : State) (k : Nat) (a : W64) (n : Nat) : List Byte := s.readKey (s.tileKey k a.toNat) n

end Sys2Proof.Machine
end

