-- ==== Sys2Proof/Certificates/Slice0/Obligations.lean ====
section
/-! DEFINITION. The statements for the provers, and the tables of the spec they read: which lanes, registers and flags each
word of a family computes. -/

namespace Sys2Proof.Says
open Sys2Proof.Machine

/-! ## Lookup stream, class A (R156 to R165) -/

/-- A lane's code and tag. -/
abbrev Ln := Nat × Tag

/-- R160: the T bit, type and operands of a two-operand word, whether SIGTH checks its lanes, and a lane of the result from the
lanes of a, of b and of acc. -/
def twoLanes : Instr → Option (Bool × ElemType × LOpd × LOpd × Bool × (Ln → Ln → Ln → W32 → Res))
  | .adda z e a b r => some (z, e, a, b, ElemType.isFloat e, fun x y _ => addRes e r x y)
  | .suba z e a b r => some (z, e, a, b, ElemType.isFloat e, fun x y _ => subRes e r x y)
  | .mula z e a b r => some (z, e, a, b, ElemType.isFloat e, fun x y _ => mulRes e r x y)
  | .maca z e a b r => some (z, e, a, b, ElemType.isFloat e, fun x y d => fmaRes e r false x y d)
  | .mina z e a b => some (z, e, a, b, false, fun x y _ => minMaxRes false e x y)
  | .maxa z e a b => some (z, e, a, b, false, fun x y _ => minMaxRes true e x y)
  | .loga z f e a b => some (z, e, a, b, false, fun x y _ => pureRes (logic f (ElemType.bits e) x.1 y.1) 31)
  | .shfa z f e a b => some (z, e, a, b, false, fun x y _ => pureRes (shift f (ElemType.bits e) x.1 y.1) 31)
  | _ => none

/-- The context after a lane word at a TIME: the lanes in acc, the rest of acc zero with tag 31, flags ORed in, the generator
stored. -/
def withLanes (now : Nat) (x : LCtx) (e : ElemType) (lanes : List Ln) (f : Flags) (sr : W32) : LCtx :=
  { x.setLanes e lanes with num := { x.num.raise f now with sr := sr } }

/-- The lanes a one-operand word reads: its type, and how many bytes. -/
def oneOperand : Instr → Option (Bool × ElemType × Nat × LOpd)
  | .lda z e a => some (z, e, 32, a)
  | .cvta z se de a _ => some (z, se, 32 / max (ElemType.size se) (ElemType.size de) * ElemType.size se, a)
  | .hred z _ e a _ => some (z, e, 32, a)
  | .sigaRead z e a => some (z, e, 32, a)
  | .sigaMintag z e a => some (z, e, 32, a)
  | _ => none

/-- The words of R165 that read acc alone, or nothing, and write every lane. -/
def immediateWord : Instr → Option (Bool × ElemType)
  | .immaSet z e _ => some (z, e)
  | .immaAddi z e _ => some (z, e)
  | _ => none

/-- R160 to R165: the type of the result, its lanes with their flags and the generator after them, and the lanes SIGTH checks. -/
def oneResult (i : Instr) (sr : W32) (xs : List Ln) : ElemType × LaneRun × List Ln :=
  match i with
  | .lda _ e _ => (e, ⟨xs.map (moveLane e), 0, sr⟩, [])
  | .cvta _ se de _ r =>
    let t := runLanes sr (xs.map fun x g => convert de se r g x.1 x.2)
    (de, t, if ElemType.isFloat de then t.lanes else [])
  | .hred _ f e _ r =>
    let node (x y : Ln) : W32 → Res := match f with
      | .sum => addRes e r x y
      | .min => minMaxRes false e x y
      | .max => minMaxRes true e x y
    let t := treeReduce node 5 sr xs
    let root := t.lanes.headD (0, 31)
    (e, ⟨root :: List.replicate (laneCount e - 1) (0, fullTag e 0), t.flags, t.sr⟩, if f = .sum ∧ ElemType.isFloat e = true then [root] else [])
  | .sigaRead _ e _ => (e, ⟨xs.map fun x => (laneSig e x, 31), 0, sr⟩, [])
  | .sigaMintag _ e _ => (e, ⟨(xs.foldl (fun m x => min m (laneSig e x)) 31, 31) :: List.replicate (laneCount e - 1) (0, 31), 0, sr⟩, [])
  | .immaSet _ e n => (e, ⟨List.replicate (laneCount e) (immLane e n), 0, sr⟩, [])
  | .immaAddi _ e n =>
    let t := runLanes sr (xs.map fun x => addRes e .rne x (immLane e n))
    (e, t, if ElemType.isFloat e then t.lanes else [])
  | _ => (.fp32, ⟨[], 0, sr⟩, [])

/-- No lane of a list has a tag below an enabled threshold (R135). -/
def tagsHigh (s : State) (k c : Nat) (ls : List Ln) : Prop := ∀ l ∈ ls, s.sigLow (.ctx k c) l.2.toNat = false

end Sys2Proof.Says

open Sys2Proof Sys2Proof.Machine Sys2Proof.Says

/-- R135, R156, R158, R160 to R162, R164, R165: a two-operand lane word reads a in full, then b, and completes with every lane computed by
its operation; no other context, register or byte differs from the state in which the operands were read. The words of one operand, or
of acc and an immediate, complete in the same way. Where a lane that SIGTH checks is below the threshold, the results are written first
and then SIG_THRESHOLD is raised at the word. Which lanes are checked, and what the tag
rules leave open, are the model's readings (logs 11, 93, 104, 106, 107, 109). -/
def Obligations.LookupLaneWords : Prop :=
  ((∀ (i : Instr) z e a b chk f, twoLanes i = some (z, e, a, b, chk, f) →
  ∀ (s s1 s2 : State) (k c : Nat) xs ys, s.cur = .ctx k c →
    s.operand k c e 32 a = .ok (xs, s1) → s1.operand k c e 32 b = .ok (ys, s2) →
    let x := s2.ctx k c
    let r := runLanes x.num.sr ((xs.zip (ys.zip (x.accLanes e))).map fun (p, q, d) => f p q d)
    (chk = true → tagsHigh s2 k c r.lanes) →
    exec i s = .next (s2.onCtx k c fun x => (withLanes s2.time x e r.lanes r.flags r.sr).past s2.time 0)) ∧
  ((∀ (i : Instr) z e n a, oneOperand i = some (z, e, n, a) →
  ∀ (s s1 : State) (k c : Nat) xs, s.cur = .ctx k c → s.operand k c e n a = .ok (xs, s1) →
    let r := oneResult i (s1.ctx k c).num.sr xs
    tagsHigh s1 k c r.2.2 →
    exec i s = .next (s1.onCtx k c fun x => (withLanes s1.time x r.1 r.2.1.lanes r.2.1.flags r.2.1.sr).past s1.time 0)) ∧
  (∀ (i : Instr) z e, immediateWord i = some (z, e) → ∀ (s : State) (k c : Nat), s.cur = .ctx k c →
    let r := oneResult i (s.ctx k c).num.sr ((s.ctx k c).accLanes e)
    tagsHigh s k c r.2.2 →
    exec i s = .next (s.onCtx k c fun x => (withLanes s.time x r.1 r.2.1.lanes r.2.1.flags r.2.1.sr).past s.time 0)))) ∧
  (∀ (i : Instr) z e a b f, twoLanes i = some (z, e, a, b, true, f) →
  ∀ (s s1 s2 : State) (k c : Nat) xs ys, s.cur = .ctx k c →
    s.operand k c e 32 a = .ok (xs, s1) → s1.operand k c e 32 b = .ok (ys, s2) →
    let x := s2.ctx k c
    let r := runLanes x.num.sr ((xs.zip (ys.zip (x.accLanes e))).map fun (p, q, d) => f p q d)
    (∃ l ∈ r.lanes, s2.sigLow (.ctx k c) l.2.toNat = true) →
    exec i s = .next (((s2.onCtx k c fun x => withLanes s2.time x e r.lanes r.flags r.sr).dropDelivered (.ctx k c)).raise (.ctx k c) .sigThreshold 0))


/-- R139, R157, R160, R163, R164, R165: SIGA_WRITE gives each lane of a the tag that b names, at most P; CMPA writes F alone, IMMA_LANE0 lane 0 alone; STA stores the 32 bytes of acc at its pointer,
stepped after use; a misaligned one raises ALIGN. -/
def Obligations.LookupCompareStoreLane0 : Prop :=
  (∀ (s s1 s2 : State) (k c : Nat) z e a b xs ys, s.cur = .ctx k c →
    s.operand k c e 32 a = .ok (xs, s1) → s1.operand k c e 32 b = .ok (ys, s2) →
    let p := (xs.headD (0, 31)).1
    let q := (ys.headD (0, 31)).1
    exec (.cmpa z e a b) s = .next (s2.onCtx k c fun x =>
      ({ x with f := if ElemType.isFloat e then fpFlags (decodeNum e p) (decodeNum e q) else subFlags (ElemType.bits e) p q } : LCtx).past
        s2.time 0)) ∧
  (∀ (s s1 s2 : State) (k c : Nat) z e a b xs ys, s.cur = .ctx k c →
    s.operand k c e 32 a = .ok (xs, s1) → s1.operand k c e 32 b = .ok (ys, s2) →
    exec (.sigaWrite z e a b) s = .next (s2.onCtx k c fun x =>
      (withLanes s2.time x e ((xs.zip ys).map fun (p, q) => (p.1, BitVec.ofNat 5 (min q.1 (precision e p.1)))) 0 x.num.sr).past
        s2.time 0)) ∧
  (∀ (s : State) (k c : Nat) z e (n : BitVec 7), s.cur = .ctx k c →
    exec (.immaLane0 z e n) s = .next (s.onCtx k c fun x =>
      ({ x with
          acc := BitVec.ofNat 256 (setBits x.acc.toNat (8 * ElemType.size e - 1) 0 (immLane e n).1)
          accTags := List.replicate (ElemType.size e) (immLane e n).2 ++ x.allTags.drop (ElemType.size e) } : LCtx).past
        s.time 0)) ∧
  (∀ (s t : State) (k c : Nat) z e a n step, s.cur = .ctx k c → LOpd.pointer a = some (n, step) →
    let ad := ((s.ctx k c).ptr n).addr
    ad.toNat % ElemType.size e = 0 → (s.stepPtr k c n step).store (.ctx k c) ad (leBytes 32 (s.ctx k c).acc.toNat) = .ok t →
    exec (.sta z e a) s = .next (t.past (.ctx k c) 0)) ∧
  (∀ (s : State) (k c : Nat) z e a n step, s.cur = .ctx k c → LOpd.pointer a = some (n, step) →
    let ad := ((s.ctx k c).ptr n).addr
    ad.toNat % ElemType.size e ≠ 0 →
    exec (.sta z e a) s = .next (((s.stepPtr k c n step).dropDelivered (.ctx k c)).raise (.ctx k c) .align ad))

/-! ## Pointers, coordinates, branches (R166 to R169) -/

namespace Sys2Proof.Says

/-- R166, R167: the T bit of a pointer word that cannot stop, and what it does to the context. -/
def pointerWord (k : Nat) : Instr → Option (Bool × (LCtx → LCtx))
  | .pset z d n => some (z, fun x => x.setPtr d.toNat { addr := n.signExtend 64, stride := (x.ptr d.toNat).stride })
  | .padd z d p n => some (z, fun x => x.setPtr d.toNat { addr := (x.ptr p.toNat).addr + n.signExtend 64, stride := (x.ptr p.toNat).stride })
  | .pstr z d n => some (z, fun x => x.setPtr d.toNat { addr := (x.ptr d.toNat).addr, stride := n })
  | .paccGet z d n => some (z, fun x => x.setPtr d.toNat { addr := BitVec.ofNat 64 (x.acc.toNat / 2 ^ (64 * n.toNat)), stride := (x.ptr d.toNat).stride })
  | .paccPut z d n => some (z, fun x =>
      { x with
        acc := BitVec.ofNat 256 (setBits x.acc.toNat (64 * n.toNat + 63) (64 * n.toNat) (x.ptr d.toNat).addr.toNat)
        accTags := x.allTags.take (8 * n.toNat) ++ List.replicate 8 31 ++ x.allTags.drop (8 * n.toNat + 8) })
  | .paccAdd z d n => some (z, fun x => x.setPtr d.toNat
      { addr := (x.ptr d.toNat).addr + BitVec.ofNat 64 (x.acc.toNat / 2 ^ (64 * n.toNat)), stride := (x.ptr d.toNat).stride })
  | .paccAddw z d n => some (z, fun x => x.setPtr d.toNat
      { addr := (x.ptr d.toNat).addr + (BitVec.ofNat 32 (x.acc.toNat / 2 ^ (32 * n.toNat))).signExtend 64
        stride := (x.ptr d.toNat).stride })
  | .pcrdMyxy z d => some (z, fun x => x.setPtr d.toNat
      { addr := xyWord k Config.deviceNumber.toNat, stride := 0 })
  | .pcrdGlob z d p => some (z, fun x =>
      let a := (x.ptr p.toNat).addr
      x.setPtr d.toNat { addr := if addrSpace a = 0 then absAddr 1 k (addrOff a) else a, stride := (x.ptr p.toNat).stride })
  | _ => none

/-- A branch's target, when its condition holds. -/
def when (b : Bool) (t : W32) : Option W32 := if b then some t else none

/-- R169: RETP goes to the low 32 bits of p7. -/
def returnGoes (x : LCtx) : Instr → Option (Option W32)
  | .retp => some (some ((x.ptr 7).addr.setWidth 32))
  | _ => none

/-- R168, R169: where a branch or call of a context goes, when it goes anywhere but past itself. -/
def branchGoes (x : LCtx) : Instr → Option (Option W32)
  | .br q o => some (when (q.holds x.f) (x.pc + 4 * o.signExtend 32))
  | .bpc q a b o => some (when (q.holds (subFlags 64 (x.ptr a.toNat).addr.toNat (x.ptr b.toNat).addr.toNat))
      (x.pc + 4 * o.signExtend 32))
  | .lBsig h e o => some (when ((x.accLanes e).any fun l => decide (readTag (precision e l.1) l.2 < h.toNat))
      (x.pc + 4 * o.signExtend 32))
  | .lJmp o => some (some (x.pc + 4 * o.signExtend 32))
  | .call o => some (some (x.pc + 4 * o.signExtend 32))
  | i => returnGoes x i

/-- CALL leaves the link in p7, whose stride is unchanged (R169). -/
def linked (i : Instr) (x : LCtx) : LCtx :=
  match i with
  | .call _ => x.setPtr 7 { addr := (x.pc + 4).setWidth 64, stride := (x.ptr 7).stride }
  | _ => x

/-- n bytes from a DVA lie in a page of this device's HBM that the unit's first translation cache holds with a permission, on a normal
page, and in one granule; nothing holds the access up at its home: the PHA (R52 to R57, R60, R154, R328). -/
def hbmReady (s : State) (u : UnitId) (dva n : Nat) (perm : Perm) (pha : Nat) : Prop :=
  let tlb := match u with
    | .ctx k _ => (s.core k).tlb
    | u => (s.cluster u.cl).tlb
  dva + n ≤ 2 ^ 48 ∧ s.held u (pha / 2 ^ 30) = false ∧ s.absent (pha / 2 ^ 30) = false ∧ (s.core (pha / 2 ^ 30)).rowQ = [] ∧ s.busyFrame pha n = none ∧
  ∃ e, tlbFind tlb dva = some e ∧ entKind e.leaf = 2 ∧ entHas e.leaf perm = true ∧ bits e.leaf 3 2 = 0 ∧ e.page ≤ dva ∧
    dva + n ≤ e.page + 2 ^ e.size ∧ pha = entPha e.leaf + (dva - e.page) ∧ pha % 32 + n ≤ 32

end Sys2Proof.Says

/-- R166, R167: the pointer words that read no memory complete, and write the one pointer, or doubleword of acc, they name. PLDC reads the
node's constant table, PLD memory, PST stores, PCRD_ABS resolves a coordinate, PCRD_HOME names the home of an address. With nothing under
way, on words of own tile memory, or a constant whose page the micro-TLB holds, the accesses complete at once. -/
def Obligations.LookupPointerWords : Prop :=
  (∀ (s : State) (k c : Nat), s.cur = .ctx k c → ∀ (i : Instr) z f, pointerWord k i = some (z, f) →
    exec i s = .next (s.onCtx k c fun x => (f x).past s.time 0)) ∧
  ((∀ (s t : State) (k c : Nat) z (d : BitVec 3) (n : BitVec 19) a bs, s.cur = .ctx k c →
    s.constAddr (.ctx k c) n.toNat = some a → s.load (.ctx k c) a 8 = .ok (bs, t) →
    exec (.pldc z d n) s = .next (t.onCtx k c fun x =>
      (x.setPtr d.toNat { addr := BitVec.ofNat 64 (leNat (bs.take 8)), stride := (x.ptr d.toNat).stride }).past t.time 0)) ∧
  (∀ (s t : State) (k c : Nat) z (d p : BitVec 3) (n : BitVec 19) bs, s.cur = .ctx k c →
    let a := ((s.ctx k c).ptr p.toNat).addr + n.signExtend 64
    a.toNat % 8 = 0 → s.load (.ctx k c) a 8 = .ok (bs, t) →
    exec (.pld z d p n) s = .next (t.onCtx k c fun x =>
      (x.setPtr d.toNat { addr := BitVec.ofNat 64 (leNat (bs.take 8)), stride := (x.ptr d.toNat).stride }).past t.time 0)) ∧
  (∀ (s t : State) (k c : Nat) z (d p : BitVec 3) (n : BitVec 19), s.cur = .ctx k c →
    let a := ((s.ctx k c).ptr p.toNat).addr + n.signExtend 64
    a.toNat % 8 = 0 → s.store (.ctx k c) a (leBytes 8 ((s.ctx k c).ptr d.toNat).addr.toNat) = .ok t →
    exec (.pst z d p n) s = .next (t.past (.ctx k c) 0)) ∧
  (∀ (s : State) (k c : Nat) z (d p : BitVec 3), s.cur = .ctx k c →
    let q := (s.ctx k c).ptr p.toNat
    let rel := (1 ≤ addrSpace q.addr ∧ addrSpace q.addr ≤ 4) ∧ addrRel q.addr = true
    (∀ t, rel → target (some k) q.addr = some t →
      exec (.pcrdAbs z d p) s = .next (s.onCtx k c fun x =>
        (x.setPtr d.toNat { addr := absAddr (addrSpace q.addr) t (addrOff q.addr), stride := q.stride }).past s.time 0)) ∧
    (¬ rel → exec (.pcrdAbs z d p) s = .next (s.onCtx k c fun x => (x.setPtr d.toNat q).past s.time 0)) ∧
    (rel → target (some k) q.addr = none →
      exec (.pcrdAbs z d p) s = .next ((s.dropDelivered (.ctx k c)).raise (.ctx k c) .space q.addr))) ∧
  (∀ (s t : State) (k c : Nat) z (d p : BitVec 3) e, s.cur = .ctx k c →
    let a := ((s.ctx k c).ptr p.toNat).addr
    addrSpace a = 8 → bits a.toNat 59 48 = 0 → s.leafFor (s.who (.ctx k c)) a (bits a.toNat 47 0) = .ok (e, t) →
    exec (.pcrdHome z d p) s = .next (t.onCtx k c fun x =>
      (x.setPtr d.toNat
        { addr := if entKind e.leaf = 2 then xyWord (bits e.leaf 25 16) 0
            else BitVec.ofNat 64 (2 ^ 63 + 65536 * entDev e.leaf)
          stride := 0 }).past t.time 0))) ∧
  (∀ (s : State) (k c : Nat), s.quiet (.ctx k c) = true →
    (∀ z (d : BitVec 3) (n : BitVec 19) nd pha, s.nodeOf (.ctx k c) = some nd → n.toNat < nd.ctCount → nd.ctBase % 8 = 0 →
      hbmReady s (.ctx k c) (nd.ctBase + 8 * n.toNat) 8 .r pha →
      exec (.pldc z d n) s = .next (s.onCtx k c fun x =>
        (x.setPtr d.toNat { addr := BitVec.ofNat 64 (leNat (s.readKey (s.hbmKey pha) 8)), stride := (x.ptr d.toNat).stride }).past s.time 0)) ∧
    (∀ z (d p : BitVec 3) (n : BitVec 19),
      let a := ((s.ctx k c).ptr p.toNat).addr + n.signExtend 64
      a.toNat % 8 = 0 → a.toNat + 8 ≤ 2 ^ 21 →
      exec (.pld z d p n) s = .next (s.onCtx k c fun x =>
        (x.setPtr d.toNat { addr := BitVec.ofNat 64 (leNat (s.ownBytes k a 8)), stride := (x.ptr d.toNat).stride }).past s.time 0) ∧
      ∃ t, s.store (.ctx k c) a (leBytes 8 ((s.ctx k c).ptr d.toNat).addr.toNat) = .ok t ∧ OnlyMemory s t ∧
        exec (.pst z d p n) s = .next (t.past (.ctx k c) 0)))


/-- R17, R168, R169: a branch not taken falls through; one taken, a jump, call or return inside the stream continues at its
target; outside the stream it is ILLEGAL and CALL leaves no link; RETP to no word address is ALIGN. -/
def Obligations.LookupBranches : Prop :=
  ∀ (s : State) (k c : Nat), s.cur = .ctx k c → ∀ (i : Instr) g, branchGoes (s.ctx k c) i = some g →
    (g = none → exec i s = .next (s.onCtx k c fun x => x.past s.time 0)) ∧
    (∀ t, g = some t → (i = .retp → t.toNat % 4 = 0) →
      (t.toNat < s.streamLen (.ctx k c) →
        exec i s = .next (s.onCtx k c fun x =>
          { linked i x with pc := t, wait := .none, readyAt := s.time + 1, delivered := [] })) ∧
      (s.streamLen (.ctx k c) ≤ t.toNat → exec i s = .next ((s.dropDelivered (.ctx k c)).raise (.ctx k c) .illegal 0))) ∧
    (∀ t, g = some t → i = .retp → t.toNat % 4 ≠ 0 →
      exec i s = .next ((s.dropDelivered (.ctx k c)).raise (.ctx k c) .align (t.setWidth 64)))

/-! ## Rows and lists (R170 to R179) -/

namespace Sys2Proof.Says

/-- An identifier names a row of a table of this device whose page, a normal one, the core's micro-TLB holds, in HBM of this device,
with a permission; the row lies in that page (R151). -/
def rowMapped (s : State) (k : Nat) (tb : Table) (perm : Perm) (i : Nat) : Prop :=
  i < tb.rows ∧ ∃ t, tlbFind (s.core k).tlb (tb.dva i) = some t ∧ entKind t.leaf = 2 ∧ entHas t.leaf perm = true ∧
    bits t.leaf 3 2 = 0 ∧ tb.dva i + tb.rowb ≤ t.page + 2 ^ t.size ∧ tb.dva i + tb.rowb ≤ 2 ^ 48

/-- The table of a row word: as it stood at issue, for one that has waited (R170). -/
def rowTable (s : State) (k c : Nat) (tn : BitVec 4) (tb : Table) : Prop :=
  match (s.ctx k c).list.bind fun g => g.desc.table with
  | some t => t = tb
  | none => s.table k tn = .ok tb
/-- A context whose row word is over holds no table. -/
def listDone (x : LCtx) : LCtx := { x with list := none }

/-- A context with nothing under way names n identifiers from pa up to pb in its own tile memory, each of a mapped row of table tn. -/
def listReady (s : State) (k c : Nat) (tn : BitVec 4) (tb : Table) (perm : Perm) (pa pb : W64) (n : Nat) : Prop :=
  s.quiet (.ctx k c) = true ∧ (s.ctx k c).list = none ∧ s.table k tn = .ok tb ∧ tb.remote = false ∧ pb.toNat = pa.toNat + 4 * n ∧
    pb.toNat ≤ 2 ^ 21 ∧ ∀ i < n, rowMapped s k tb perm (leNat (s.ownBytes k (pa + BitVec.ofNat 64 (4 * i)) 4))

end Sys2Proof.Says

/-- R173, R174: GATH completes when every identifier's row has been requested: it steps pa by 4 and pc by the destination pitch for each,
and the row-request engine holds that many rows more; one that has waited goes on with the table and the identifiers left that it fixed at
issue. SCAT and SCATW complete when every identifier's row has been sent. Types that R173's and R174's tables do not list are ILLEGAL
and DESCRIPTOR. With nothing under way, on identifiers in own tile memory whose rows are mapped, all three complete. -/
def Obligations.GatherAndScatterComplete : Prop :=
  (∀ (s t : State) (k c : Nat) (tn : BitVec 4) (a b d : BitVec 3) v (ck : BitVec 3) e tb, s.cur = .ctx k c →
    let x := s.ctx k c
    let dp := if v then tb.len * ElemType.size e else tb.rowb
    let loop (n : Nat) : Progress :=
      s.gathLoop k c tb tn.toNat a.toNat d.toNat dp (if v then some (ElemType.code e) else none) ck.toNat n
    (∀ n lo o, x.list = none → s.table k tn = .ok tb → (v = true → tableType e = true) →
      s.rowRange (.ctx k c) k (x.ptr a.toNat).addr (x.ptr b.toNat).addr 4 = .ok (n, lo) →
      s.rowAt (.ctx k c) k (x.ptr d.toNat).addr (n * dp) (ElemType.size (if v then e else tb.et)) = .ok o →
      loop n = (t, 0, none) → exec (.gath tn a b d v ck e) s = .next ((t.setList k c none).past (.ctx k c) (n - 1))) ∧
    (x.list = none → s.table k tn = .ok tb → v = true → tableType e = false →
      exec (.gath tn a b d v ck e) s = .next ((s.dropDelivered (.ctx k c)).raise (.ctx k c) .illegal 0)) ∧
    (∀ g, x.list = some g → g.desc.table = some tb → loop g.left = (t, 0, none) →
      exec (.gath tn a b d v ck e) s = .next ((t.setList k c none).past (.ctx k c) (g.left - 1)))) ∧
  (∀ (s : State) (k c : Nat) (tn : BitVec 4) (a b d : BitVec 3) ack (ck : BitVec 3) e tb,
    s.cur = .ctx k c → ∀ write : Bool,
    let i : Instr := if write then .scatw tn a b d ack ck e else .scat tn a b d ack ck e
    let good : Bool := if write then decide (e = tb.et) else scatTypes tb.et e
    let pitch := tb.len * ElemType.size e
    let x := s.ctx k c
    let loop (s : State) (n : Nat) : Progress :=
      s.scatLoop k c tb tn.toNat a.toNat d.toNat pitch write (if ack then some ck.toNat else none) e n
    (x.list = none → s.table k tn = .ok tb →
      (good = false → exec i s = .next ((s.dropDelivered (.ctx k c)).raise (.ctx k c) .descriptor 0)) ∧
      (∀ n lo o s1 t, good = true → s.rowRange (.ctx k c) k (x.ptr a.toNat).addr (x.ptr b.toNat).addr 4 = .ok (n, lo) →
        s.rowAt (.ctx k c) k (x.ptr d.toNat).addr (n * pitch) (ElemType.size e) = .ok o →
        s.commit (.ctx k c) true = .ok s1 → loop s1 n = (t, 0, none) →
        exec i s = .next ((t.setList k c none).past (.ctx k c) (n - 1)))) ∧
    (∀ g t, x.list = some g → g.desc.table = some tb → loop s g.left = (t, 0, none) →
      exec i s = .next ((t.setList k c none).past (.ctx k c) (g.left - 1)))) ∧
  (∀ (s : State) (k c n : Nat) (tn : BitVec 4) (a b d ck : BitVec 3) e tb,
    let x := s.ctx k c
    let pa := (x.ptr a.toNat).addr
    let pb := (x.ptr b.toNat).addr
    let pc := (x.ptr d.toNat).addr
    (∀ v : Bool,
      let dp := if v then tb.len * ElemType.size e else tb.rowb
      listReady s k c tn tb .r pa pb n → a ≠ d → (v = true → tableType e = true) → pc.toNat + n * dp ≤ 2 ^ 21 →
      pc.toNat % ElemType.size (if v then e else tb.et) = 0 → (s.core k).rowReqs.length + n ≤ 256 →
      ∃ t, exec (.gath tn a b d v ck e) s = .next t ∧ (t.ctx k c).pc = x.pc + 4 ∧ ((t.ctx k c).ptr a.toNat).addr = pb ∧
        ((t.ctx k c).ptr d.toNat).addr = pc + BitVec.ofNat 64 (n * dp) ∧ (t.core k).rowReqs.length = (s.core k).rowReqs.length + n) ∧
    (∀ (write ack : Bool),
      let pitch := tb.len * ElemType.size e
      let slot := 4 * tn.toNat + tb.epoch.toNat % 4
      listReady s k c tn tb (if write then .w else .rw) pa pb n → a ≠ d → (if write then e = tb.et else scatTypes tb.et e = true) →
      pc.toNat + n * pitch ≤ 2 ^ 21 → pc.toNat % ElemType.size e = 0 →
      ∃ t, exec (if write then .scatw tn a b d ack ck e else .scat tn a b d ack ck e) s = .next t ∧ (t.ctx k c).pc = x.pc + 4 ∧
        ((t.ctx k c).ptr a.toNat).addr = pb ∧ ((t.ctx k c).ptr d.toNat).addr = pc + BitVec.ofNat 64 (n * pitch) ∧
        (t.core k).rowOut.length = (s.core k).rowOut.length + n ∧ Tab.get 0 (t.core k).acks slot = Tab.get 0 (s.core k).acks slot + n))


/-- R175 to R177: DEDUP writes the distinct identifiers in order of first occurrence; BUCKET the positions in key order and the
offsets; UCINC sends an increment for each key. With nothing under way, on lists in own tile memory, all three complete. -/
def Obligations.ListWordsComplete : Prop :=
  (∀ (s s0 s1 s2 t : State) (k c : Nat) (a b d : BitVec 3) v n lo po bs, s.cur = .ctx k c →
    let x := s.ctx k c
    let pa := (x.ptr a.toNat).addr
    let pc := (x.ptr d.toNat).addr
    s.rowRange (.ctx k c) k pa (x.ptr b.toNat).addr 4 = .ok (n, lo) → s.rowAt (.ctx k c) k pc (4 * n) 4 = .ok po →
    (spansMeet po (4 * n) lo (4 * n) = true → v = false ∧ po = lo) →
    let found := distinct [] (words32 (s.peekRows (.ctx k c) pa (4 * n)))
    s.makeRoom (.ctx k c) k (pieceCount pc (4 * found.length) + if v then pieceCount pa (4 * n) else 0) = .ok s0 →
    s0.loadRows (.ctx k c) pa (4 * n) = .ok (bs, s1) →
    let ids := words32 bs
    let out := distinct [] ids
    s1.storeRows (.ctx k c) pc (out.flatMap (leBytes 4)) = .ok s2 →
    (if v then s2.storeRows (.ctx k c) pa (ids.flatMap fun i => leBytes 4 (indexOf out i)) else .ok s2) = .ok t →
    exec (.dedup a b d v) s = .next (t.onCtx k c fun x =>
      (x.setPtr d.toNat { addr := pc + BitVec.ofNat 64 (4 * out.length), stride := (x.ptr d.toNat).stride }).past t.time (n - 1))) ∧
  (∀ (s s0 s1 t : State) (k c : Nat) (a b d : BitVec 3) n lo po bs, s.cur = .ctx k c →
    let x := s.ctx k c
    let pa := (x.ptr a.toNat).addr
    let pc := (x.ptr d.toNat).addr
    let nb := sext 32 (x.acc.toNat % 2 ^ 32)
    1 ≤ nb → nb ≤ 4096 → s.rowRange (.ctx k c) k pa (x.ptr b.toNat).addr 4 = .ok (n, lo) →
    let bucket (bs : List Byte) : List Byte :=
      let placed := ((List.range n).zip (words32 bs)).filter fun p => decide (p.2 < nb.toNat)
      ((placed.mergeSort fun p r => decide (p.2 ≤ r.2)).map (·.1) ++
        (List.range (nb.toNat + 1)).map fun b => (placed.filter fun p => decide (p.2 < b)).length).flatMap (leBytes 4)
    let size := (bucket (s.peekRows (.ctx k c) pa (4 * n))).length
    s.rowAt (.ctx k c) k pc size 4 = .ok po → spansMeet po size lo (4 * n) = false →
    s.makeRoom (.ctx k c) k (pieceCount pc size) = .ok s0 → s0.loadRows (.ctx k c) pa (4 * n) = .ok (bs, s1) →
    let out := bucket bs
    s1.storeRows (.ctx k c) pc out = .ok t →
    exec (.bucket a b d) s = .next (t.onCtx k c fun x =>
      (x.setPtr d.toNat { addr := pc + BitVec.ofNat 64 out.length, stride := (x.ptr d.toNat).stride }).past t.time (n - 1))) ∧
  (∀ (s s1 t : State) (k c : Nat) (tn : BitVec 4) (a b : BitVec 3) tb n lo bs, s.cur = .ctx k c → rowTable s k c tn tb →
    let x := s.ctx k c
    s.rowRange (.ctx k c) k (x.ptr a.toNat).addr (x.ptr b.toNat).addr 4 = .ok (n, lo) →
    s.commit (.ctx k c) true = .ok s1 → s1.loadRows (.ctx k c) (x.ptr a.toNat).addr (4 * n) = .ok (bs, t) →
    let t' := (words32 bs).foldl (fun s key => s.useCount k (tb.ucbase + key)) t
    exec (.ucinc tn a b) s = .next (t'.onCtx k c fun y => listDone
      ((y.setPtr a.toNat { addr := (y.ptr b.toNat).addr, stride := (y.ptr a.toNat).stride }).past t'.time (n - 1)))) ∧
  (∀ (s : State) (k c n : Nat) (a b d : BitVec 3), s.quiet (.ctx k c) = true →
    let x := s.ctx k c
    let pa := (x.ptr a.toNat).addr
    let pb := (x.ptr b.toNat).addr
    let pc := (x.ptr d.toNat).addr
    pb.toNat = pa.toNat + 4 * n → pb.toNat ≤ 2 ^ 21 →
    let ids := words32 (s.ownBytes k pa (4 * n))
    (∀ v, pc.toNat % 4 = 0 → pc.toNat + 4 * n ≤ 2 ^ 21 → spansMeet pc.toNat (4 * n) pa.toNat (4 * n) = false →
      let out := distinct [] ids
      ∃ s1 t, s.storeRows (.ctx k c) pc (out.flatMap (leBytes 4)) = .ok s1 ∧
        (if v then s1.storeRows (.ctx k c) pa (ids.flatMap fun i => leBytes 4 (indexOf out i)) else .ok s1) = .ok t ∧
        exec (.dedup a b d v) s = .next (t.onCtx k c fun x =>
          (x.setPtr d.toNat { addr := pc + BitVec.ofNat 64 (4 * out.length), stride := (x.ptr d.toNat).stride }).past t.time (n - 1))) ∧
    (∀ m : Nat, 1 ≤ m → m ≤ 4096 → sext 32 (x.acc.toNat % 2 ^ 32) = m → pc.toNat % 4 = 0 → pc.toNat + 4 * (n + m + 1) ≤ 2 ^ 21 →
      spansMeet pc.toNat (4 * (n + m + 1)) pa.toNat (4 * n) = false →
      let placed := ((List.range n).zip ids).filter fun p => decide (p.2 < m)
      let out := ((placed.mergeSort fun p r => decide (p.2 ≤ r.2)).map (·.1) ++
        (List.range (m + 1)).map fun b => (placed.filter fun p => decide (p.2 < b)).length).flatMap (leBytes 4)
      ∃ t, s.storeRows (.ctx k c) pc out = .ok t ∧ exec (.bucket a b d) s = .next (t.onCtx k c fun x =>
        (x.setPtr d.toNat { addr := pc + BitVec.ofNat 64 out.length, stride := (x.ptr d.toNat).stride }).past t.time (n - 1))) ∧
    (∀ (tn : BitVec 4) tb, rowTable s k c tn tb →
      let t := ids.foldl (fun s key => s.useCount k (tb.ucbase + key)) s
      exec (.ucinc tn a b) s = .next (t.onCtx k c fun y => listDone
        ((y.setPtr a.toNat { addr := (y.ptr b.toNat).addr, stride := (y.ptr a.toNat).stride }).past t.time (n - 1)))))

namespace Sys2Proof.Says

/-- The rows a row word reads at pa, up to pb, lie in own tile memory, aligned: how many, and their offset. -/
def rowsAt (s : State) (k c : Nat) (pa pb : W64) (pitch align n lo : Nat) : Prop :=
  s.rowRange (.ctx k c) k pa pb pitch = .ok (n, lo) ∧ (n = 0 ∨ ∃ o, s.rowAt (.ctx k c) k pa (n * pitch) align = .ok o)

/-- A row word's end at TIME `now`: flags and generator collected, pa at pb, then pc past its n bytes. -/
def rowsEnd (now : Nat) (x : LCtx) (a b c : BitVec 3) (pc : W64) (n : Nat) (r : LaneRun) : LCtx :=
  let x := { x with num := { x.num.raise r.flags now with sr := r.sr } }
  let x := x.setPtr a.toNat { addr := (x.ptr b.toNat).addr, stride := (x.ptr a.toNat).stride }
  x.setPtr c.toNat { addr := pc + BitVec.ofNat 64 n, stride := (x.ptr c.toNat).stride }

end Sys2Proof.Says

/-- R178, R179: ROWADD, ROWSCL, ROWCVT and ROWDOT complete on readable, aligned rows that do not overlap: the rows they read, the
bytes they write, their flags and their pointers. With nothing under way, on rows of own tile memory, all four complete. -/
def Obligations.RowWordsComplete : Prop :=
  ∀ (s : State) (k c : Nat) (tn : BitVec 4) (a b d : BitVec 3) z r e tb n lo, s.cur = .ctx k c → rowTable s k c tn tb →
    let u : UnitId := .ctx k c
    let x := s.ctx k c
    let pa := (x.ptr a.toNat).addr
    let pb := (x.ptr b.toNat).addr
    let pc := (x.ptr d.toNat).addr
    let pitch := tb.len * ElemType.size e
    (∀ init po src s0 s1 old s2 t, rowsAt s k c pa pb pitch (ElemType.size e) n lo → s.rowAt u k pc pitch (ElemType.size e) = .ok po →
      spansMeet po pitch lo (n * pitch) = false → s.makeRoom u k (if init || n ≠ 0 then pieceCount pc pitch else 0) = .ok s0 →
      s0.loadRows u pa (n * pitch) = .ok (src, s1) →
      (if init || n = 0 then .ok (List.replicate pitch 0, s1) else s1.loadRows u pc pitch) = .ok (old, s2) →
      let rows := rowsOf e src pitch n
      let run := runLanes (s2.num u).sr ((List.range tb.len).map fun j g =>
        addColumn e r g ((unpackCodes e old).getD j 0) (rows.map fun row => row.getD j 0))
      (if init || n ≠ 0 then s2.storeRows u pc (packCodes e (run.lanes.map (·.1))) else .ok s2) = .ok t →
      exec (.rowadd z tn a b d init r e) s = .next (t.onCtx k c fun x => listDone ((rowsEnd t.time x a b d pc pitch run).past t.time (n * pitch / 32)))) ∧
    (∀ po src s0 s1 sc s2 t, rowsAt s k c pa pb pitch (ElemType.size e) n lo → s.rowAt u k pc (4 * n) 4 = .ok po →
      spansMeet po (4 * n) lo (n * pitch) = false → s.makeRoom u k (pieceCount pa (n * pitch)) = .ok s0 → s0.loadRows u pa (n * pitch) = .ok (src, s1) →
      s1.loadRows u pc (4 * n) = .ok (sc, s2) →
      let run := runLanes (s2.num u).sr (((rowsOf e src pitch n).zip (words32 sc)).flatMap fun (row, scale) =>
        row.map fun v g => finish e r g (exactMul (decodeNum e v) (decodeNum .fp32 scale)) fun _ => 0)
      s2.storeRows u pa (packCodes e (run.lanes.map (·.1))) = .ok t →
      exec (.rowscl z tn a b d r e) s = .next (t.onCtx k c fun x => listDone ((rowsEnd t.time x a b d pc (4 * n) run).past t.time (n * pitch / 32)))) ∧
    (∀ po src s0 s1 t, rowsAt s k c pa pb tb.rowb (ElemType.size tb.et) n lo → s.rowAt u k pc (n * pitch) (ElemType.size e) = .ok po →
      (spansMeet po (n * pitch) lo (n * tb.rowb) = true → po = lo ∧ ElemType.size e ≤ ElemType.size tb.et) →
      s.makeRoom u k (pieceCount pc (n * pitch)) = .ok s0 → s0.loadRows u pa (n * tb.rowb) = .ok (src, s1) →
      let run := runLanes (s1.num u).sr ((unpackCodes tb.et src).map fun v g => convert e tb.et r g v 31)
      s1.storeRows u pc (packCodes e (run.lanes.map (·.1))) = .ok t →
      exec (.rowcvt z tn a b d r e) s = .next (t.onCtx k c fun x => listDone
        ((rowsEnd t.time x a b d (if a = d then (x.ptr b.toNat).addr else (x.ptr d.toNat).addr) (n * pitch) run).past t.time (n * tb.rowb / 32)))) ∧
    (∀ po src s1 qs t, n ≤ 8 → rowsAt s k c pa pb pitch (ElemType.size e) n lo → s.rowAt u k pc pitch (ElemType.size e) = .ok po →
      s.loadRows u pa (n * pitch) = .ok (src, s1) → s1.loadRows u pc pitch = .ok (qs, t) →
      let run := runLanes (t.num u).sr ((rowsOf e src pitch n).map fun row g => dotRow e r g 0 24 (row.zip (unpackCodes e qs)))
      tagsHigh t k c run.lanes →
      exec (.rowdot z tn a b d r e) s = .next (t.onCtx k c fun x => listDone
        (((withLanes t.time x .fp32 (run.lanes ++ List.replicate (8 - n) (0, 24)) run.flags run.sr).setPtr a.toNat
          { addr := (x.ptr b.toNat).addr, stride := (x.ptr a.toNat).stride }).past t.time 0))) ∧
    (s.quiet u = true → pb.toNat = pa.toNat + n * pitch → pb.toNat ≤ 2 ^ 21 → (n = 0 ∨ pa.toNat % ElemType.size e = 0) →
      pc.toNat % ElemType.size e = 0 →
      let src := s.ownBytes k pa (n * pitch)
      (∀ init, pc.toNat + pitch ≤ 2 ^ 21 → spansMeet pc.toNat pitch pa.toNat (n * pitch) = false →
        let old := if init || n = 0 then List.replicate pitch 0 else s.ownBytes k pc pitch
        let run := runLanes (s.num u).sr ((List.range tb.len).map fun j g =>
          addColumn e r g ((unpackCodes e old).getD j 0) ((rowsOf e src pitch n).map fun row => row.getD j 0))
        ∃ t, (if init || n ≠ 0 then s.storeRows u pc (packCodes e (run.lanes.map (·.1))) else .ok s) = .ok t ∧
          exec (.rowadd z tn a b d init r e) s = .next (t.onCtx k c fun x => listDone
            ((rowsEnd t.time x a b d pc pitch run).past t.time (n * pitch / 32)))) ∧
      (pc.toNat % 4 = 0 → pc.toNat + 4 * n ≤ 2 ^ 21 → spansMeet pc.toNat (4 * n) pa.toNat (n * pitch) = false →
        let run := runLanes (s.num u).sr (((rowsOf e src pitch n).zip (words32 (s.ownBytes k pc (4 * n)))).flatMap fun (row, scale) =>
          row.map fun v g => finish e r g (exactMul (decodeNum e v) (decodeNum .fp32 scale)) fun _ => 0)
        ∃ t, s.storeRows u pa (packCodes e (run.lanes.map (·.1))) = .ok t ∧
          exec (.rowscl z tn a b d r e) s = .next (t.onCtx k c fun x => listDone
            ((rowsEnd t.time x a b d pc (4 * n) run).past t.time (n * pitch / 32)))) ∧
      (n ≤ 8 → pc.toNat + pitch ≤ 2 ^ 21 →
        let run := runLanes (s.num u).sr ((rowsOf e src pitch n).map fun row g =>
          dotRow e r g 0 24 (row.zip (unpackCodes e (s.ownBytes k pc pitch))))
        tagsHigh s k c run.lanes →
        exec (.rowdot z tn a b d r e) s = .next (s.onCtx k c fun x => listDone
          (((withLanes s.time x .fp32 (run.lanes ++ List.replicate (8 - n) (0, 24)) run.flags run.sr).setPtr a.toNat
            { addr := (x.ptr b.toNat).addr, stride := (x.ptr a.toNat).stride }).past s.time 0)))) ∧
    (s.quiet u = true → pb.toNat = pa.toNat + n * tb.rowb → pb.toNat ≤ 2 ^ 21 → (n = 0 ∨ pa.toNat % ElemType.size tb.et = 0) →
      pc.toNat % ElemType.size e = 0 → pc.toNat + n * pitch ≤ 2 ^ 21 → spansMeet pc.toNat (n * pitch) pa.toNat (n * tb.rowb) = false →
      let run := runLanes (s.num u).sr ((unpackCodes tb.et (s.ownBytes k pa (n * tb.rowb))).map fun v g => convert e tb.et r g v 31)
      ∃ t, s.storeRows u pc (packCodes e (run.lanes.map (·.1))) = .ok t ∧ exec (.rowcvt z tn a b d r e) s = .next (t.onCtx k c fun x => listDone
        ((rowsEnd t.time x a b d (if a = d then pb else pc) (n * pitch) run).past t.time (n * tb.rowb / 32))))

/-! ## Messages, activations, tasks (R180 to R197) -/

namespace Sys2Proof.Says

/-- The message that a SEND or SENDA of a context makes. -/
def sentMessage (k c ch : Nat) (d : MsgDest) (bs : List Byte) (rel : Bool) : Message :=
  { chan := ch, tag := d.tag, srcDev := Config.deviceNumber, srcCore := k, srcCtx := c, dstDev := d.dev, dstCore := d.core
    payload := bs, rq := d.rq, reply := d.reply, rel := rel }

/-- R181, R182: channel, address and payload pointer, bytes and REL of a send; SENDA's count is INT32 lane 1 of acc. -/
def sendWord (x : LCtx) : Instr → Option (Nat × Nat × Nat × Nat × Bool)
  | .send ch a b n l => some (ch.toNat, a.toNat, b.toNat, if n = 0 then 1024 else 32 * n.toNat, l)
  | .senda ch a b l =>
    let n := sext 32 (x.acc.toNat / 2 ^ 32)
    if 0 ≤ n ∧ n ≤ 1024 then some (ch.toNat, a.toNat, b.toNat, n.toNat, l) else none
  | _ => none

/-- The core whose network interface takes a write to a place (R148): of a scratchpad or cluster memory, the cluster's corner. -/
def placeCore (k : Nat) : Place → Nat
  | .tile j _ => j
  | .scratch cl _ | .cmem cl _ => cornerCore cl
  | .hbm pha => pha / 2 ^ 30
  | .reg j _ _ => j
  | _ => k

/-- R196: the task a join record pushes when its count reaches zero. -/
def continuation (s : State) (p : Place) (h : Nat) : Task :=
  { pc := BitVec.ofNat 32 (s.readPlace (p.add 4) 4), arg := BitVec.ofNat 64 (s.readPlace (p.add 8) 8), spawner := h, cont := true }

/-- R188: what HCTL makes of its channel's handler entry. -/
def hctlWord (x : LCtx) (now : Nat) (h : Handler) : Instr → Option (Nat × Handler)
  | .hctlMask ch => some (ch.toNat, { h with mask := true })
  | .hctlUnmask ch => some (ch.toNat, if h.mask then { h with mask := false, epri := h.pri, age := now } else h)
  | .hctlPrio p ch => some (ch.toNat, { h with pri := p, epri := BitVec.ofNat 3 (min 7 (p.toNat + (h.epri.toNat - h.pri.toNat))) })
  | .hctlBind n ch =>
    if (x.ptr n.toNat).addr.toNat % 4 = 0 then some (ch.toNat, { h with valid := true, entry := (x.ptr n.toNat).addr.setWidth 32 }) else none
  | _ => none

end Sys2Proof.Says

/-- R149, R181 to R184: a send to a channel 0 to 55 with a readable payload completes when a VN0 entry is free (and, where it asks
for a reply, reply space): it reserves that space and hands over the message, which a replayable activation with room holds and which else leaves
by the network. With all 16 entries claimed it is SENDQ_FULL. REPLY
completes once in an activation whose message asked for a reply, with a VN1 entry free: it goes to the sender on the reply channel,
with the route tag. With nothing under way, on payloads of own tile memory, all three leave at once. -/
def Obligations.SendAndReplyComplete : Prop :=
  (∀ (s : State) (k c : Nat), s.cur = .ctx k c → ∀ (i : Instr) ch a b n l, sendWord (s.ctx k c) i = some (ch, a, b, n, l) →
  ∀ d bs t, ch ≤ 55 → s.msgDest (.ctx k c) k ((s.ctx k c).ptr a).addr = .ok d →
    s.payloadAt (.ctx k c) k ((s.ctx k c).ptr b).addr n = .ok (bs, t) →
    (s.claims k false < 16 → (d.rq = true → (s.core k).resv < 32) →
      let t' := if d.rq then t.onCore k fun q => { q with resv := q.resv + 1 } else t
      ∀ t2, t'.emit (.ctx k c) k (sentMessage k c ch d bs l) = .ok t2 → exec i s = .next (t2.past (.ctx k c) 0)) ∧
    (16 ≤ s.claims k false → exec i s = .next ((s.dropDelivered (.ctx k c)).raise (.ctx k c) .sendqFull 0)) ∧
    (s.claims k false < 16 → d.rq = true → 32 ≤ (s.core k).resv →
      exec i s = .next ((s.setWait (.ctx k c) .retry).setReadyAt (.ctx k c) (s.time + 1)))) ∧
  (∀ (s t : State) (k c : Nat) (b : BitVec 3) (n : BitVec 5) l a bs, s.cur = .ctx k c → (s.ctx k c).act = some a →
    a.msg.rq = true → a.replied = false →
    s.payloadAt (.ctx k c) k ((s.ctx k c).ptr b.toNat).addr (if n = 0 then 1024 else 32 * n.toNat) = .ok (bs, t) →
    t.claims k true < 16 →
    let m : Message :=
      { chan := a.msg.reply, tag := a.msg.tag, srcDev := Config.deviceNumber, srcCore := k, srcCtx := c, dstDev := a.msg.srcDev
        dstCore := a.msg.srcCore, payload := bs, vn1 := true, rel := l }
    ∀ t2, (t.onCtx k c fun x => { x with act := x.act.map fun a => { a with replied := true } }).emit (.ctx k c) k m = .ok t2 →
      exec (.reply b n l) s = .next (t2.past (.ctx k c) 0)) ∧
  (∀ (s : State) (k c : Nat) (m : Message),
    let m' := { m with id := s.nextId }
    (∀ a, s.replayable (.ctx k c) = some a → a.heldMsgs k < 16 →
      s.emit (.ctx k c) k m = .ok (s.stamp.hold (.ctx k c) (.msg m'))) ∧
    (s.replayable (.ctx k c) = none → m.rel = false → s.emit (.ctx k c) k m = .ok (s.stamp.enqueue k m'))) ∧
  (∀ (s : State) (k c : Nat), s.quiet (.ctx k c) = true →
    let u : UnitId := .ctx k c
    let x := s.ctx k c
    (∀ (i : Instr) ch a b n l d, sendWord x i = some (ch, a, b, n, l) → ch ≤ 55 → s.msgDest u k (x.ptr a).addr = .ok d →
      (x.ptr b).addr.toNat % 32 = 0 → (x.ptr b).addr.toNat + max n 1 ≤ 2 ^ 21 → s.claims k false < 16 → (d.rq = true → (s.core k).resv < 32) →
      let t := if d.rq then s.onCore k fun q => { q with resv := q.resv + 1 } else s
      exec i s = .next ((t.stamp.enqueue k { sentMessage k c ch d (s.ownBytes k (x.ptr b).addr n) l with id := s.nextId }).past u 0)) ∧
    (∀ (b : BitVec 3) (n : BitVec 5) l a, x.act = some a → a.msg.rq = true → a.replied = false → (x.ptr b.toNat).addr.toNat % 32 = 0 →
      (x.ptr b.toNat).addr.toNat + unitBytes n ≤ 2 ^ 21 → s.claims k true < 16 →
      let m : Message :=
        { chan := a.msg.reply, tag := a.msg.tag, srcDev := Config.deviceNumber, srcCore := k, srcCtx := c, dstDev := a.msg.srcDev
          dstCore := a.msg.srcCore, payload := s.ownBytes k (x.ptr b.toNat).addr (unitBytes n), vn1 := true, rel := l, id := s.nextId }
      exec (.reply b n l) s = .next (((s.onCtx k c fun x => { x with act := some { a with replied := true } }).stamp.enqueue k m).past u 0)))



/-- R148, R185: a PUT of a transform below 8 to writable memory, aligned to its words, completes when a VN0 entry is free and the
order of its pages' types lets it: it hands over its payload for the core that holds its destination, at once where nothing of the
context is under way. A transform of 8 or more is ILLEGAL. -/
def Obligations.PutCompletes : Prop :=
  (∀ (s s1 t : State) (k c : Nat) cnt (ck a b : BitVec 3) (n : BitVec 5) (xf : BitVec 4) l p ps bs, s.cur = .ctx k c →
    let da := ((s.ctx k c).ptr a.toNat).addr
    xf.toNat < 8 → ((xf.toNat ≠ 0 ∨ cnt = true) → addrSpace da = 1) → da.toNat % xfAlign xf.toNat = 0 →
    (addrSpace da = 4 → da.toNat % 32 = 0) →
    s.locate (s.who (.ctx k c)) da (xfBytes xf.toNat (unitBytes n)) .w = .ok (p :: ps, s1) →
    (∀ kk cl o, p.place = .reg kk cl o → ∀ i < xfBytes xf.toNat (unitBytes n) / 32,
      ∃ r, s1.writeRegs (.ctx k c) kk cl (o + 32 * i) (List.replicate 32 0) = .ok r) →
    s1.payloadAt (.ctx k c) k ((s.ctx k c).ptr b.toNat).addr (unitBytes n) = .ok (bs, t) → t.claims k false < 16 →
    let mt := (p :: ps).foldl (fun t p => max t p.mtype) 0
    t.inOrder (.ctx k c) mt = true →
    let m : Message :=
      { srcDev := Config.deviceNumber, srcCore := k, srcCtx := c, dstDev := Config.deviceNumber, dstCore := placeCore k p.place
        payload := bs, rel := l
        put := some { parts := (p :: ps).map fun q => (q.place, q.len), name := p.name, xf := xf.toNat
                      counter := if cnt then some ck.toNat else none, mtype := mt, dvas := (p :: ps).filterMap Part.dva } }
    ∀ t2, t.emit (.ctx k c) k m = .ok t2 → exec (.put cnt ck a b n xf l) s = .next (t2.past (.ctx k c) 0)) ∧
  (∀ (s : State) (k c : Nat) cnt (ck a b : BitVec 3) (n : BitVec 5) (xf : BitVec 4) l, s.cur = .ctx k c → 8 ≤ xf.toNat →
    exec (.put cnt ck a b n xf l) s = .next ((s.dropDelivered (.ctx k c)).raise (.ctx k c) .illegal 0)) ∧
  (∀ (s : State) (k c : Nat) cnt (ck a b : BitVec 3) (n : BitVec 5) (xf : BitVec 4) l p, s.quiet (.ctx k c) = true →
    let u : UnitId := .ctx k c
    let da := ((s.ctx k c).ptr a.toNat).addr
    let pb := ((s.ctx k c).ptr b.toNat).addr
    let len := xfBytes xf.toNat (unitBytes n)
    xf.toNat < 8 → ((xf.toNat ≠ 0 ∨ cnt = true) → addrSpace da = 1) → da.toNat % xfAlign xf.toNat = 0 → addrSpace da ≠ 4 →
    s.resolve (s.who u) da len = .ok (.inl p) → p.onDevice = true → pb.toNat % 32 = 0 → pb.toNat + unitBytes n ≤ 2 ^ 21 → s.claims k false < 16 →
    let m : Message :=
      { srcDev := Config.deviceNumber, srcCore := k, srcCtx := c, dstDev := Config.deviceNumber, dstCore := placeCore k p
        payload := s.ownBytes k pb (unitBytes n), rel := l, id := s.nextId
        put := some { parts := [(p, len)], name := nameOf (s.who u) da, xf := xf.toNat, counter := if cnt then some ck.toNat else none } }
    exec (.put cnt ck a b n xf l) s = .next ((s.stamp.enqueue k m).past u 0))

/-- R147, R187, R193 to R196: HEND releases what the activation holds and frees the context, COMMIT releases it and goes on; HEND of a task's
activation is SPACE. SPAWN counts the task in its join record and pushes it; TEND counts it off, or ends; JOIN goes on at once when the
record counts none, else registers its continuation and ends. With nothing under way all of them complete at once. That a continuation counts
off no record, and its spawner, are the model's readings (logs 32, 110). -/
def Obligations.EndsAndTasks : Prop :=
  (∀ (s : State) (k c : Nat), s.cur = .ctx k c →
    let u : UnitId := .ctx k c
    ((s.ctx k c).act = none → exec .hend s = .next ((s.endActivation k c).dropDelivered u) ∧ exec .commit s = .next (s.past u 0)) ∧
    (∀ a, (s.ctx k c).act = some a → a.chan ≠ 61 → a.held = [] →
      ∃ t, exec .hend s = .next t ∧ (t.ctx k c).live = false ∧ (t.ctx k c).act = none) ∧
    (∀ a t, (s.ctx k c).act = some a → a.chan ≠ 61 → s.commit u false = .ok t →
      exec .hend s = .next ((t.endActivation k c).dropDelivered u)) ∧
    (∀ a, (s.ctx k c).act = some a → a.chan = 61 → exec .hend s = .next ((s.dropDelivered u).raise u .space 0)) ∧
    (∀ t, s.commit u false = .ok t → exec .commit s = .next (t.past u 0))) ∧
  ((∀ (s t t1 : State) (k c : Nat) (b : BitVec 3) (o : BitVec 22) lo bs p, s.cur = .ctx k c →
    let tcb := ((s.ctx k c).ptr b.toNat).addr
    s.ownOffset (.ctx k c) k tcb 64 = .ok lo → tcb.toNat % 64 = 0 → s.load (.ctx k c) tcb 8 = .ok (bs, t) →
    t.joinPlace (.ctx k c) (bytesW64 bs 0) = .ok p → (t.core k).deque.length < t.dequeRoom k → t.commit (.ctx k c) true = .ok t1 →
    let t2 := t1.atRecord (.ctx k c) (bytesW64 bs 0) p
    exec (.spawn b o) s = .next (((t2.writePlace p (leBytes 4 (t2.readPlace p 4 + 1)) none).pushTask k
      { pc := (s.ctx k c).pc + 4 * o.signExtend 32, arg := tcb, spawner := k }).past (.ctx k c) 0)) ∧
  (∀ (s t0 t : State) (k c : Nat) a, s.cur = .ctx k c → (s.ctx k c).act = some a → a.chan = 61 →
    s.commit (.ctx k c) false = .ok t0 → t0.release (.ctx k c) = .ok t →
    (a.join = none → exec .tend s = .next ((t.endTask k c).dropDelivered (.ctx k c))) ∧
    (∀ j p, a.join = some j → t.joinPlace (.ctx k c) j = .ok p →
      let t := t.atRecord (.ctx k c) j p
      let w := t.readPlace p 4
      (1 ≤ w % 2 ^ 31 → ¬ (w % 2 ^ 31 = 1 ∧ 2 ^ 31 ≤ w) →
        exec .tend s = .next (((t.writePlace p (leBytes 4 (w - 1)) none).endTask k c).dropDelivered (.ctx k c))) ∧
      (w % 2 ^ 31 = 0 → exec .tend s = .next ((t.dropDelivered (.ctx k c)).raise (.ctx k c) .dequeOverflow 0)))) ∧
  (∀ (s t0 : State) (k c : Nat) (b : BitVec 3) (o : BitVec 22) p, s.cur = .ctx k c →
    let j := ((s.ctx k c).ptr b.toNat).addr
    s.joinPlace (.ctx k c) j = .ok p → s.commit (.ctx k c) true = .ok t0 →
    let t := t0.atRecord (.ctx k c) j p
    let target := (s.ctx k c).pc + 4 * o.signExtend 32
    let w := t.readPlace p 4
    (w % 2 ^ 31 = 0 → target.toNat < t.streamLen (.ctx k c) →
      exec (.join b o) s = .next ((t.retireTo (.ctx k c) target 0).dropDelivered (.ctx k c))) ∧
    (∀ t1, 1 ≤ w → w < 2 ^ 31 → t.release (.ctx k c) = .ok t1 → exec (.join b o) s = .next
      (((t1.writePlace p (leBytes 4 (w + 2 ^ 31) ++ leBytes 4 target.toNat ++ leBytes 8 j.toNat) none).endTask k c).dropDelivered
        (.ctx k c))) ∧
    (2 ^ 31 < w → w % 2 ^ 31 ≠ 0 → exec (.join b o) s = .next ((t.dropDelivered (.ctx k c)).raise (.ctx k c) .dequeOverflow 0)))) ∧
  (∀ (s : State) (k c : Nat), s.quiet (.ctx k c) = true →
    let u : UnitId := .ctx k c
    let x := s.ctx k c
    (exec .commit s = .next (s.past u 0)) ∧
    (∀ a, x.act = some a → a.chan ≠ 61 → exec .hend s = .next ((s.endActivation k c).dropDelivered u)) ∧
    (∀ (b : BitVec 3) (o : BitVec 22) p,
      let tcb := (x.ptr b.toNat).addr
      let j := bytesW64 (s.ownBytes k tcb 8) 0
      tcb.toNat % 64 = 0 → tcb.toNat + 64 ≤ 2 ^ 21 → s.joinPlace u j = .ok p → (s.core k).deque.length < s.dequeRoom k →
      exec (.spawn b o) s = .next (((s.writePlace p (leBytes 4 (s.readPlace p 4 + 1)) none).pushTask k
        { pc := x.pc + 4 * o.signExtend 32, arg := tcb, spawner := k }).past u 0)) ∧
    (∀ a, x.act = some a → a.chan = 61 →
      (a.join = none → exec .tend s = .next ((s.endTask k c).dropDelivered u)) ∧
      (∀ j p, a.join = some j → s.joinPlace u j = .ok p →
        let w := s.readPlace p 4
        (1 ≤ w % 2 ^ 31 → w ≠ 2 ^ 31 + 1 →
          exec .tend s = .next (((s.writePlace p (leBytes 4 (w - 1)) none).endTask k c).dropDelivered u)) ∧
        (∀ h off, p = .tile h off → w = 2 ^ 31 + 1 → (s.core h).deque.length < s.dequeRoom h →
          let t := s.writePlace p (leBytes 4 0) none
          exec .tend s = .next (((t.pushTask h (continuation t p h)).endTask k c).dropDelivered u)))) ∧
    (∀ (b : BitVec 3) (o : BitVec 22) p,
      let j := (x.ptr b.toNat).addr
      let target := x.pc + 4 * o.signExtend 32
      s.joinPlace u j = .ok p →
      (s.readPlace p 4 % 2 ^ 31 = 0 → target.toNat < s.streamLen u →
        exec (.join b o) s = .next ((s.retireTo u target 0).dropDelivered u)) ∧
      (1 ≤ s.readPlace p 4 → s.readPlace p 4 < 2 ^ 31 → exec (.join b o) s = .next
        (((s.writePlace p (leBytes 4 (s.readPlace p 4 + 2 ^ 31) ++ leBytes 4 target.toNat ++ leBytes 8 j.toNat) none).endTask k c).dropDelivered u))))



/-- R188, R189, R191: HCTL of channels 0 to 55, 61 and 62 commits the activation, then changes the handler entry as that leaves it; 56 to 60 are SPACE, 63
PRIV. WAITC completes when the counter has reached n and takes n from it, else it sleeps; WAITT completes when TIME has reached its
56-bit target, else it sleeps. What the change does to a
channel's aged priority is the model's reading (log 30). -/
def Obligations.HctlAndWaits : Prop :=
  (∀ (s : State) (k c : Nat), s.cur = .ctx k c → ∀ (i : Instr) ch h,
    hctlWord (s.ctx k c) s.time ((s.core k).aged s.time ch) i = some (ch, h) →
    ((ch < 56 ∨ ch = 61 ∨ ch = 62) →
      ∀ t g, s.commit (.ctx k c) true = .ok t → hctlWord (t.ctx k c) t.time ((t.core k).aged t.time ch) i = some (ch, g) →
        exec i s = .next ((t.onCore k fun x => x.setHandler ch g t.time).past (.ctx k c) 0)) ∧
    (56 ≤ ch → ch ≤ 60 → exec i s = .next ((s.dropDelivered (.ctx k c)).raise (.ctx k c) .space 0)) ∧
    (ch = 63 → exec i s = .next ((s.dropDelivered (.ctx k c)).raise (.ctx k c) .priv 0)) ∧
    ((ch < 56 ∨ ch = 61 ∨ ch = 62) → s.quiet (.ctx k c) = true →
      exec i s = .next ((s.onCore k fun x => x.setHandler ch h s.time).past (.ctx k c) 0))) ∧
  (∀ (s : State) (k c : Nat), s.cur = .ctx k c →
    (∀ (ck : BitVec 3) (n : BitVec 20),
      let v := Tab.get 0 (s.core k).landing ck.toNat
      (n.toNat ≤ v.toNat → exec (.waitc ck n) s = .next
        ((s.onCore k fun x => { x with landing := Tab.set x.landing ck.toNat (v - n.setWidth 32) }).past (.ctx k c) 0)) ∧
      (v.toNat < n.toNat → exec (.waitc ck n) s = .next
        ((s.setWait (.ctx k c) (.counter ck.toNat n.toNat)).setReadyAt (.ctx k c) (s.time + 1)))) ∧
    (∀ n : BitVec 3,
      let t := bits ((s.ctx k c).ptr n.toNat).addr.toNat 55 0
      ((s.time + 2 ^ 56 - t) % 2 ^ 56 < 2 ^ 55 → exec (.waitt n) s = .next (s.past (.ctx k c) 0)) ∧
      (2 ^ 55 ≤ (s.time + 2 ^ 56 - t) % 2 ^ 56 → exec (.waitt n) s = .next
        ((s.setWait (.ctx k c) (.untilTime t)).setReadyAt (.ctx k c) (s.time + 1)))))

/-- R197: WLIST.PUSH appends 16 bytes of own tile memory, 256 at most, else DEQUE_OVERFLOW; WLIST.POP takes the oldest, or sets Z
when there is none. -/
def Obligations.WorkListWords : Prop :=
  ∀ (s : State) (k c : Nat) (a : BitVec 3), s.cur = .ctx k c →
    let ad := ((s.ctx k c).ptr a.toNat).addr
    s.worklistAt (.ctx k c) k ad = .ok () →
    (256 ≤ (s.core k).worklist.length → exec (.wlistPush a) s = .next ((s.dropDelivered (.ctx k c)).raise (.ctx k c) .dequeOverflow 0)) ∧
    (∀ t, s.commit (.ctx k c) true = .ok t →
      (∀ bs t', (s.core k).worklist.length < 256 → t.load (.ctx k c) ad 16 = .ok (bs, t') →
        exec (.wlistPush a) s = .next ((t'.onCore k fun x =>
          { (if x.worklist.isEmpty then x.wake 62 t'.time else x) with worklist := x.worklist ++ [bs] }).past (.ctx k c) 0)) ∧
      ((t.core k).worklist = [] → exec (.wlistPop a) s = .next (t.onCtx k c fun x => ({ x with f := { x.f with z := true } } : LCtx).past t.time 0)) ∧
      (∀ w ws t', (t.core k).worklist = w :: ws → t.store (.ctx k c) ad w = .ok t' →
        exec (.wlistPop a) s = .next ((t'.onCore k fun x => { x with worklist := ws }).onCtx k c fun x =>
          ({ x with f := { x.f with z := false } } : LCtx).past t'.time 0))) ∧
    (s.quiet (.ctx k c) = true → ad.toNat + 16 ≤ 2 ^ 21 →
      ((s.core k).worklist.length < 256 → exec (.wlistPush a) s = .next ((s.onCore k fun x =>
        { (if x.worklist.isEmpty then x.wake 62 s.time else x) with worklist := x.worklist ++ [s.ownBytes k ad 16] }).past (.ctx k c) 0)) ∧
      (∀ w ws, (s.core k).worklist = w :: ws → w.length ≤ 16 → ∃ t, s.store (.ctx k c) ad w = .ok t ∧
        exec (.wlistPop a) s = .next ((t.onCore k fun x => { x with worklist := ws }).onCtx k c fun x =>
          ({ x with f := { x.f with z := false } } : LCtx).past t.time 0)))


/-! ## Atomics, fences, barriers, markers, epochs and SYS of the lookup stream (R198 to R206) -/

/-- R198, R200, R201: an AMO at an aligned address commits the activation, performs its read-modify-write, leaves the old word in lane 0
with its tag, and sets Z or C where its operation does; AMOV completes when all eight lanes are performed, each once, and clears
LANEDONE. With nothing under way, on words of own tile memory, both complete at once. -/
def Obligations.LookupAtomicsComplete : Prop :=
  ((∀ (s s0 t : State) (k c : Nat) op sc e (a : BitVec 3) q l old, s.cur = .ctx k c →
    let ad := ((s.ctx k c).ptr a.toNat).addr
    ad.toNat % 4 = 0 → s.beforeAmo (.ctx k c) l Except.ok = .ok s0 →
    let v := (s0.ctx k c).accLane 0
    let cmp := (s0.ctx k c).accLane 1
    let r := amoOp op 32 old v cmp
    s0.amo (.ctx k c) sc ad op false (BitVec.ofNat 64 v) (BitVec.ofNat 64 cmp) q = .ok (old, t) →
    exec (.lAmo op sc e a q l) s = .next (t.onCtx k c fun x =>
      let x := { x with num := x.num.raise r.2.2.2 t.time }.setLane 0 old (amoTag op)
      ({ x with f := { x.f with z := r.2.1.getD x.f.z, c := r.2.2.1.getD x.f.c } } : LCtx).past t.time 0)) ∧
  (∀ (s : State) (k c : Nat) op sc e (a : BitVec 3) q l, s.cur = .ctx k c →
    let ad := ((s.ctx k c).ptr a.toNat).addr
    ad.toNat % 4 ≠ 0 →
    exec (.lAmo op sc e a q l) s = .next ((s.dropDelivered (.ctx k c)).raise (.ctx k c) .align ad) ∧
    exec (.amov op sc e a q l) s = .next ((s.dropDelivered (.ctx k c)).raise (.ctx k c) .align ad))) ∧
  (∀ (s s0 t : State) (k c : Nat) op sc e (a : BitVec 3) q l, s.cur = .ctx k c →
    let ad := ((s.ctx k c).ptr a.toNat).addr
    ad.toNat % 4 = 0 → s.beforeAmo (.ctx k c) l Except.ok = .ok s0 → s0.amovLoop k c sc op ad q 0 8 = (t, none) →
    exec (.amov op sc e a q l) s = .next (t.onCtx k c fun x => ({ x with laneDone := 0 } : LCtx).past t.time 0)) ∧
  (∀ (s : State) (k c : Nat) op sc e (a : BitVec 3) q l, s.quiet (.ctx k c) = true → sc ≠ .system →
    let x := s.ctx k c
    let ad := (x.ptr a.toNat).addr
    let old (i : Nat) : Nat := leNat (s.ownBytes k (ad + BitVec.ofNat 64 (4 * i)) 4)
    ad.toNat % 4 = 0 →
    (ad.toNat + 4 ≤ 2 ^ 21 →
      let r := amoOp op 32 (old 0) (x.accLane 0) (x.accLane 1)
      let t := s.writePlace (.tile k ad.toNat) (leBytes 4 r.1) none
      exec (.lAmo op sc e a q l) s = .next (t.onCtx k c fun x =>
        let x := { x with num := x.num.raise r.2.2.2 t.time }.setLane 0 (old 0) (amoTag op)
        ({ x with f := { x.f with z := r.2.1.getD x.f.z, c := r.2.2.1.getD x.f.c } } : LCtx).past t.time 0)) ∧
    (ad.toNat + 32 ≤ 2 ^ 21 → x.laneDone = 0 →
      ∃ t, exec (.amov op sc e a q l) s = .next t ∧ (t.ctx k c).pc = x.pc + 4 ∧ (t.ctx k c).laneDone = 0 ∧
        ∀ i < 8, (t.ctx k c).accLane i = old i ∧ (CanonicalMemory s →
          t.ownBytes k (ad + BitVec.ofNat 64 (4 * i)) 4 = leBytes 4 (amoOp op 32 (old i) (x.accLane i) 0).1)))


/-- R14, R37, R202 to R206: FENCE is held by a replayable activation and otherwise takes effect; BAR arrives or waits; MARK places markers and
retires at once; TEPOCH advances the table's epoch when epoch e - k has no row operation outstanding, else sleeps. TIME reads 56 bits of
TIME, or DEVNS; YIELD gives up its slots; NOP changes nothing but its unit's PC; CRR and CRW read and write a control register. With
nothing under way, those that commit or release complete at once. -/
def Obligations.LookupSynchronisationAndSystem : Prop :=
  (∀ (s : State) (k c : Nat), s.cur = .ctx k c →
    let u : UnitId := .ctx k c
    (∀ f sc a, s.replayable u = some a → exec (.lFence f sc) s = .next ((s.hold u (.fence (FenceKind.num f) 0)).past u 0)) ∧
    (∀ f sc s', s.replayable u = none → s.fence u f = .ok s' → exec (.lFence f sc) s = .next (s'.past u 0)) ∧
    (∀ op (slot : BitVec 4) b seen waits,
      let started := decide (s.wait u = .barrier slot.toNat)
      barStep op started slot.toNat (Tab.get {} (s.core k).bar slot.toNat) (s.ctx k c).barSeen = some (b, seen, waits) →
      ∀ t, s.beforeAmo u (barArrives op started) Except.ok = .ok t →
      let t' := (t.onCore k fun x => { x with bar := Tab.set x.bar slot.toNat b }).onCtx k c fun x => { x with barSeen := seen }
      exec (.lBar op slot) s = .next (if waits then (t'.setWait u (.barrier slot.toNat)).dropDelivered u else t'.past u 0)) ∧
    (∀ op (slot : BitVec 4), (Tab.get {} (s.core k).bar slot.toNat).valid = false →
      exec (.lBar op slot) s = .next ((s.dropDelivered u).raise u .barrier 0)) ∧
    (∀ (m : BitVec 8) t, s.commit u true = .ok t → exec (.lMark m) s = .next ((t.mark (some u) (clusterOf k) (t.launchId u) m.toNat).past u 0)) ∧
    (∀ (n : BitVec 4) tb t, s.table k n = .ok tb → s.commit u true = .ok t →
      let left := Tab.get 0 (t.core k).acks (4 * n.toNat + (tb.epoch - BitVec.ofNat 32 tb.k).toNat % 4)
      (left = 0 → exec (.tepoch n) s = .next ((t.onCore k fun x =>
        let d : TDesc := Tab.get {} x.tdesc n.toNat
        { x with tdesc := Tab.set x.tdesc n.toNat { d with epoch := d.epoch + 1 } }).past u 0)) ∧
      (left ≠ 0 → exec (.tepoch n) s = .next ((t.setWait u (.epoch n.toNat)).dropDelivered u)))) ∧
  ((∀ (s : State) (k c : Nat), s.cur = .ctx k c →
    (∀ ns (n : BitVec 3), exec (.lSysTime ns n) s = .next (s.onCtx k c fun x =>
      (x.setPtr n.toNat { addr := if ns then s.devns else BitVec.ofNat 64 (s.time % 2 ^ 56), stride := (x.ptr n.toNat).stride }).past s.time 0)) ∧
    (∀ n : BitVec 20, exec (.sysYield n) s = .next (s.onCtx k c fun x => x.past s.time n.toNat)) ∧
    (∀ (n : BitVec 3) (r : BitVec 10) v, s.readCr (.ctx k c) r.toNat = .ok v →
      exec (.lSysCrr n r) s = .next (s.onCtx k c fun x =>
        (x.setPtr n.toNat { addr := BitVec.ofNat 64 v, stride := (x.ptr n.toNat).stride }).past s.time 0)) ∧
    (∀ (n : BitVec 3) (r : BitVec 10) v t0 t, s.readCr (.ctx k c) r.toNat = .ok v → s.commit (.ctx k c) true = .ok t0 →
      t0.writeCr (.ctx k c) r.toNat ((s.ctx k c).ptr n.toNat).addr.toNat = .ok t →
      exec (.lSysCrw n r) s = .next (t.past (.ctx k c) 0))) ∧
  (∀ s : State, exec .nop s = .next (s.retire s.cur 0))) ∧
  (∀ (s : State) (k c : Nat), s.quiet (.ctx k c) = true →
    let u : UnitId := .ctx k c
    (∀ f sc, exec (.lFence f sc) s = .next (s.past u 0)) ∧
    (∀ op (slot : BitVec 4) b seen waits,
      barStep op (decide (s.wait u = .barrier slot.toNat)) slot.toNat (Tab.get {} (s.core k).bar slot.toNat) (s.ctx k c).barSeen = some (b, seen, waits) →
      let t := (s.onCore k fun x => { x with bar := Tab.set x.bar slot.toNat b }).onCtx k c fun x => { x with barSeen := seen }
      exec (.lBar op slot) s = .next (if waits then (t.setWait u (.barrier slot.toNat)).dropDelivered u else t.past u 0)) ∧
    (∀ m : BitVec 8, exec (.lMark m) s = .next ((s.mark (some u) (clusterOf k) (s.launchId u) m.toNat).past u 0)) ∧
    (∀ (n : BitVec 4) tb, s.table k n = .ok tb →
      Tab.get 0 (s.core k).acks (4 * n.toNat + (tb.epoch - BitVec.ofNat 32 tb.k).toNat % 4) = 0 →
      exec (.tepoch n) s = .next ((s.onCore k fun x =>
        let d : TDesc := Tab.get {} x.tdesc n.toNat
        { x with tdesc := Tab.set x.tdesc n.toNat { d with epoch := d.epoch + 1 } }).past u 0)) ∧
    (∀ (n : BitVec 3) (r : BitVec 10) t, s.writeCr u r.toNat ((s.ctx k c).ptr n.toNat).addr.toNat = .ok t →
      exec (.lSysCrw n r) s = .next (t.past u 0)))



/-- R206, R361, R362, R366: TRAP of a lookup context outside a handler whose node has a vector and whose save area is in place takes the
trap: the context is saved there, TRAPCODE, TRAPPC and cause TRAP are set, INTRAP is set, and it goes on at the vector. TRET in a handler
whose save area is in place, sound and holds a word address inside the stream restores the context from it, the handler's own stores to
it performed or seen, clears INTRAP and goes on there; outside a handler it is ILLEGAL. -/
def Obligations.LookupTraps : Prop :=
  (∀ (s : State) (k c : Nat) (code : BitVec 20) n vec, s.cur = .ctx k c → s.nodeOf (.ctx k c) = some n →
    (s.ctx k c).trap.intrap = false → (n.stream 0).2.2.2 = vec → vec ≠ 0xFFFFFFFF → vec % 4 = 0 →
    let x := s.ctx k c
    x.trap.save.toNat % 32 = 0 → x.trap.save.toNat + 256 ≤ 2 ^ 21 →
    exec (.lSysTrap code) s = .next
      ((s.writePlace (.tile k x.trap.save.toNat) (x.saveBytes (x.pc + 4)) none).onCtx k c fun y =>
        { y with
          pc := BitVec.ofNat 32 vec, wait := .none, readyAt := s.time, turns := 0
          trap := { x.trap with code := code, src := 0, intrap := true, cause := 0x16, pc := x.pc, addr := 0, seq := 0 } })) ∧
  (∀ (s : State) (k c : Nat), s.cur = .ctx k c →
    let u : UnitId := .ctx k c
    let save := (s.ctx k c).trap.save.toNat
    let t := s.performFlights fun f => f.who == u && s.samePlace f.place (.tile k save) 256
    let x := t.ctx k c
    ((x.trap.intrap = false → exec .lSysTret s = .next (t.raise u .illegal 0)) ∧
    (x.trap.intrap = true → x.trap.save.toNat = save → save % 32 = 0 → save + 256 ≤ 2 ^ 21 →
      let a := t.tileKey k save
      let t' := t.countSoft a 256
      t'.poisoned a 256 = false →
      let bs := t.ownView u { place := .tile k save, len := 256, name := BitVec.ofNat 64 save } (t'.readKey a 256)
      let pc : W32 := (bytesW64 bs 0xC8).setWidth 32
      pc.toNat % 4 = 0 → pc.toNat < t'.streamLen u →
      exec .lSysTret s = .next (t'.onCtx k c fun y =>
        { y with
          acc := BitVec.ofNat 256 (leNat (bs.take 32))
          accTags := ((bs.drop 32).take 32).map untagByte
          p := (List.range 8).map fun n => (n, { addr := bytesW64 bs (0x40 + 16 * n), stride := (bytesW64 bs (0x48 + 16 * n)).setWidth 19 })
          f := Cond4.ofCode (leNat ((bs.drop 0xC0).take 1)), pc := pc, bad := []
          trap := { x.trap with intrap := false }, wait := .none, readyAt := t'.time + 1 }))))


/-! ## The scalar sequencer and the supervisor cores (R222 to R232) -/

namespace Sys2Proof.Says

/-- The units that run scalar words: a dense core's scalar sequencer and a supervisor core (R25). -/
def scalarUnit : UnitId → Bool
  | .scalar _ | .sup _ => true
  | _ => false

/-- R225 to R227: wait field, destination, registers read, latency (none: variable) and value of an integer word. -/
def integerWord : Instr → Option (BitVec 3 × BitVec 5 × List (BitVec 5) × Option Nat × ((BitVec 5 → W64) → W64))
  | .add _ w d a b => some (w, d, [a, b], some 1, fun r => r a + r b)
  | .sub _ w d a b => some (w, d, [a, b], some 1, fun r => r a - r b)
  | .and _ w d a b => some (w, d, [a, b], some 1, fun r => r a &&& r b)
  | .or _ w d a b => some (w, d, [a, b], some 1, fun r => r a ||| r b)
  | .xor _ w d a b => some (w, d, [a, b], some 1, fun r => r a ^^^ r b)
  | .shl _ w d a b => some (w, d, [a, b], some 1, fun r => r a <<< ((r b).toNat % 64))
  | .shr _ w d a b => some (w, d, [a, b], some 1, fun r => r a >>> ((r b).toNat % 64))
  | .sra _ w d a b => some (w, d, [a, b], some 1, fun r => (r a).sshiftRight ((r b).toNat % 64))
  | .mul _ w d a b => some (w, d, [a, b], some 3, fun r => r a * r b)
  | .mulh _ w d a b => some (w, d, [a, b], some 3, fun r => BitVec.ofInt 64 ((r a).toInt * (r b).toInt / (2 ^ 64 : Int)))
  | .div _ w d a b => some (w, d, [a, b], none, fun r => if r b = 0 then BitVec.allOnes 64 else BitVec.ofInt 64 ((r a).toInt.tdiv (r b).toInt))
  | .rem _ w d a b => some (w, d, [a, b], none, fun r => if r b = 0 then r a else BitVec.ofInt 64 ((r a).toInt.tmod (r b).toInt))
  | .slt _ w d a b => some (w, d, [a, b], some 1, fun r => if (r a).slt (r b) then 1 else 0)
  | .sltu _ w d a b => some (w, d, [a, b], some 1, fun r => if (r a).ult (r b) then 1 else 0)
  | .min _ w d a b => some (w, d, [a, b], some 1, fun r => if (r b).slt (r a) then r b else r a)
  | .max _ w d a b => some (w, d, [a, b], some 1, fun r => if (r a).slt (r b) then r b else r a)
  | .addi _ w d a n => some (w, d, [a], some 1, fun r => r a + n.signExtend 64)
  | .andi _ w d a n => some (w, d, [a], some 1, fun r => r a &&& n.signExtend 64)
  | .ori _ w d a n => some (w, d, [a], some 1, fun r => r a ||| n.signExtend 64)
  | .xori _ w d a n => some (w, d, [a], some 1, fun r => r a ^^^ n.signExtend 64)
  | .slti _ w d a n => some (w, d, [a], some 1, fun r => if (r a).slt (n.signExtend 64) then 1 else 0)
  | .shli _ w d a c => some (w, d, [a], some 1, fun r => r a <<< ((c.setWidth 64 : W64).toNat % 64))
  | .shri _ w d a c => some (w, d, [a], some 1, fun r => r a >>> ((c.setWidth 64 : W64).toNat % 64))
  | .srai _ w d a c => some (w, d, [a], some 1, fun r => (r a).sshiftRight ((c.setWidth 64 : W64).toNat % 64))
  | .lui _ w d n => some (w, d, [], some 1, fun _ => (n ++ (0 : BitVec 15)).signExtend 64)
  | _ => none

/-- The OPR words in the order of their FN numbers, 0 to 15 (R225). -/
def oprWords (z : Bool) (w : BitVec 3) (d a b : BitVec 5) : List Instr :=
  [.add z w d a b, .sub z w d a b, .and z w d a b, .or z w d a b, .xor z w d a b, .shl z w d a b, .shr z w d a b, .sra z w d a b,
   .mul z w d a b, .mulh z w d a b, .div z w d a b, .rem z w d a b, .slt z w d a b, .sltu z w d a b, .min z w d a b, .max z w d a b]

/-- R228, R229: the same of a floating-point word, with whether SIGTH checks it; its result from the registers and the generator. -/
def floatWord : Instr → Option (BitVec 3 × BitVec 5 × List (BitVec 5) × Option Nat × Bool × ((BitVec 5 → SReg) → W32 → Res))
  | .fadd _ w d a b m => some (w, d, [a, b], some 4, true, fun r g => fpAdd .fp32 m g (r a).opd (r b).opd)
  | .fsub _ w d a b m => some (w, d, [a, b], some 4, true, fun r g => fpSub .fp32 m g (r a).opd (r b).opd)
  | .fmul _ w d a b m => some (w, d, [a, b], some 4, true, fun r g => fpMul .fp32 m g (r a).opd (r b).opd)
  | .fdiv _ w d a b m => some (w, d, [a, b], none, true, fun r g => fpDiv .fp32 m g (r a).opd (r b).opd)
  | .fsqrt _ w d a m => some (w, d, [a], none, true, fun r g => fpSqrt .fp32 m g (r a).opd)
  | .fma _ w d a b c m => some (w, d, [a, b, c], some 5, true, fun r g => fpFma .fp32 m g false (r a).opd (r b).opd (r c).opd)
  | .fms _ w d a b c m => some (w, d, [a, b, c], some 5, true, fun r g => fpFma .fp32 m g true (r a).opd (r b).opd (r c).opd)
  | .fmin _ w d a b => some (w, d, [a, b], some 4, false, fun r g => minMaxRes false .fp32 (r a).fp (r b).fp g)
  | .fmax _ w d a b => some (w, d, [a, b], some 4, false, fun r g => minMaxRes true .fp32 (r a).fp (r b).fp g)
  | .fabs _ w d a => some (w, d, [a], some 4, false, fun r g => signRes (· % 2 ^ 31) (r a).fp g)
  | .fneg _ w d a => some (w, d, [a], some 4, false, fun r g => signRes (Nat.xor · (2 ^ 31)) (r a).fp g)
  | .fcvtif _ w d a m => some (w, d, [a], some 4, true, fun r g =>
      let (c, f, q) := roundSr .fp32 m g (.ofInt (r a).val.toInt)
      ⟨c, 24, f, q⟩)
  | .fcvtfi _ w d a m => some (w, d, [a], some 4, false, fun r g => fpToInt m g (r a).opd.val)
  | .fcvtn _ w d a e m => some (w, d, [a], some 4, true, fun r g => convert e .fp32 m g (r a).fp.1 (r a).fp.2)
  | .fcvtw _ w d a e => some (w, d, [a], some 4, true, fun r g => convert .fp32 e .rne g ((r a).val.toNat % 2 ^ ElemType.bits e) (r a).tag)
  | .fcmp _ w d a b => some (w, d, [a, b], some 4, false, fun r g => ⟨cmpMask (r a).opd.val (r b).opd.val, 31, 0, g⟩)
  | .fsigr _ w d a => some (w, d, [a], some 4, false, fun r g => ⟨(r a).fp.2.toNat, 31, 0, g⟩)
  | .fsigw _ w d a b => some (w, d, [a, b], some 4, false, fun r g => ⟨(r a).fp.1, min (r b).val.toNat 24, 0, g⟩)
  | _ => none

/-- R230: width in bytes, base, offset, destination and conversion of a load. -/
def loadWordOf : Instr → Option (BitVec 3 × BitVec 5 × BitVec 5 × BitVec 12 × Nat × (List Byte → SReg))
  | .ldb _ w d a n => some (w, d, a, n, 1, fun bs => { val := BitVec.ofInt 64 (sext 8 (leNat (bs.take 1))), tag := 31 })
  | .ldh _ w d a n => some (w, d, a, n, 2, fun bs => { val := BitVec.ofInt 64 (sext 16 (leNat (bs.take 2))), tag := 31 })
  | .ldw _ w d a n => some (w, d, a, n, 4, fun bs => { val := BitVec.ofInt 64 (sext 32 (leNat (bs.take 4))), tag := 24 })
  | .ldd _ w d a n => some (w, d, a, n, 8, fun bs => { val := BitVec.ofNat 64 (leNat (bs.take 8)), tag := 31 })
  | _ => none
def storeWordOf : Instr → Option (BitVec 3 × BitVec 5 × BitVec 5 × BitVec 12 × Nat)
  | .stb w b a n => some (w, b, a, n, 1)
  | .sth w b a n => some (w, b, a, n, 2)
  | .stw w b a n => some (w, b, a, n, 4)
  | .std w b a n => some (w, b, a, n, 8)
  | _ => none

/-- An address names n bytes of a tile memory or a scratchpad: the place and its key. -/
def sramAt (s : State) (u : UnitId) (a : W64) (n : Nat) (p : Place) (x : Nat) : Prop :=
  s.resolve (s.who u) a n = .ok (.inl p) ∧ ((∃ k o, p = .tile k o ∧ x = s.tileKey k o) ∨ ∃ cl o, p = .scratch cl o ∧ x = s.scratchKey cl o)

/-- R232: wait field, registers read, whether it is taken, and its offset, of a branch. -/
def scalarBranch : Instr → Option (BitVec 3 × List (BitVec 5) × ((BitVec 5 → SReg) → Bool) × BitVec 12)
  | .beq w a b o => some (w, [a, b], fun r => (r a).val == (r b).val, o)
  | .bne w a b o => some (w, [a, b], fun r => (r a).val != (r b).val, o)
  | .blt w a b o => some (w, [a, b], fun r => (r a).val.slt (r b).val, o)
  | .bge w a b o => some (w, [a, b], fun r => (r b).val.sle (r a).val, o)
  | .bltu w a b o => some (w, [a, b], fun r => (r a).val.ult (r b).val, o)
  | .bgeu w a b o => some (w, [a, b], fun r => (r b).val.ule (r a).val, o)
  | .sBsig w a h o => some (w, [a], fun r => decide (min (r a).tag.toNat 24 < h.toNat), o)
  | _ => none

/-- R25, R222: the registers that a word of a scalar unit reads, for every word that reads one there. -/
def scalarReads (u : UnitId) (i : Instr) : Option (List (BitVec 5)) :=
  match i with
  | .stwt _ b a _ => some [a, b]
  | .ldwt _ _ _ a _ => some [a]
  | .sAmo _ d a b .. => some [a, b, d]
  | .jalr _ _ a _ => some [a]
  | .sSysCrw _ d _ => some [d]
  | .fpush _ a | .shape _ _ a => if u.isDense then some [a] else none
  | .ewr _ a g r => if u.isDense && (ewrMask (Eng.index g) r.toNat).isSome then some [a] else none
  | .sysLnpop _ _ a | .sysLnret _ a | .sysNstop _ a | .sysPtbase _ a => if u.isSup then some [a] else none
  | .sysNstart _ a b | .sysCmapw _ a b | .sysSmapw _ a b | .sysTlbinv _ a b => if u.isSup then some [a, b] else none
  | i => match integerWord i, floatWord i, loadWordOf i, storeWordOf i, scalarBranch i with
    | some (_, _, rs, _), _, _, _, _ => some rs
    | _, some (_, _, rs, _), _, _, _ => some rs
    | _, _, some (_, _, a, _), _, _ => some [a]
    | _, _, _, some (_, b, a, _), _ => some [a, b]
    | _, _, _, _, some (_, rs, _) => some rs
    | _, _, _, _, _ => none
/-- Is a register of a scalar unit poisoned (R376)? -/
def badReg (s : State) (u : UnitId) (r : BitVec 5) : Prop :=
  match u with
  | .sup n => r.toNat ∈ (s.sup n).bad
  | u => PendDest.s r.toNat ∈ (s.dense u.cl).bad

end Sys2Proof.Says

/-- R209, R222: s0 reads 0 with tag 31 and a write to it is discarded; a result of one clk is read by the next word, and changes no
other register; one of more clk is read once that many have passed, as the last write of its register. -/
def Obligations.ScalarRegisterFile : Prop :=
  (∀ (s : State) (u : UnitId), scalarUnit u = true →
    s.sReg u 0 = { val := 0, tag := 31 } ∧
    (∀ x lat, s.putS u 0 x lat = s) ∧
    (∀ d x, d ≠ 0 → (s.putS u d x 1).sReg u d = x) ∧
    (∀ d x e, d ≠ e → (s.putS u d x 1).sReg u e = s.sReg u e) ∧
    (∀ d x lat e, 1 < lat → (s.putS u d x lat).sReg u e = s.sReg u e)) ∧
  (∀ (s : State) (cl : Nat) (d : BitVec 5) x lat, d ≠ 0 → 1 < lat → (s.dense cl).pend = [] →
    let t := s.putS (.scalar cl) d x lat
    (∀ n, n < lat → ((t.passTime n).landDue).sReg (.scalar cl) d = s.sReg (.scalar cl) d) ∧
    ((t.passTime lat).landDue).sReg (.scalar cl) d = x)

/-- R225 whole, and R223, R226, R227 as far as said here: an integer word with no interlock completes: its destination takes its value
with tag 31, and nothing else changes. The OPR words stand in the order of their FN numbers. -/
def Obligations.ScalarIntegerWords : Prop :=
  (∀ (z : Bool) (w : BitVec 3) (d a b : BitVec 5),
    (oprWords z w d a b).map encode = (List.range 16).map fun fn => some
      (0x02000000 + (if z then 2 ^ 31 else 0) + w.toNat * 2 ^ 22 + d.toNat * 2 ^ 17 + a.toNat * 2 ^ 12 + b.toNat * 2 ^ 7 + fn)) ∧
  ∀ (s : State) (u : UnitId), s.cur = u → scalarUnit u = true →
  ∀ (i : Instr) w d reads lat f, integerWord i = some (w, d, reads, lat, f) → s.interlock u reads (some (d, lat.isNone)) = .ok () →
    exec i s = .next ((s.putS u d { val := f fun r => (s.sReg u r).val, tag := 31 } (lat.getD 1)).past u w.toNat)

/-- R125, R135, R223, R228, R229: a floating-point word with no interlock completes: its result with its tag and its flags come after its
latency, the generator steps at issue; a checked tag below the threshold raises SIG_THRESHOLD after the result is written. -/
def Obligations.ScalarFloatWords : Prop :=
  ∀ (s : State) (u : UnitId), s.cur = u → scalarUnit u = true →
  ∀ (i : Instr) w d reads lat chk f, floatWord i = some (w, d, reads, lat, chk, f) → s.interlock u reads (some (d, lat.isNone)) = .ok () →
    let r := f (s.sReg u) (s.num u).sr
    let x : SReg := { val := BitVec.ofNat 64 r.code, tag := BitVec.ofNat 5 r.tag }
    let t := match lat with
      | none => (s.putS u d x 1).collect u r.flags r.sr
      | some n => (s.addPend u { who := u, dest := .s d.toNat, val := .sreg x, due := some (s.time + n), flags := r.flags }).setNum u
          { s.num u with sr := r.sr }
    let low := chk = true ∧ d ≠ 0 ∧ t.sigLow u r.tag = true
    (¬ low → exec i s = .next (t.past u w.toNat)) ∧
    (low → exec i s = .next ((t.dropDelivered u).raise u .sigThreshold 0))

/-- R222, R376: a word of any kind that reads a register whose load is outstanding issues again; else one that reads a poisoned register
raises POISON; else, with SBCHK, one that reads a result in flight raises SHADOW. s0 is never one of them. -/
def Obligations.ScalarInterlocks : Prop :=
  ∀ (s : State) (u : UnitId), s.cur = u → scalarUnit u = true → ∀ (i : Instr) reads, scalarReads u i = some reads →
    let waits := ∃ r ∈ reads, r ≠ 0 ∧ ∃ p ∈ s.pendOf u, p.dest = .s r.toNat ∧ p.waiting = true
    let bad := ∃ r ∈ reads, r ≠ 0 ∧ badReg s u r
    (waits → exec i s = .next ((s.setWait u .retry).setReadyAt u (s.time + 1))) ∧
    (¬ waits → bad → exec i s = .next ((s.dropDelivered u).raise u .poison 0)) ∧
    (¬ waits → ¬ bad → s.sbchkOf u = true → (∃ r ∈ reads, r ≠ 0 ∧ ∃ p ∈ s.pendOf u, p.dest = .s r.toNat) →
      exec i s = .next ((s.dropDelivered u).raise u .shadow 0))

/-- R133, R134, R230: a load whose parts can be read writes its register; a misaligned one is ALIGN and a poisoned one POISON, with the
register unchanged. A store writes the low bytes of sb; a misaligned one is ALIGN; STWT writes the word and its tag byte. With nothing
under way, on words of SRAM, or a constant whose page the cluster's TLB holds, all of them complete at once. -/
def Obligations.ScalarLoadsAndStores : Prop :=
  (∀ (s : State) (u : UnitId), s.cur = u → scalarUnit u = true →
    (∀ (i : Instr) w d a n len conv, loadWordOf i = some (w, d, a, n, len, conv) → s.interlock u [a] (some (d, true)) = .ok () →
      let ad := (s.sReg u a).val + n.signExtend 64
      (ad.toNat % len ≠ 0 → exec i s = .next ((s.dropDelivered u).raise u .align ad)) ∧
      (∀ p s1 bs po s2, ad.toNat % len = 0 → s.locate (s.who u) ad len .r = .ok ([p], s1) →
        s1.readPart (s.who u) p = .ok (bs, po, s2) →
        exec i s = .next (if po then (s.dropDelivered u).raise u .poison 0 else (s2.putS u d (conv bs) 1).past u w.toNat))) ∧
    (∀ z w d (n : BitVec 17) a p s1 bs s2, s.interlock u [] (some (d, true)) = .ok () → s.constAddr u n.toNat = some a → a.toNat % 8 = 0 →
      s.locate (s.who u) a 8 .r = .ok ([p], s1) → s1.readPart (s.who u) p = .ok (bs, false, s2) →
      exec (.ldc z w d n) s = .next ((s2.putS u d { val := BitVec.ofNat 64 (leNat (bs.take 8)), tag := 31 } 1).past u w.toNat)) ∧
    (∀ z w d a (n : BitVec 12) p q s1 bs s2 cs s3, s.interlock u [a] (some (d, true)) = .ok () →
      s.locateTagged u ((s.sReg u a).val + n.signExtend 64) .r = .ok ([p], [q], s1) →
      s1.readPart (s.who u) p = .ok (bs, false, s2) → s2.readPart (s.who u) q = .ok (cs, false, s3) →
      exec (.ldwt z w d a n) s = .next ((s3.putS u d
        { val := BitVec.ofInt 64 (sext 32 (leNat ((bs ++ cs).take 4))), tag := tagOfByte ((bs ++ cs).getD 4 0) } 1).past u w.toNat))) ∧
  (∀ (s : State) (u : UnitId), s.cur = u → scalarUnit u = true →
    (∀ (i : Instr) w b a n len, storeWordOf i = some (w, b, a, n, len) → s.interlock u [a, b] none = .ok () →
      let ad := (s.sReg u a).val + n.signExtend 64
      (ad.toNat % len ≠ 0 → exec i s = .next ((s.dropDelivered u).raise u .align ad)) ∧
      (∀ t, ad.toNat % len = 0 → s.store u ad (leBytes len (s.sReg u b).val.toNat) = .ok t → exec i s = .next (t.past u w.toNat))) ∧
    (∀ w b a (n : BitVec 12) ps qs s1 s2 s3, s.interlock u [a, b] none = .ok () →
      s.locateTagged u ((s.sReg u a).val + n.signExtend 64) .w = .ok (ps, qs, s1) →
      s1.writeParts (s.who u) none ps (leBytes 4 (s.sReg u b).val.toNat) = .ok s2 →
      s2.writeParts (s.who u) none qs [BitVec.ofNat 8 (0x80 + min (s.sReg u b).tag.toNat 24)] = .ok s3 →
      exec (.stwt w b a n) s = .next (s3.past u w.toNat))) ∧
  (∀ (s : State) (u : UnitId), s.quiet u = true → scalarUnit u = true →
    (∀ (i : Instr) w d a n len conv p x, loadWordOf i = some (w, d, a, n, len, conv) → s.interlock u [a] (some (d, true)) = .ok () →
      let ad := (s.sReg u a).val + n.signExtend 64
      ad.toNat % len = 0 → sramAt s u ad len p x →
      exec i s = .next ((s.putS u d (conv (s.readKey x len)) 1).past u w.toNat)) ∧
    (∀ z w d (n : BitVec 17) nd pha, s.interlock u [] (some (d, true)) = .ok () → u.isDense = true → s.nodeOf u = some nd → n.toNat < nd.ctCount →
      nd.ctBase % 8 = 0 → hbmReady s u (nd.ctBase + 8 * n.toNat) 8 .r pha →
      exec (.ldc z w d n) s = .next ((s.putS u d { val := BitVec.ofNat 64 (leNat (s.readKey (s.hbmKey pha) 8)), tag := 31 } 1).past u w.toNat)) ∧
    (∀ z w d a (n : BitVec 12) t p x q y, s.interlock u [a] (some (d, true)) = .ok () →
      let ad := (s.sReg u a).val + n.signExtend 64
      ad.toNat % 4 = 0 → sramAt s u ad 4 p x → tagAddr (s.num u).tagbase ad = some t → sramAt s u t 1 q y →
      exec (.ldwt z w d a n) s = .next ((s.putS u d
        { val := BitVec.ofInt 64 (sext 32 (leNat (s.readKey x 4))), tag := tagOfByte ((s.readKey y 1).getD 0 0) } 1).past u w.toNat)) ∧
    (∀ (i : Instr) w b a n len p x, storeWordOf i = some (w, b, a, n, len) → s.interlock u [a, b] none = .ok () →
      let ad := (s.sReg u a).val + n.signExtend 64
      ad.toNat % len = 0 → sramAt s u ad len p x →
      ∃ t, s.store u ad (leBytes len (s.sReg u b).val.toNat) = .ok t ∧ OnlyMemory s t ∧ exec i s = .next (t.past u w.toNat)) ∧
    (∀ w b a (n : BitVec 12) g p x q y, s.interlock u [a, b] none = .ok () →
      let ad := (s.sReg u a).val + n.signExtend 64
      ad.toNat % 4 = 0 → sramAt s u ad 4 p x → tagAddr (s.num u).tagbase ad = some g → sramAt s u g 1 q y →
      ∃ t, OnlyMemory s t ∧ exec (.stwt w b a n) s = .next (t.past u w.toNat) ∧ (CanonicalMemory s →
        (y < x ∨ x + 4 ≤ y → t.readKey x 4 = leBytes 4 (s.sReg u b).val.toNat) ∧
        t.readKey y 1 = [BitVec.ofNat 8 (0x80 + min (s.sReg u b).tag.toNat 24)])))


/-- R199, R200, R231: a scalar AMO at an aligned address whose word is here completes: its result in sd and the flags of its operation;
with nothing under way, on a word of SRAM that its scope may name, at once. -/
def Obligations.ScalarAtomic : Prop :=
  ∀ (s : State) (u : UnitId), s.cur = u → scalarUnit u = true →
  ∀ w d a b op sc wide, s.interlock u [a, b, d] (some (d, true)) = .ok () →
    let ad := (s.sReg u a).val
    let v := (s.sReg u b).val
    let c := (s.sReg u d).val
    (ad.toNat % (if wide then 8 else 4) ≠ 0 → exec (.sAmo w d a b op sc wide) s = .next ((s.dropDelivered u).raise u .align ad)) ∧
    (∀ old t, ad.toNat % (if wide then 8 else 4) = 0 → s.amo u sc ad op wide v c = .ok (old, t) →
      let r := amoResult op wide old v c
      exec (.sAmo w d a b op sc wide) s = .next (((t.putS u d r.1 1).collect u r.2 (t.num u).sr).past u w.toNat)) ∧
    (∀ p x, s.quiet u = true → ad.toNat % (if wide then 8 else 4) = 0 → sramAt s u ad (if wide then 8 else 4) p x →
      amoPlace u (if u.isSup = true ∧ (sc = .core ∨ sc = .cluster) then .device else sc) p = true →
      let n := if wide then 8 else 4
      let old := leNat (s.readKey x n)
      let t := s.writePlace p (leBytes n (amoOp op (8 * n) old (v.toNat % 2 ^ (8 * n)) (c.toNat % 2 ^ (8 * n))).1) none
      let r := amoResult op wide old v c
      exec (.sAmo w d a b op sc wide) s = .next (((t.putS u d r.1 1).collect u r.2 (t.num u).sr).past u w.toNat))

/-- R232, with its encodings: a branch that is not taken continues at PC + 4; one that is taken inside the stream continues at its target,
with no delay slot. JAL and JALR leave the link in sd with tag 31; a JALR to no word address is ALIGN and leaves none. A target outside
the stream is the ILLEGAL of R17. -/
def Obligations.ScalarBranches : Prop :=
  (∀ (w : BitVec 3) (a b : BitVec 5) (o : BitVec 12) (n : BitVec 17),
    let f (op : Nat) := some (op * 2 ^ 25 + w.toNat * 2 ^ 22 + a.toNat * 2 ^ 17 + b.toNat * 2 ^ 12 + o.toNat)
    [Instr.beq w a b o, .bne w a b o, .blt w a b o, .bge w a b o, .bltu w a b o, .bgeu w a b o, .sBsig w a b o, .jalr w a b o].map encode =
      [f 0x28, f 0x29, f 0x2A, f 0x2B, f 0x2C, f 0x2D, f 0x2E, f 0x30] ∧
    encode (.jal w a n) = some (0x2F * 2 ^ 25 + w.toNat * 2 ^ 22 + a.toNat * 2 ^ 17 + n.toNat)) ∧
  ∀ (s : State) (u : UnitId), s.cur = u → scalarUnit u = true →
    (∀ (i : Instr) w reads taken o, scalarBranch i = some (w, reads, taken, o) → s.interlock u reads none = .ok () →
      let t : W32 := s.pc u + 4 * o.signExtend 32
      (taken (s.sReg u) = false → exec i s = .next (s.past u w.toNat)) ∧
      (taken (s.sReg u) = true → t.toNat < s.streamLen u → exec i s = .next ((s.retireTo u t w.toNat).dropDelivered u)) ∧
      (taken (s.sReg u) = true → s.streamLen u ≤ t.toNat → exec i s = .next ((s.dropDelivered u).raise u .illegal 0))) ∧
    (∀ w d (o : BitVec 17), s.interlock u [] (some (d, false)) = .ok () →
      let t : W32 := s.pc u + 4 * o.signExtend 32
      t.toNat % 4 = 0 → t.toNat < s.streamLen u →
      exec (.jal w d o) s = .next (((s.retireTo u t w.toNat).putS u d { val := (s.pc u + 4).setWidth 64 } 1).dropDelivered u)) ∧
    (∀ w d a (n : BitVec 12), s.interlock u [a] (some (d, false)) = .ok () →
      let t : W64 := (s.sReg u a).val + n.signExtend 64
      (t.toNat % 4 ≠ 0 → exec (.jalr w d a n) s = .next ((s.dropDelivered u).raise u .align t)) ∧
      (t.toNat % 4 = 0 → t.toNat < 2 ^ 32 → t.toNat < s.streamLen u →
        exec (.jalr w d a n) s = .next (((s.retireTo u (t.setWidth 32) w.toNat).putS u d { val := (s.pc u + 4).setWidth 64 } 1).dropDelivered u)))

/-! ## Format words, shapes, tokens, barriers, SYS and the supervisor functions (R212 to R215, R234 to R237, R339, R368, R383) -/

/-- R27, R86: a TSEND or TWAIT of n tokens on a queue its sequencer sends or waits on, outside a handler: TSEND of none retires; one
that would pass 255 is TOKEN_OVERFLOW with the counts unchanged; else it releases and adds its tokens; TWAIT takes its tokens when
they are there, else sleeps. Another's queue is ILLEGAL. -/
def Obligations.TokensCount : Prop :=
  ∀ (s : State) (u : UnitId) (send wait : Instr) (q n idle : Nat), s.cur = u →
    ((∃ (cl : Nat) (w : BitVec 3) (q' : BitVec 3) (n' : BitVec 8), u = .scalar cl ∧ send = .sTsend w q' n' ∧ wait = .sTwait w q' n' ∧ q = q'.toNat ∧ n = n'.toNat ∧ idle = w.toNat) ∨
      (∃ (cl : Nat) (w : BitVec 3) (q' : BitVec 3) (n' : BitVec 8), u = .compute cl ∧ send = .vTsend w n' q' ∧ wait = .vTwait w n' q' ∧ q = q'.toNat ∧ n = n'.toNat ∧ idle = w.toNat) ∨
      (∃ (cl : Nat) (q' : BitVec 3) (n' : BitVec 8), (u = .load cl ∨ u = .store cl) ∧ send = .cTsend q' n' ∧ wait = .cTwait q' n' ∧ q = q'.toNat ∧ n = n'.toNat ∧ idle = 0)) →
    let d := s.dense u.cl
    let have' := Tab.get 0 d.q q
    let kept := Tab.get 0 d.qres q
    d.frozen = none →
    (sendsOn u q = false → exec send s = .next ((s.dropDelivered u).raise u .illegal 0)) ∧
    (sendsOn u q = true → n = 0 → exec send s = .next (s.past u idle)) ∧
    (sendsOn u q = true → 0 < n → s.wait u ≠ .sending q n → 255 < have' + kept + n →
      exec send s = .next ((s.dropDelivered u).raise u .tokenOverflow 0)) ∧
    (sendsOn u q = true → 0 < n → s.wait u ≠ .sending q n → have' + kept + n ≤ 255 →
      let t := (s.onDense u.cl fun d => { d with qres := Tab.set d.qres q (kept + n) }).drain u
      t.unreleased u = false → exec send s = .next ((t.onDense u.cl fun d =>
        { d with qres := Tab.set d.qres q (Tab.get 0 d.qres q - n) }.addTokens q n).past u idle)) ∧
    (sendsOn u q = true → 0 < n → s.wait u ≠ .sending q n → have' + kept + n ≤ 255 → s.flights = [] → s.unreleased u = false →
      exec send s = .next ((s.onDense u.cl fun d => { d with qres := Tab.set (Tab.set d.qres q (kept + n)) q kept }.addTokens q n).past u idle)) ∧
    (waitsOn u q = false → exec wait s = .next ((s.dropDelivered u).raise u .illegal 0)) ∧
    (waitsOn u q = true → (n = 0 ∨ n ≤ have') → exec wait s = .next (if n = 0 then s.past u idle else
      (s.onDense u.cl fun d => { d with q := Tab.set d.q q (have' - n) }).past u idle)) ∧
    (waitsOn u q = true → have' < n → exec wait s = .next ((s.setWait u (.token q n)).setReadyAt u (s.time + 1)))

/-- R212, R214, R215, R234, R235: FPUSH appends a format word, and stalls on a queue of 16; SHAPE answers the grant for its request and
leaves it in the grant register. The grant is 0 for mode 3 or nonzero bits 63:50; else it grants K at most 384 in multiples of 16, and
M and N at most what the usable engines allow in the mode. -/
def Obligations.FormatAndShape : Prop :=
  (∀ (s : State) (cl : Nat), s.cur = .scalar cl →
    let u : UnitId := .scalar cl
    (∀ w a, s.interlock u [a] none = .ok () →
      ((s.dense cl).fq.length < 16 → exec (.fpush w a) s = .next
        ((s.onDense cl fun d => { d with fq := d.fq ++ [(s.sReg u a).val.setWidth 32] }).past u w.toNat)) ∧
      (16 ≤ (s.dense cl).fq.length → exec (.fpush w a) s = .next ((s.setWait u .retry).setReadyAt u (s.time + 1)))) ∧
    (∀ w d a, s.interlock u [a] (some (d, true)) = .ok () →
      let g := shapeGrant (s.sReg u a).val (s.dense cl).mengok
      exec (.shape w d a) s = .next (((s.onDense cl fun d => { d with grant := g }).putS u d { val := g, tag := 31 } 1).past u w.toNat))) ∧
  (∀ (req : W64) (ok : BitVec 4), let r := req.toNat
    let g := (shapeGrant req ok).toNat
    let lim := shapeLimits (bits r 49 48) ok
    ((bits r 63 50 ≠ 0 ∨ bits r 49 48 = 3) → g = 0) ∧
    (bits r 63 50 = 0 → bits r 49 48 ≠ 3 →
      bits g 49 48 = bits r 49 48 ∧ bits g 47 32 = min (bits r 47 32) 384 / 16 * 16 ∧
      bits g 31 16 = min (bits r 31 16) lim.2 ∧ bits g 15 0 = min (bits r 15 0) lim.1) ∧
    lim.1 ≤ 32 ∧ lim.2 ≤ 64)


/-- R37, R202, R203, R236, R237: MARK retires at once, FENCE when its unit's earlier accesses are performed; BAR counts for the cluster, and
is BARRIER without the slot's DENSE bit and on a supervisor core. CRR and CRW read and write a control register by number, TIME reads 56
bits of TIME, HALT stops the unit with its PC at the word, WFE retires and clears a set event latch, or sleeps. With nothing under way
FENCE and BAR complete at once. -/
def Obligations.ScalarSynchronisationAndSystem : Prop :=
  (∀ (s : State) (u : UnitId), s.cur = u → scalarUnit u = true →
    (∀ w (m : BitVec 8), exec (.sMark w m) s = .next ((match u with
      | .sup _ => s.markAll u m.toNat
      | u => s.mark (some u) u.cl (s.launchId u) m.toNat).past u w.toNat)) ∧
    (∀ w sc f t, s.fence u f = .ok t → exec (.sFence w sc f) s = .next (t.past u w.toNat)) ∧
    (∀ w op (l : BitVec 4), (∃ n, u = .sup n) ∨ (Tab.get {} (s.dense u.cl).bar l.toNat).dense = false →
      exec (.sBar w op l) s = .next ((s.dropDelivered u).raise u .barrier 0)) ∧
    (∀ cl w op (l : BitVec 4) b seen waits, u = .scalar cl → (Tab.get {} (s.dense cl).bar l.toNat).dense = true →
      barStep op (decide (s.wait u = .barrier l.toNat)) l.toNat (Tab.get {} (s.dense cl).bar l.toNat) (s.dense cl).barSeen = some (b, seen, waits) →
      ∀ t0, (if barArrives op (decide (s.wait u = .barrier l.toNat)) then s.release u else .ok s) = .ok t0 →
      let t := t0.onDense cl fun d => { d with bar := Tab.set d.bar l.toNat b, barSeen := seen }
      exec (.sBar w op l) s = .next (if waits then (t.setWait u (.barrier l.toNat)).dropDelivered u else t.past u w.toNat)) ∧
    (s.quiet u = true → (∀ w sc f, exec (.sFence w sc f) s = .next (s.past u w.toNat)) ∧
      ∀ cl w op (l : BitVec 4) b seen waits, u = .scalar cl → (Tab.get {} (s.dense cl).bar l.toNat).dense = true →
        barStep op (decide (s.wait u = .barrier l.toNat)) l.toNat (Tab.get {} (s.dense cl).bar l.toNat) (s.dense cl).barSeen = some (b, seen, waits) →
        let t := s.onDense cl fun d => { d with bar := Tab.set d.bar l.toNat b, barSeen := seen }
        exec (.sBar w op l) s = .next (if waits then (t.setWait u (.barrier l.toNat)).dropDelivered u else t.past u w.toNat))) ∧
  (∀ (s : State) (u : UnitId), s.cur = u → scalarUnit u = true →
    (∀ w d (r : BitVec 10) v, s.interlock u [] (some (d, true)) = .ok () → s.readCr u r.toNat = .ok v →
      exec (.sSysCrr w d r) s = .next ((s.putS u d { val := BitVec.ofNat 64 v, tag := 31 } 1).past u w.toNat)) ∧
    (∀ w d (r : BitVec 10) t, s.interlock u [d] none = .ok () → s.writeCr u r.toNat (s.sReg u d).val.toNat = .ok t →
      exec (.sSysCrw w d r) s = .next (t.past u w.toNat)) ∧
    (∀ w d, s.interlock u [] (some (d, false)) = .ok () →
      exec (.sSysTime w d) s = .next ((s.putS u d { val := BitVec.ofNat 64 (s.time % 2 ^ 56), tag := 31 } 1).past u w.toNat)) ∧
    (∀ w, exec (.sysHalt w) s = .next (((s.setWait u .none).setLive u false).dropDelivered u)) ∧
    (∀ w, (s.latch u = true → exec (.sysWfe w) s = .next ((s.setLatch u false).past u w.toNat)) ∧
      (s.latch u = false → exec (.sysWfe w) s = .next ((s.setWait u .wfe).setReadyAt u (s.time + 1)))))


/-- R237, R257, R361 to R363: TRAP of a scalar sequencer, of the compute stream or of an epilogue, outside a handler, whose node has a
vector and whose save area is in place freezes the dense core, saves what its handler's return restores, sets the trap registers and
goes on at the vector. One of the compute stream or an epilogue is late: where the turn lets further issue groups come, the fault is
held, with their count, at most 8, and the stream goes on; how many come is the turn's (log 9). Whose vector is taken, and the SRC that
the compute stream reads, are the model's readings (logs 26, 91). -/
def Obligations.DenseTrapTaken : Prop :=
  (∀ (s : State) (cl : Nat) w n vec, s.cur = .scalar cl → s.nodeOf (.scalar cl) = some n → (s.dense cl).sc.trap.intrap = false →
    (n.stream 1).2.2.2 = vec → vec ≠ 0xFFFFFFFF → vec % 4 = 0 →
    let save := (s.dense cl).sc.trap.save.toNat
    save % 32 = 0 → save + 512 ≤ 2 ^ 25 →
    let s1 := s.onDense cl fun d => d.freeze (.scalar cl) s.time
    let d := s1.dense cl
    exec (.sSysTrap w) s = .next
      ((s1.writePlace (.scratch cl save) (d.scalarSave ((s.dense cl).sc.pc + 4) d.ld.pc d.st.pc) none).onDense cl fun d =>
        { d with sc := { d.sc with
            live := true, pc := BitVec.ofNat 32 vec, wait := .none, readyAt := s.time
            trap := { (s.dense cl).sc.trap with code := 0, src := 0, intrap := true, cause := 0x16, pc := (s.dense cl).sc.pc, addr := 0, seq := 0 } } })) ∧
  (∀ (s : State) (cl : Nat) (u : UnitId) w n vec, (u = .compute cl ∨ ∃ e, u = .epi cl e) → s.cur = u → s.nodeOf u = some n →
    (s.dense cl).cp.trap.intrap = false → (n.stream 4).2.2.2 = vec → vec ≠ 0xFFFFFFFF → vec % 4 = 0 →
    let save := (s.dense cl).cp.trap.save.toNat
    save % 32 = 0 → save + 256 ≤ 2 ^ 25 → s.further = 0 →
    let seq := match u with
      | .epi _ e => ((s.dense cl).epiCtx e).seq
      | _ => (s.dense cl).cp.seq
    let s1 := (s.setPc u (s.pc u + 4)).onDense cl fun d => d.freeze (.compute cl) s.time
    ∃ t, SameMemory t (s1.writePlace (.scratch cl save) ((s1.dense cl).computeSave (s1.dense cl).cp.pc) none) ∧
      exec (.vsysTrap w) s = .next (t.onDense cl fun d =>
        { d with cp := { d.cp with
            live := true, pc := BitVec.ofNat 32 vec, wait := .none, readyAt := s.time
            trap := { (s.dense cl).cp.trap with
              code := 0, src := (match u with | .epi _ e => BitVec.ofNat 4 (4 + e) | _ => 0), intrap := true, cause := 0x16, pc := s.pc u, addr := 0, seq := seq } } }) ∧
      (t.dense cl).frozen = some
        { handler := .compute cl, halted := !(s.dense cl).cp.live
          barrier := match (s.dense cl).cp.wait with | .barrier n => some n | _ => none }) ∧
  (∀ (s : State) (cl : Nat) (u : UnitId) w, (u = .compute cl ∨ ∃ e, u = .epi cl e) → s.cur = u → 0 < s.further →
    (s.dense cl).vfault = none →
    let seq := match u with
      | .epi _ e => ((s.dense cl).epiCtx e).seq
      | _ => (s.dense cl).cp.seq
    exec (.vsysTrap w) s = .next ((s.retireTo u (s.pc u + 4) 0).onDense cl fun d =>
      { d with vfault := some ({ cause := .trap, addr := 0, seq := seq, src := u.src, pc := s.pc u, resume := s.pc u + 4, code := 0 },
        min s.further 8, s.time) }))

/-- R16, R237, R257, R362, R363: TRET of a scalar or compute sequencer in a handler whose save area is in place, sound and holds a word
address inside the stream restores what the trap saved, the handler's own stores there performed or seen, clears INTRAP, ends the freeze
and idles the word's STALL; a stream that had halted is halted again. Outside a handler, and on a supervisor
core, it is ILLEGAL. -/
def Obligations.DenseTrapReturns : Prop :=
  (∀ (s : State) (cl : Nat) w, s.cur = .scalar cl →
    let u : UnitId := .scalar cl
    let save := (s.dense cl).sc.trap.save.toNat
    let s0 := s.performFlights fun f => f.who == u && s.samePlace f.place (.scratch cl save) 512
    let tr := (s0.dense cl).sc.trap
    (tr.intrap = false → exec (.sSysTret w) s = .next (s0.raise u .illegal 0)) ∧
    (tr.intrap = true → tr.save.toNat = save → save % 32 = 0 → save + 512 ≤ 2 ^ 25 →
      let a := s0.scratchKey cl save
      (s0.countSoft a 512).poisoned a 512 = false → (s0.dense cl).late = [] →
      let bs := s0.ownView u { place := .scratch cl save, len := 512, name := BitVec.ofNat 64 save } ((s0.countSoft a 512).readKey a 512)
      let pc : W32 := (bytesW64 bs 0x120).setWidth 32
      pc.toNat % 4 = 0 → pc.toNat < s0.streamLen u → (bytesW64 bs 0x128).toNat % 4 = 0 → (bytesW64 bs 0x130).toNat % 4 = 0 →
      ∃ t, exec (.sSysTret w) s = .next t ∧ (t.dense cl).sc.pc = pc ∧ (t.dense cl).sc.trap = { tr with intrap := false } ∧
        (t.dense cl).sc.readyAt = s0.time + 1 + w.toNat ∧
        (t.dense cl).sc.live = !(match (s0.dense cl).frozen with | some f => f.halted | none => false) ∧
        (t.dense cl).frozen = none ∧ (t.dense cl).ld.pc = (bytesW64 bs 0x128).setWidth 32 ∧
        (t.dense cl).st.pc = (bytesW64 bs 0x130).setWidth 32 ∧ SameMemory s0 t ∧
        (∀ r : BitVec 5, r ≠ 0 → (∀ p ∈ (s0.dense cl).relay, p.dest ≠ .s r.toNat) → (t.sReg (.scalar cl) r) =
          { val := bytesW64 bs (8 * r.toNat), tag := untagByte (bs.getD (0x100 + r.toNat) 0) }))) ∧
  (∀ (s : State) (n : Nat) w, s.cur = .sup n → exec (.sSysTret w) s = .next (s.raise (.sup n) .illegal 0)) ∧
  (∀ (s : State) (cl : Nat) w, s.cur = .compute cl →
    let u : UnitId := .compute cl
    let save := (s.dense cl).cp.trap.save.toNat
    let s0 := s.performFlights fun f => f.who == u && s.samePlace f.place (.scratch cl save) 256
    let tr := (s0.dense cl).cp.trap
    (tr.intrap = false → exec (.vsysTret w) s = .next (s0.raise u .illegal 0)) ∧
    (tr.intrap = true → tr.save.toNat = save → save % 32 = 0 → save + 256 ≤ 2 ^ 25 →
      let a := s0.scratchKey cl save
      (s0.countSoft a 256).poisoned a 256 = false → (s0.dense cl).late = [] →
      let bs := s0.ownView u { place := .scratch cl save, len := 256, name := BitVec.ofNat 64 save } ((s0.countSoft a 256).readKey a 256)
      let pc : W32 := (bytesW64 bs 0xC0).setWidth 32
      pc.toNat % 4 = 0 → pc.toNat < s0.streamLen u →
      (∀ e < 4, (bytesW64 bs (0xC8 + 8 * e)).getLsbD 63 = true → (bytesW64 bs (0xC8 + 8 * e)).toNat % 4 = 0) →
      ∃ t, exec (.vsysTret w) s = .next t ∧ (t.dense cl).cp.pc = pc ∧ (t.dense cl).cp.trap = { tr with intrap := false } ∧
        (t.dense cl).cp.readyAt = s0.time + 1 + w.toNat ∧
        (t.dense cl).cp.live = !(match (s0.dense cl).frozen with | some f => f.halted | none => false) ∧
        (t.dense cl).frozen = none ∧ (t.dense cl).mfault = false ∧ SameMemory s0 t ∧
        (∀ k : BitVec 4, (t.dense cl).kreg (.compute cl) k = bytesW64 bs (8 * k.toNat)) ∧
        (∀ m : BitVec 3, m ≠ 0 → (t.dense cl).mreg (.compute cl) m = bytesW64 bs (0x80 + 8 * m.toNat)) ∧
        (∀ e, e < 4 → ((t.dense cl).epiCtx e).pc = (bytesW64 bs (0xC8 + 8 * e)).setWidth 32 ∧
          ((t.dense cl).epiCtx e).live = (bytesW64 bs (0xC8 + 8 * e)).getLsbD 63)))

namespace Sys2Proof.Says

/-- The words only a supervisor core may run (R25, R58, R237). -/
def supervisorOnly : Instr → Bool
  | .sysLnpop .. | .sysLnret .. | .sysNstart .. | .sysNstop .. | .sysCmapw .. | .sysSmapw .. | .sysMapfence .. | .sysPtbase ..
  | .sysTlbinv .. => true
  | _ => false

end Sys2Proof.Says

/-- R25, R58, R237, R339, R368, R383: a supervisor function on a dense scalar sequencer raises PRIV, and has no effect. On a supervisor
core with no interlock each has its effect: PTBASE sets the page-table root, CMAPW and SMAPW edit the maps (a field out of range is
SPACE), MAPFENCE brings them into force when no access is in flight, TLBINV removes the translations it names when none is in use,
LNPOP answers the chosen launch's record, or 0, LNRET sends a launch's record and ends it when the record is acknowledged, NSTART starts
a node, NSTOP stops a rectangle. -/
def Obligations.SupervisorFunctions : Prop :=
  (∀ (s : State) (cl : Nat), s.cur = .scalar cl → ∀ i, supervisorOnly i = true →
    exec i s = .next ((s.dropDelivered (.scalar cl)).raise (.scalar cl) .priv 0)) ∧
  (∀ (s : State) (n : Nat), s.cur = .sup n →
    let u : UnitId := .sup n
    (∀ w a, s.interlock u [a] none = .ok () →
      exec (.sysPtbase w a) s = .next ({ s with ptRoot := (s.sReg u a).val }.past u w.toNat)) ∧
    (∀ w a b, s.interlock u [a, b] none = .ok () →
      let cl := (s.sReg u a).val.toNat
      let v := (s.sReg u b).val.toNat
      (cl < 64 → v < 128 → exec (.sysCmapw w a b) s = .next ((s.editCmap cl (if bits v 6 6 = 1 then none else some (v % 64))).past u w.toNat)) ∧
      (cl < 64 → v < 32 → exec (.sysSmapw w a b) s = .next
        (({ s with smapNew := s.smapNew ++ [(cl, v % 16, bits v 4 4 == 1)] }.applySpares false).past u w.toNat)) ∧
      (64 ≤ cl → exec (.sysCmapw w a b) s = .next ((s.dropDelivered u).raise u .space 0) ∧
        exec (.sysSmapw w a b) s = .next ((s.dropDelivered u).raise u .space 0))) ∧
    (∀ w, let t := s.performAll fun _ => true
      t.storesOut = [] → (t.cores.any fun c => c.2.inFlight) = false → (t.clusters.any fun c => c.2.inFlight) = false →
      exec (.sysMapfence w) s = .next ((t.newMaps.applySpares true).past u w.toNat)) ∧
    (∀ w a b, s.interlock u [a, b] none = .ok () →
      let ad := (s.sReg u a).val
      let all := (s.sReg u b).val.getLsbD 2
      let system := decide ((s.sReg u b).val.toNat % 4 = 3)
      (all = true ∨ addrSpace ad = 8 ∨ addrSpace ad = 9 ∧ system = true) → s.flights = [] → s.unreleased u = false → s.dvasOut = [] →
      let t := s.removeTlb fun e => !(all || e.covers (bits ad.toNat 47 0))
      exec (.sysTlbinv w a b) s = .next
        ((if system then { t with sysCached := if all then [] else Tab.drop t.sysCached (bits ad.toNat 59 44) } else t).past u w.toNat)) ∧
    (∀ w d a, s.interlock u [a] (some (d, true)) = .ok () →
      let mask := (s.sReg u a).val.toNat
      let s0 := s.dropLate mask
      (s0.waitingIn mask = [] →
        exec (.sysLnpop w d a) s = .next ((s0.putS u d { val := 0, tag := 31 } 1).past u w.toNat)) ∧
      (∀ l, bestLaunch s0.devns.toNat (s0.waitingIn mask) = some l → l.failCause = none →
        exec (.sysLnpop w d a) s = .next (((s0.onLaunch l.id fun l =>
          if l.saverec = 0 then { l with state := .running }
          else { l with state := .running, absentLo := true, absentHi := true, savePtr := l.saverec, indexSaved := true, epochsSaved := true }).putS u d
          { val := l.recAddr, tag := 31 } 1).past u w.toNat)) ∧
      (∀ o t, s0.chooseLaunch mask (s0.launches.length + 1) = (o, t) →
        exec (.sysLnpop w d a) s = .next ((t.putS u d { val := match o with | some l => l.recAddr | none => 0, tag := 31 } 1).past u w.toNat))) ∧
    (∀ w a bs t0 t l, s.interlock u [a] none = .ok () → s.load u (s.sReg u a).val 64 = .ok (bs, t0) → field bs 8 1 ≤ 3 →
      t0.release u = .ok t → t.findLaunch (fun l => decide (l.lid = field bs 0 8 ∧ l.state ≠ .waiting)) = some l →
      let t1 := t.endLaunch l (field bs 8 1) (field bs 9 1) bs
      (l.sent = none → field bs 8 1 ≠ 3 → t1.launch? l.id = none → exec (.sysLnret w a) s = .next (t1.past u w.toNat)) ∧
      (l.sent = none → field bs 8 1 ≠ 3 → t1.launch? l.id ≠ none → exec (.sysLnret w a) s = .next (t1.again u)) ∧
      (∀ n, l.sent = some n → (t.unacked.any fun p => p.seq == n) = false → exec (.sysLnret w a) s = .next ((t.dropLaunch l.id).past u w.toNat)) ∧
      (∀ n, l.sent = some n → (t.unacked.any fun p => p.seq == n) = true →
        exec (.sysLnret w a) s = .next ((s.setWait u .retry).setReadyAt u (s.time + 1))) ∧
      (∀ t1, l.sent = none → field bs 8 1 = 3 → t.requeue u l (bytesW64 bs 0x30) = .ok t1 → exec (.sysLnret w a) s = .next (t1.past u w.toNat))) ∧
    (∀ w a bs t0 t, s.interlock u [a] none = .ok () → s.load u (s.sReg u a).val 64 = .ok (bs, t0) → field bs 8 1 ≤ 3 →
      t0.release u = .ok t → t.findLaunch (fun l => decide (l.lid = field bs 0 8 ∧ l.state ≠ .waiting)) = none →
      exec (.sysLnret w a) s = .next (t.past u w.toNat)) ∧
    (∀ w a p z l n, s.quiet u = true → s.interlock u [a] none = .ok () → sramAt s u (s.sReg u a).val 64 p z →
      let bs := s.readKey z 64
      field bs 8 1 ≤ 3 → s.findLaunch (fun l => decide (l.lid = field bs 0 8 ∧ l.state ≠ .waiting)) = some l →
      l.sent = some n → (s.unacked.any fun p => p.seq == n) = false →
      exec (.sysLnret w a) s = .next ((s.dropLaunch l.id).past u w.toNat)) ∧
    (∀ w a b l d t x y wd h, s.interlock u [a, b] none = .ok () →
      let at' := bits (s.sReg u a).val.toNat 47 0
      rectOf (s.sReg u b).val.toNat = (x, y, wd, h) →
      s.findLaunch (fun l => ((l.state == .running || l.state == .boundary) && l.node.isNone &&
        decide (l.graph ≤ at' ∧ (at' - l.graph) % 128 = 0)) && decide ((at' - l.graph) / 128 < l.nodes)) = some l →
      let l' := { l with index := (at' - l.graph) / 128, indexSaved := false }
      let s1 := s.onLaunch l.id fun _ => l'
      s1.nodeDesc l' = .ok d → d.kind = 0 → s1.rectReady d x y wd h = true →
      (s1.startNode l' d x y wd h = .ok t → exec (.sysNstart w a b) s = .next ((t.dropDelivered (launchUnit l')).past u w.toNat)) ∧
      (1 ≤ wd → 1 ≤ h → x + wd ≤ 64 → y + h ≤ 16 → (d.usesMatrix = true → x % 4 = 0 ∧ y % 4 = 0 ∧ wd % 4 = 0 ∧ h % 4 = 0) →
        s1.flights = [] → s1.unreleased (launchUnit l') = false → l.absentLo = false → l.absentHi = false → l.epochsSaved = false →
        (∃ r, (s1.applySpares false).loadImage l' (d.word 0x18) x y wd h = .ok r) →
        ∃ t, s1.startNode l' d x y wd h = .ok t ∧ exec (.sysNstart w a b) s = .next ((t.dropDelivered (launchUnit l')).past u w.toNat))) ∧
    (∀ w a x y wd h, s.interlock u [a] none = .ok () → rectOf (s.sReg u a).val.toNat = (x, y, wd, h) →
      exec (.sysNstop w a) s = .next ((s.stopRect x y wd h).past u w.toNat)))



/-! ## Compute stream and epilogues, V words (R238 to R261) -/

namespace Sys2Proof.Says

/-- The units that run V words: a compute sequencer and an epilogue context. -/
def vectorUnit : UnitId → Bool
  | .compute _ | .epi _ _ => true
  | _ => false

/-- A lane word: wait field, destination, mask, clk to its result, whether SIGTH checks it, and a lane of the result from the
lanes of its operands, in order, and the generator. -/
abbrev LaneSpec := BitVec 3 × BitVec 5 × BitVec 3 × Nat × Bool × ((Nat → Ln) → W32 → Res)

/-- R240: floating-point lane words. -/
def floatLanes : Instr → Option LaneSpec
  | .vadd _ w d _ _ m r => some (w, d, m, 4, true, fun o g => fpAdd .fp32 r g (fopd (o 0)) (fopd (o 1)))
  | .vsub _ w d _ _ m r => some (w, d, m, 4, true, fun o g => fpSub .fp32 r g (fopd (o 0)) (fopd (o 1)))
  | .vmul _ w d _ _ m r => some (w, d, m, 4, true, fun o g => fpMul .fp32 r g (fopd (o 0)) (fopd (o 1)))
  | .vfma _ w d _ _ m r => some (w, d, m, 5, true, fun o g => fpFma .fp32 r g false (fopd (o 0)) (fopd (o 1)) (fopd (o 2)))
  | .vfms _ w d _ _ m r => some (w, d, m, 5, true, fun o g => fpFma .fp32 r g true (fopd (o 0)) (fopd (o 1)) (fopd (o 2)))
  | .vmin _ w d _ _ m => some (w, d, m, 4, false, fun o => minMaxRes false .fp32 (o 0) (o 1))
  | .vmax _ w d _ _ m => some (w, d, m, 4, false, fun o => minMaxRes true .fp32 (o 0) (o 1))
  | .vabs _ w d _ m => some (w, d, m, 4, false, fun o => signRes absCode (o 0))
  | .vneg _ w d _ m => some (w, d, m, 4, false, fun o => signRes negCode (o 0))
  | .vrcp _ w d _ m => some (w, d, m, 12, true, fun o => funRes vrcp32 (o 0))
  | .vrsq _ w d _ m => some (w, d, m, 12, true, fun o => funRes vrsq32 (o 0))
  | .vexp2 _ w d _ m => some (w, d, m, 12, true, fun o => funRes vexp232 (o 0))
  | .vlog2 _ w d _ m => some (w, d, m, 12, true, fun o => funRes vlog232 (o 0))
  | .vcvt _ w d _ e m r => if e = .cb3 then none else some (w, d, m, 4, ElemType.isFloat e, fun o => vcvtRes e r (o 0))
  | _ => none

/-- R241: integer lane words, with tag 31: sums, products, logic, and shifts by vb mod 32. -/
def integerLanes : Instr → Option LaneSpec
  | .viadd _ w d _ _ m => some (w, d, m, 4, false, fun o g => ⟨((o 0).1 + (o 1).1) % 2 ^ 32, 31, 0, g⟩)
  | .visub _ w d _ _ m => some (w, d, m, 4, false, fun o g => ⟨((o 0).1 % 2 ^ 32 + 2 ^ 32 - (o 1).1 % 2 ^ 32) % 2 ^ 32, 31, 0, g⟩)
  | .vimul _ w d _ _ m => some (w, d, m, 4, false, fun o g => ⟨(o 0).1 * (o 1).1 % 2 ^ 32, 31, 0, g⟩)
  | .vand _ w d _ _ m => some (w, d, m, 2, false, fun o g => ⟨((o 0).1 &&& (o 1).1) % 2 ^ 32, 31, 0, g⟩)
  | .vor _ w d _ _ m => some (w, d, m, 2, false, fun o g => ⟨((o 0).1 ||| (o 1).1) % 2 ^ 32, 31, 0, g⟩)
  | .vxor _ w d _ _ m => some (w, d, m, 2, false, fun o g => ⟨((o 0).1 ^^^ (o 1).1) % 2 ^ 32, 31, 0, g⟩)
  | .vshl _ w d _ _ m => some (w, d, m, 2, false, fun o g => ⟨(o 0).1 * 2 ^ ((o 1).1 % 32) % 2 ^ 32, 31, 0, g⟩)
  | .vshr _ w d _ _ m => some (w, d, m, 2, false, fun o g => ⟨(o 0).1 % 2 ^ 32 / 2 ^ ((o 1).1 % 32), 31, 0, g⟩)
  | .vsra _ w d _ _ m => some (w, d, m, 2, false, fun o g => ⟨((sext 32 (o 0).1 / 2 ^ ((o 1).1 % 32)) % 2 ^ 32).toNat, 31, 0, g⟩)
  | _ => none

/-- R242, R250, R251: words that move lanes: wait field, destination, clk, the lanes written, and a lane of the result. -/
def movedLanes (y : VIssue) : Instr → Option (BitVec 3 × BitVec 5 × Nat × W64 × (Nat → Ln))
  | .vsel _ w d _ _ m => some (w, d, 2, BitVec.allOnes 64, fun i => if (y.mask m).getLsbD i then y.op 0 i else y.op 1 i)
  | .vperm w d _ _ m => some (w, d, 3, y.mask m, fun i => y.op 0 ((y.op 1 i).1 % 64))
  | .vsigRead w d _ m => some (w, d, 2, y.mask m, fun i => (min (y.op 0 i).2.toNat 24, 31))
  | .vsigWrite w d _ _ m => some (w, d, 2, y.mask m, fun i => ((y.op 0 i).1, BitVec.ofNat 5 (min (y.op 1 i).1 24)))
  | .vsigMintag w d _ m => some (w, d, 2, BitVec.allOnes 64, fun _ =>
      ((List.range 64).foldl (fun t j => if (y.mask m).getLsbD j then min t (min (y.op 0 j).2.toNat 24) else t) 24, 31))
  | .vssig w d _ _ m => some (w, d, 2, y.mask m, fun i =>
      ((y.op 0 i).1, BitVec.ofNat 5 (min (min (y.op 0 i).2.toNat 24) (min (y.op 1 i).2.toNat 24))))
  | .vbcast w d k => some (w, d, 2, BitVec.allOnes 64, fun _ => ((y.k k).toNat % 2 ^ 32, 31))
  | _ => none

/-- A V word has issued at `y` and is over: what its issue took counts as further slots. -/
def issued (t : State) (u : UnitId) (y : VIssue) (w : BitVec 3) : State := t.past u (w.toNat + y.delay)

/-- An address names n bytes of the issuer's scratchpad, aligned: their offset in it. -/
def scratchAt (y : VIssue) (u : UnitId) (a : W64) (n align off : Nat) : Prop :=
  y.s.resolve (y.s.who u) a n = .ok (.inl (.scratch u.cl off)) ∧ a.toNat % align = 0

/-- The result of a lane word on every active lane. -/
def lanesOf (y : VIssue) (u : UnitId) (mask : W64) (f : (Nat → Ln) → W32 → Res) : LaneRun :=
  runMasked mask (fun i => f fun n => y.op n i) (y.s.num u).sr (List.range 64)

end Sys2Proof.Says

/-- R135, R238, R240, R241, R243, R246 to R248: a lane word computes each active lane, its tag and flags, in ascending order with one
generator; a checked tag below the threshold raises SIG_THRESHOLD after its results are written. An integer word gives tag 31 and
raises nothing. VCVT to CB3 is ILLEGAL. -/
def Obligations.VectorLaneWords : Prop :=
  ((∀ (i : Instr) w d m lat chk f, floatLanes i = some (w, d, m, lat, chk, f) →
    ∀ (s : State) u y, vectorUnit u = true → s.cur = u → s.vissue u (vectorUse i) = .ok y →
    let mask := y.mask m
    let r := lanesOf y u mask f
    let t := (y.putV y.s d mask r.lanes lat).collect u r.flags r.sr
    ((chk = true ∧ t.lowLane u mask r.lanes = true) → exec i s = .next ((t.dropDelivered u).raise u .sigThreshold 0)) ∧
    (¬ (chk = true ∧ t.lowLane u mask r.lanes = true) → exec i s = .next (issued t u y w))) ∧
  (∀ (s : State) u z w d a m r, vectorUnit u = true → s.cur = u →
    exec (.vcvt z w d a .cb3 m r) s = .next ((s.dropDelivered u).raise u .illegal 0))) ∧
  (∀ (i : Instr) w d m lat chk f, integerLanes i = some (w, d, m, lat, chk, f) →
    ∀ (s : State) u y, vectorUnit u = true → s.cur = u → s.vissue u (vectorUse i) = .ok y →
    let mask := y.mask m
    let r := lanesOf y u mask f
    exec i s = .next (issued ((y.putV y.s d mask r.lanes lat).collect u 0 (y.s.num u).sr) u y w))


/-- R242, R244, R249 to R251: words that move lanes, compare into a mask, split a value and its residue, reduce, or work on k
registers; an epilogue's VMOVK reads e0 to e3 alone. -/
def Obligations.VectorMoveWords : Prop :=
  ∀ (s : State) u y, vectorUnit u = true → s.cur = u →
    (∀ i w d lat mask f, s.vissue u (vectorUse i) = .ok y → movedLanes y i = some (w, d, lat, mask, f) →
      exec i s = .next (issued (y.putV y.s d mask ((List.range 64).map f) lat) u y w)) ∧
    (∀ z w (d : BitVec 3) a b m c, let i : Instr := .vcmp z w d a b m c
      s.vissue u (vectorUse i) = .ok y →
      exec i s = .next (issued (y.pend y.s (mPlace u d) (.word (maskOf fun j =>
        (y.mask m).getLsbD j && vcond c (v32 (y.op 0 j).1) (v32 (y.op 1 j).1))) 3) u y w)) ∧
    (∀ z w d a b m r, let i : Instr := .vefb z w d a b m r
      (d = b → exec i s = .next ((s.dropDelivered u).raise u .illegal 0)) ∧
      (d ≠ b → s.vissue u (vectorUse i) = .ok y → efbTypes y.d.efbt = none →
        exec i s = .next ((s.dropDelivered u).raise u .illegal 0)) ∧
      (∀ det ret, d ≠ b → s.vissue u (vectorUse i) = .ok y → efbTypes y.d.efbt = some (det, ret) →
        let mask := y.mask m
        let rs := lanesOf y u mask fun o g => (efbLane det ret r (o 0) g).1
        let es := lanesOf y u mask fun o g => (efbLane det ret r (o 0) g).2
        let t := (y.putV (y.putV y.s d mask rs.lanes 4) b mask es.lanes 5).collect u (rs.flags ||| es.flags) rs.sr
        t.lowLane u mask rs.lanes = false → t.lowLane u mask es.lanes = false → exec i s = .next (issued t u y w))) ∧
    (∀ w d a m f, let i : Instr := .vred w d a m f
      s.vissue u (vectorUse i) = .ok y →
      let xs := (List.range 64).map fun j => if (y.mask m).getLsbD j then some ((y.op 0 j).1, BitVec.ofNat 5 (fopd (y.op 0 j)).tag) else none
      let r := redTree (redCombine f) 6 xs
      let v := r.1.getD (0, 24)
      let t := (y.putV y.s d (BitVec.allOnes 64) (List.replicate 64 v) 8).collect u r.2 (y.s.num u).sr
      (f = .sum → t.sigLow u v.2.toNat = false) → exec i s = .next (issued t u y w)) ∧
    (∀ w (d : BitVec 4) (l : BitVec 6) a, let i : Instr := .vmovk w d l a
      s.vissue u (vectorUse i) = .ok y →
      ((∃ cl, u = .compute cl) ∨ a.toNat < 4 →
        exec i s = .next (issued (y.putK y.s d (BitVec.ofInt 64 (sext 32 (y.op 0 l.toNat).1)) 3) u y w)) ∧
      ((∃ cl e, u = .epi cl e) → 4 ≤ a.toNat → exec i s = .next ((s.dropDelivered u).raise u .illegal 0))) ∧
    (∀ w (d a : BitVec 4) n, let i : Instr := .kaddi w d a n
      s.vissue u (vectorUse i) = .ok y →
      exec i s = .next (issued (y.putK y.s d (y.k a + n.signExtend 64) 1) u y w))

/-- R133, R217, R252 to R254: V loads and stores of 64 lanes in the cluster's scratchpad: a load widens what it reads, a store narrows
its lanes and collects their flags; VSTT and VLDT carry the tag bytes too. With nothing of the issuer under way and every address in the
scratchpad and aligned, each completes at once. -/
def Obligations.VectorMemoryWords : Prop :=
  ∀ (s : State) u y w d (k : BitVec 4) e, vectorUnit u = true → s.cur = u →
    (∀ n p bs t, s.vissue u (vectorUse (.vld w d k n e)) = .ok y → e ≠ .cb3 →
      y.s.scratchPart u (y.k k + BitVec.ofNat 64 (256 * n.toNat)) (8 * ElemType.bits e) (ElemType.size e) = .ok p →
      y.read [p] = .ok (bs, t) →
      exec (.vld w d k n e) s = .next (issued (y.putV t d (BitVec.allOnes 64) ((unpackCodes e bs).map (laneOfCode e)) 0) u y w)) ∧
    (∀ n p t, s.vissue u (vectorUse (.vst w d k n e)) = .ok y → e ≠ .cb3 →
      y.s.scratchPart u (y.k k + BitVec.ofNat 64 (256 * n.toNat)) (8 * ElemType.bits e) (ElemType.size e) = .ok p →
      y.s.writePart (y.s.who u) p (packCodes e (y.narrow 0 e).1) (some (y.d.vdom.toNat, e)) = .ok t →
      exec (.vst w d k n e) s = .next (issued (t.collect u (y.narrow 0 e).2 (t.num u).sr) u y w)) ∧
    (∀ a ps bs t, s.vissue u (vectorUse (.vldg w d a k e)) = .ok y → wholeBytes e = true →
      y.lanesAt k e 64 0 = .ok ps → y.read ps = .ok (bs, t) →
      exec (.vldg w d a k e) s = .next (issued (y.putV t d (BitVec.allOnes 64) ((unpackCodes e bs).map (laneOfCode e)) 0) u y w)) ∧
    (∀ a ps t, s.vissue u (vectorUse (.vsts w d a k e)) = .ok y → wholeBytes e = true → y.lanesAt k e 64 0 = .ok ps →
      y.s.writeParts (y.s.who u) (some (y.d.vdom.toNat, e)) ps (packCodes e (y.narrow 1 e).1) = .ok t →
      exec (.vsts w d a k e) s = .next (issued (t.collect u (y.narrow 1 e).2 (t.num u).sr) u y w)) ∧
    (∀ n p q t t', s.vissue u (vectorUse (.vstt w d k n .fp32)) = .ok y →
      y.tagged (y.k k + BitVec.ofNat 64 (256 * n.toNat)) = .ok (p, q) →
      y.s.writePart (y.s.who u) p (packCodes .fp32 ((List.range 64).map fun i => (y.op 0 i).1)) (some (y.d.vdom.toNat, .fp32)) = .ok t →
      t.writePart (y.s.who u) q ((List.range 64).map fun i => byteOfTag (y.op 0 i).2) none = .ok t' →
      exec (.vstt w d k n .fp32) s = .next (issued t' u y w)) ∧
    (∀ n p q bs t, s.vissue u (vectorUse (.vldt w d k n .fp32)) = .ok y →
      y.tagged (y.k k + BitVec.ofNat 64 (256 * n.toNat)) = .ok (p, q) → y.read [p, q] = .ok (bs, t) →
      exec (.vldt w d k n .fp32) s = .next (issued (y.putV t d (BitVec.allOnes 64)
        (((List.range 64).zip (unpackCodes .fp32 (bs.take 256))).map fun (i, c) => (c, tagOfByte ((bs.drop 256).getD i 0))) 0) u y w)) ∧
    (∀ (n : BitVec 8) a off (lane : Nat → Nat), y.s.quiet u = true →
      let ad := y.k k + BitVec.ofNat 64 (256 * n.toNat)
      let key (o : Nat) := y.s.scratchKey u.cl o
      (s.vissue u (vectorUse (.vld w d k n e)) = .ok y → e ≠ .cb3 → scratchAt y u ad (8 * ElemType.bits e) (ElemType.size e) off →
        exec (.vld w d k n e) s = .next (issued (y.putV y.s d (BitVec.allOnes 64)
          ((unpackCodes e (y.s.readKey (key off) (8 * ElemType.bits e))).map (laneOfCode e)) 0) u y w)) ∧
      (s.vissue u (vectorUse (.vst w d k n e)) = .ok y → e ≠ .cb3 → scratchAt y u ad (8 * ElemType.bits e) (ElemType.size e) off →
        ∃ t, OnlyMemory y.s t ∧ exec (.vst w d k n e) s = .next (issued (t.collect u (y.narrow 0 e).2 (t.num u).sr) u y w)) ∧
      (s.vissue u (vectorUse (.vldg w d a k e)) = .ok y → wholeBytes e = true →
        (∀ i < 64, scratchAt y u (y.k k + BitVec.ofInt 64 (sext 32 (y.op 0 i).1)) (ElemType.size e) (ElemType.size e) (lane i)) →
        exec (.vldg w d a k e) s = .next (issued (y.putV y.s d (BitVec.allOnes 64)
          ((unpackCodes e ((List.range 64).flatMap fun i => y.s.readKey (key (lane i)) (ElemType.size e))).map (laneOfCode e)) 0) u y w)) ∧
      (s.vissue u (vectorUse (.vsts w d a k e)) = .ok y → wholeBytes e = true →
        (∀ i < 64, scratchAt y u (y.k k + BitVec.ofInt 64 (sext 32 (y.op 0 i).1)) (ElemType.size e) (ElemType.size e) (lane i)) →
        ∃ t, OnlyMemory y.s t ∧ exec (.vsts w d a k e) s = .next (issued (t.collect u (y.narrow 1 e).2 (t.num u).sr) u y w)) ∧
      (∀ g tagOff, scratchAt y u ad 256 4 off → tagAddr (y.s.num u).tagbase ad = some g → scratchAt y u g 64 1 tagOff →
        (s.vissue u (vectorUse (.vstt w d k n .fp32)) = .ok y →
          ∃ t, OnlyMemory y.s t ∧ exec (.vstt w d k n .fp32) s = .next (issued t u y w)) ∧
        (s.vissue u (vectorUse (.vldt w d k n .fp32)) = .ok y →
          exec (.vldt w d k n .fp32) s = .next (issued (y.putV y.s d (BitVec.allOnes 64)
            (((List.range 64).zip (unpackCodes .fp32 (y.s.readKey (key off) 256))).map fun (i, c) =>
              (c, tagOfByte ((y.s.readKey (key tagOff) 64).getD i 0))) 0) u y w)))) ∧
    (∀ n a, e = .cb3 →
      (s.vissue u (vectorUse (.vld w d k n e)) = .ok y → exec (.vld w d k n e) s = .next ((s.dropDelivered u).raise u .illegal 0)) ∧
      (s.vissue u (vectorUse (.vst w d k n e)) = .ok y → exec (.vst w d k n e) s = .next ((s.dropDelivered u).raise u .illegal 0)) ∧
      (s.vissue u (vectorUse (.vldg w d a k e)) = .ok y → exec (.vldg w d a k e) s = .next ((s.dropDelivered u).raise u .illegal 0)))

/-- R17, R255 to R257: branches, loops, markers and control registers of the compute stream. A branch taken inside the stream goes to
its target, and one not taken falls through. -/
def Obligations.ComputeControlWords : Prop :=
  ∀ (s : State) u y, vectorUnit u = true → s.cur = u →
    (∀ w k c o, s.vissue u (vectorUse (.vbr w k c o)) = .ok y →
      let v := y.k k
      let taken := c.holds { z := v == 0, n := v.getLsbD 63, c := true, v := false }
      let target := y.s.pc u + 4 * o.signExtend 32
      (taken = false → exec (.vbr w k c o) s = .next (issued y.s u y w)) ∧
      (taken = true → target.toNat < y.s.streamLen u →
        exec (.vbr w k c o) s = .next ((y.s.retireTo u target (w.toNat + y.delay)).dropDelivered u)) ∧
      (taken = true → y.s.streamLen u ≤ target.toNat →
        exec (.vbr w k c o) s = .next ((y.s.dropDelivered u).raise u .illegal 0))) ∧
    (∀ w o, let target := s.pc u + 4 * o.signExtend 32
      (target.toNat < s.streamLen u → exec (.vjmp w o) s = .next ((s.retireTo u target w.toNat).dropDelivered u)) ∧
      (s.streamLen u ≤ target.toNat → exec (.vjmp w o) s = .next ((s.dropDelivered u).raise u .illegal 0))) ∧
    (∀ w k o, s.vissue u (vectorUse (.vloop w k o)) = .ok y →
      let v := y.k k - 1
      let target := y.s.pc u + 4 * o.signExtend 32
      (v = 0 → exec (.vloop w k o) s = .next ((y.putK (y.s.retire u (w.toNat + y.delay)) k v 1).dropDelivered u)) ∧
      (v ≠ 0 → target.toNat < y.s.streamLen u →
        exec (.vloop w k o) s = .next ((y.putK (y.s.retireTo u target (w.toNat + y.delay)) k v 1).dropDelivered u)) ∧
      (v ≠ 0 → y.s.streamLen u ≤ target.toNat → exec (.vloop w k o) s = .next ((y.s.dropDelivered u).raise u .illegal 0))) ∧
    (∀ w (m : BitVec 8), (∃ cl, u = .compute cl) →
      exec (.vMark w m) s = .next ((s.mark (some u) u.cl (s.launchId u) m.toNat).past u w.toNat)) ∧
    (∀ w d (r : BitVec 10) v, s.vissue u (vectorUse (.vsysCrr w d r)) = .ok y → y.s.readCr u r.toNat = .ok v →
      exec (.vsysCrr w d r) s = .next (issued (y.putK y.s d (BitVec.ofNat 64 v) 0) u y w)) ∧
    (∀ w k (r : BitVec 10) t, (∃ cl, u = .compute cl) → s.vissue u (vectorUse (.vsysCrw w k r)) = .ok y →
      y.s.writeCr u r.toNat (y.k k).toNat = .ok t → exec (.vsysCrw w k r) s = .next (issued t u y w)) ∧
    (∀ w d, s.vissue u (vectorUse (.vsysTime w d)) = .ok y →
      exec (.vsysTime w d) s = .next (issued (y.putK y.s d (BitVec.ofNat 64 (s.time % 2 ^ 56)) 0) u y w))

/-- R259, R260: EPOUT puts the row's bytes and tags into its drain buffer entry, once for a row, else ILLEGAL; EPIRET frees the
context and makes the row ready for release. -/
def Obligations.EpilogueWords : Prop :=
  ∀ (s : State) (cl c : Nat), s.cur = .epi cl c →
    let u : UnitId := .epi cl c
    let x := (s.dense cl).epiCtx c
    (∀ w a e y r, s.vissue u (vectorUse (.epout w a e)) = .ok y → (s.dense cl).drain.find? (fun r => r.id == x.row) = some r →
      ((e = .cb3 ∨ x.outDone = true ∨ (fmtDtag r.fmt = true ∧ e ≠ .fp32)) →
        exec (.epout w a e) s = .next ((s.dropDelivered u).raise u .illegal 0)) ∧
      (e ≠ .cb3 → x.outDone = false → (fmtDtag r.fmt = true → e = .fp32) →
        let t := y.s.onDense cl fun d => { d.setEpi c { d.epiCtx c with outDone := true } with
          drain := d.drain.map fun r => if r.id = x.row then { r with
            bytes := packCodes e (y.narrow 0 e).1, tags := (List.range 64).map fun i => byteOfTag (y.op 0 i).2
            et := ElemType.code e } else r }
        exec (.epout w a e) s = .next (issued (t.collect u (y.narrow 0 e).2 (t.num u).sr) u y w))) ∧
    (∀ w, exec (.epiret w) s = .next ((s.onDense cl fun d => { d.setEpi c { d.epiCtx c with live := false } with
      drain := d.drain.map fun r => if r.id = x.row then { r with state := 2 } else r }).past u w.toNat))

/-! ## Promises, the matrix unit, the copy engine, the engines: words (R64 to R105, R190, R192, R216, R233, R279 to R290) -/

namespace Sys2Proof.Says

/-- The unit, slot and idle slots of a WAITP on a promise slot. -/
def waitpWord (u : UnitId) : Instr → Option (Nat × Nat)
  | .sWaitp w p => match u with | .scalar _ => some (p.toNat, w.toNat) | _ => none
  | .cWaitp w => match u with | .load _ | .store _ => some (w.toNat, 0) | _ => none
  | .vWaitp w p => match u with | .compute _ => some (p.toNat, w.toNat) | _ => none
  | _ => none

/-- The wait field of a word that queues a tile command. -/
def tileWait : Instr → Option (BitVec 3)
  | .mma w .. | .mmac w .. | .mmak w .. | .mzero w .. | .mdrain w .. | .mldacc w .. => some w
  | _ => none

/-- R279, R280, R286: what a compute-stream tile word captures: the oldest format word but for MZERO, the grant, the condenser's K, TAGBASE,
the t registers it names, and the threshold where SIGEN is set. -/
def captured (s : State) (cl : Nat) (i : Instr) (m : MWord) : MCmd :=
  let d := s.dense cl
  let t (n : Nat) : TReg := Tab.get {} d.t (n % 16)
  { word := i, fmt := if m.op = .mzero then 0 else d.fq.headD 0, grant := d.grant, kprime := d.condenserK, tagbase := d.cp.num.tagbase
    seq := d.cp.seq, pc := s.pc (.compute cl), thr := if d.cp.num.sigen then some d.cp.num.thr else none, follow := false
    regs := if m.op.multiplies then [t m.a, t (m.a + 1), t m.b, t (m.b + 1)] else [t m.a] }

/-- R286, R376: a tile word has its format word, an MMAK an idle condenser, none of what it names is poisoned, and its checks pass. -/
def tileReady (s : State) (cl : Nat) (i : Instr) (m : MWord) : Prop :=
  (m.op = .mmak → (s.dense cl).condenserBusy = false) ∧ (m.op ≠ .mzero → (s.dense cl).fq ≠ [] ∧ 0 ∉ (s.dense cl).fqBad) ∧
  (∀ n ∈ (if m.op.multiplies then [m.a, m.a + 1, m.b, m.b + 1] else if m.op = .mzero then [] else [m.a]),
    PendDest.t (2 * (n % 16)) ∉ (s.dense cl).bad ∧ PendDest.t (2 * (n % 16) + 1) ∉ (s.dense cl).bad) ∧
  s.checkCmd cl m (captured s cl i m) (match s.nodeOf (.compute cl) with | some n => n.epis | none => []) = .ok ()

/-- R69 to R71: a descriptor of some elements passes every check, and each of its sides begins in SRAM of this device. -/
def copyReady (s : State) (w : Who) (d : Desc) (tagbase : BitVec 49) : Prop :=
  d.ok = true ∧ d.total ≠ 0 ∧
  (∀ x ∈ d.sides tagbase, s.sideSpace w x = none ∧ x.misaligned = false ∧
    ∃ p : Place, p.onDevice = true ∧ s.resolve w x.base x.first = .ok (.inl p)) ∧
  ∀ i j x y, i < j → j < (if d.mode = 2 then 3 else 2) → (d.sides tagbase)[i]? = some x → (d.sides tagbase)[j]? = some y →
    x.overlaps w y = false

/-- A load or store sequencer. -/
def copyUnit : UnitId → Bool
  | .load _ | .store _ => true
  | _ => false

/-- The event that ends a wait of a unit on a word. -/
def wokenBy (w : Wait) : Instr → Instr → Bool
  | .waitpComplete, i | .promiseExpiry, i => (match w with | .promise _ | .stat _ => true | _ => false) &&
      match i with | .lWaitp .. | .sWaitp .. | .cWaitp .. | .vWaitp .. => true | _ => false
  | .tokenWaitComplete, i => (match w with | .token .. => true | _ => false) &&
      match i with | .sTwait .. | .cTwait .. | .vTwait .. => true | _ => false
  | .waitcComplete, i => (match w with | .counter .. => true | _ => false) && match i with | .waitc .. => true | _ => false
  | .waittExpiry, i => (match w with | .untilTime _ => true | _ => false) && match i with | .waitt _ => true | _ => false
  | .cfenceComplete, i => (match w with | .fence _ => true | _ => false) && match i with | .cfence | .cHalt => true | _ => false
  | .msyncComplete, i => (match w with | .msync _ => true | _ => false) && match i with | .msync _ => true | _ => false
  | .wfeWake, i => (match w with | .wfe => true | _ => false) && match i with | .sysWfe _ => true | _ => false
  | .epochAdvance, i => (match w with | .epoch _ => true | _ => false) && match i with | .tepoch _ => true | _ => false
  | _, _ => false

/-- A unit sleeps on a word whose wait an event ends: it may issue, and the word at its PC is that one. -/
def asleep (s : State) (ev i : Instr) : Prop :=
  s.cur = s.arg.u ∧ s.canIssue s.arg.u = true ∧ wokenBy (s.wait s.arg.u) ev i = true ∧
    ∃ w t, s.fetch s.arg.u = .ok (w, t) ∧ decodeWord (streamOf s.arg.u) w = .ok i

/-- Queue, count and idle slots of a TWAIT. -/
def twaitWord : Instr → Option (Nat × Nat × Nat)
  | .sTwait w q n => some (q.toNat, n.toNat, w.toNat)
  | .cTwait q n => some (q.toNat, n.toNat, 0)
  | .vTwait w n q => some (q.toNat, n.toNat, w.toNat)
  | _ => none

/-- A promise refreshed: that of the command that a descriptor of tile memory queued, if it is still there (R190). -/
def refreshed (s : State) (k o : Nat) : State :=
  match (Tab.get [] (s.cluster (clusterOf k)).ce.q 2).find? fun x => x.statAt == some o && x.core == k with
  | some x => s.refreshPromise (clusterOf k) x
  | none => s

end Sys2Proof.Says

/-- R78, R190: WAITP of a slot that is invalid or done retires; of one whose promise TIME has not reached, or whose command is
suspended or failed, it sleeps; of one whose promise is reached it refreshes the promise and raises PROMISE_MISSED. WAITP of a
descriptor in tile memory does the same by its STAT word, read at once where nothing of the context is under way. That WAITP commits nothing
is the model's reading (log 55). -/
def Obligations.PromiseWaits : Prop :=
  (∀ (s : State) u i p idle, s.cur = u → waitpWord u i = some (p, idle) → (s.dense u.cl).frozen = none →
    let x := Tab.get {} (s.dense u.cl).w p
    let c := x.cmd.bind fun id => (s.cluster u.cl).ce.find id
    ((x.valid = false ∨ x.done = true) → exec i s = .next (s.past u idle)) ∧
    (x.valid = true → x.done = false → (heldCommand c = true ∨ promiseReached s.time x.promise.toNat = false) →
      exec i s = .next ((s.setWait u (.promise p)).setReadyAt u (s.time + 1))) ∧
    (x.valid = true → x.done = false → heldCommand c = false → promiseReached s.time x.promise.toNat = true →
      let t := match c with
        | some c => s.refreshPromise u.cl c
        | none => s
      exec i s = .next ((t.dropDelivered u).raise u .promiseMissed 0))) ∧
  (∀ (s t : State) (k c : Nat) (p : BitVec 3) o bs, s.cur = .ctx k c →
    let u : UnitId := .ctx k c
    let a := ((s.ctx k c).ptr p.toNat).addr
    s.ownOffset u k a 256 = .ok o → a.toNat % 32 = 0 → s.load u (a + 0xF8) 8 = .ok (bs, t) →
    let st := bits (leNat bs) 63 60
    let reached := promiseReached t.time (bits (leNat bs) 55 0)
    ((st = 0 ∨ st = 3) → exec (.lWaitp p) s = .next (t.past u 0)) ∧
    (st ≠ 0 → st ≠ 3 → (st = 4 ∨ st = 5 ∨ reached = false) →
      exec (.lWaitp p) s = .next ((s.setWait u (.stat a)).setReadyAt u (s.time + 1))) ∧
    (st ≠ 0 → st ≠ 3 → st ≠ 4 → st ≠ 5 → reached = true →
      exec (.lWaitp p) s = .next (((refreshed t k o).dropDelivered u).raise u .promiseMissed 0))) ∧
  (∀ (s : State) (k c : Nat) (p : BitVec 3), s.quiet (.ctx k c) = true →
    let u : UnitId := .ctx k c
    let a := ((s.ctx k c).ptr p.toNat).addr
    let stat := leNat (s.ownBytes k (a + 0xF8) 8)
    a.toNat % 32 = 0 → a.toNat + 256 ≤ 2 ^ 21 →
    ((bits stat 63 60 = 0 ∨ bits stat 63 60 = 3) → exec (.lWaitp p) s = .next (s.past u 0)) ∧
    (bits stat 63 60 ≠ 0 → bits stat 63 60 ≠ 3 →
      (bits stat 63 60 = 4 ∨ bits stat 63 60 = 5 ∨ promiseReached s.time (bits stat 55 0) = false) →
      exec (.lWaitp p) s = .next ((s.setWait u (.stat a)).setReadyAt u (s.time + 1))) ∧
    (bits stat 63 60 ≠ 0 → bits stat 63 60 ≠ 3 → bits stat 63 60 ≠ 4 → bits stat 63 60 ≠ 5 →
      promiseReached s.time (bits stat 55 0) = true →
      exec (.lWaitp p) s = .next (((refreshed s k a.toNat).dropDelivered u).raise u .promiseMissed 0)))

/-- R31, R212, R279 to R281, R285, R286, R363: MNOP takes a slot; a tile word that passes its checks joins a queue of fewer than 8,
captured as it stands at issue, and waits on a full one or on the clk after an acceptance; MSYNC goes on when every command accepted
before it is complete. In a handler all are ILLEGAL. A capture pops the format word of every command but MZERO, keeps the grant, the
condenser's K and the threshold, and advances the t registers that ADV names; an empty queue is FQ_UNDERFLOW, a follow-on waits in the
clk of a pop, an MMAK for the condenser. With no store of the stream in flight, a word that has its format word and whose checks pass
is accepted at once. -/
def Obligations.MatrixWords : Prop :=
  (∀ (s : State) (cl : Nat), s.cur = .compute cl →
    let u : UnitId := .compute cl
    let d := s.dense cl
    (∀ w, d.frozen = none → exec (.mnop w) s = .next (s.past u w.toNat)) ∧
    (∀ w, d.frozen ≠ none → exec (.mnop w) s = .next ((s.dropDelivered u).raise u .illegal 0) ∧
      exec (.msync w) s = .next ((s.dropDelivered u).raise u .illegal 0)) ∧
    (∀ i w, tileWait i = some w →
      (d.frozen ≠ none → exec i s = .next ((s.dropDelivered u).raise u .illegal 0)) ∧
      (d.frozen = none → (8 ≤ d.mq.length ∨ s.time < d.mqAt) → exec i s = .next ((s.setWait u .retry).setReadyAt u (s.time + 1))) ∧
      (∀ m c t, d.frozen = none → d.mq.length < 8 → d.mqAt ≤ s.time → mword i = some m → (s.drain u).captureCmd cl i m (s.pc u) false = .ok (c, t) →
        exec i s = .next ((t.acceptCmd cl c).past u w.toNat)) ∧
      (∀ m, d.frozen = none → d.mq.length < 8 → d.mqAt ≤ s.time → mword i = some m → s.flights = [] → tileReady s cl i m →
        let regs := if m.adv then m.advances (captured s cl i m).fmt else []
        let t := s.onDense cl fun d => { d with
          fq := if m.op = .mzero then d.fq else d.fq.drop 1
          fqBad := if m.op = .mzero then d.fqBad else d.fqBad.filterMap fun i => if i = 0 then none else some (i - 1)
          popAt := if m.op = .mzero then d.popAt else s.time + 1
          t := regs.foldl (fun t n => Tab.set t n (Tab.get {} t n).advance) d.t }
        exec i s = .next ((t.acceptCmd cl (captured s cl i m)).past u w.toNat))) ∧
    (∀ w, d.frozen = none →
      let ids := match s.wait u with
        | .msync ids => ids.filter fun i => d.cmdIds.elem i
        | _ => d.cmdIds
      (ids = [] → exec (.msync w) s = .next (s.past u w.toNat)) ∧
      (ids ≠ [] → exec (.msync w) s = .next ((s.setWait u (.msync ids)).setReadyAt u (s.time + 1))))) ∧
  (∀ (s : State) (cl : Nat) i (m : MWord) pc follow,
    let free : Prop := ¬ (follow = true ∧ m.op ≠ .mzero ∧ (s.dense cl).popAt = s.time + 1)
    (¬ free → s.captureCmd cl i m pc follow = .error (.wait .retry)) ∧
    (free → m.op ≠ .mzero → (s.dense cl).fq = [] → s.captureCmd cl i m pc follow = .error (.trap .fqUnderflow 0 s)) ∧
    (free → m.op = .mmak → (s.dense cl).fq ≠ [] → (s.dense cl).condenserBusy = true →
      s.captureCmd cl i m pc follow = .error (.wait .retry)) ∧
    (∀ c t, s.captureCmd cl i m pc follow = .ok (c, t) →
      c.word = i ∧ c.pc = pc ∧ c.follow = follow ∧ c.grant = (s.dense cl).grant ∧ c.kprime = (s.dense cl).condenserK ∧
      c.fmt = (if m.op = .mzero then 0 else (s.dense cl).fq.headD 0) ∧
      (t.dense cl).fq = (if m.op = .mzero then (s.dense cl).fq else (s.dense cl).fq.drop 1) ∧
      c.thr = (if (s.dense cl).cp.num.sigen then some (s.dense cl).cp.num.thr else none) ∧
      (t.dense cl).t = (if m.adv then (m.advances c.fmt).foldl (fun t n => Tab.set t n (Tab.get {} t n).advance) (s.dense cl).t
        else (s.dense cl).t) ∧ SameMemory s t ∧ t.cores = s.cores))


/-- R76, R84, R85, R192: CPY and COPY that pass the checks queue their command with its promise and go on; DLOAD starts a fill of its
descriptor register, in the order of its pages' types. A full queue and a fill under way are waited for. With every side in SRAM of this device, and a descriptor table
whose page the cluster's TLB holds, all three complete at once. -/
def Obligations.CopyWords : Prop :=
  (∀ (s s1 s2 : State) u (d : BitVec 4) (w : BitVec 3) q l sc f p t (k : BitVec 3) places m, s.cur = u → copyUnit u = true →
    let cl := u.cl
    let rq := requesterOf u
    let x := (s.dense cl).dreg u d.toNat
    (f = true → rq = 0) → (t = true → sendsOn u k.toNat = true) → x.fill = none →
    let bs := (x.act ++ List.replicate (256 - x.act.length) 0).take 256
    (16 ≤ (Tab.get [] (s.cluster cl).ce.q rq).length →
      exec (.cpy d w q l sc f p t k) s = .next ((s.setWait u .retry).setReadyAt u (s.time + 1))) ∧
    ((Tab.get [] (s.cluster cl).ce.q rq).length < 16 → x.poison = false →
      s.checkCopy (s.copyWho cl rq u) (Desc.ofBytes bs) (s.num u).tagbase = .ok (places, s1) →
      (if f then ∃ mm, m = some mm ∧ s1.captureFollow cl (Desc.ofBytes bs) (s.pc u) = .ok (mm, s2) else m = none ∧ s2 = s1) →
      let r := s2.enqueueCopy cl rq
        { id := 0, desc := bs, q := rq, issuer := u, core := cornerCore cl, who := (s.pc u).toNat, slot := some w.toNat
          acq := q, rel := l, scope := sc.code, tok := if t then some k.toNat else none, follow := m, tagbase := (s.num u).tagbase } places
      let t' := r.1.onDense cl fun y =>
        let y := { y with w := Tab.set y.w w.toNat { valid := true, done := false, promise := r.2.promise, cmd := some r.2.id } }
        if p then y.setDreg u d.toNat { y.dreg u d.toNat with act := stepDesc bs } else y
      exec (.cpy d w q l sc f p t k) s = .next ((t'.completeEmpty cl rq r.2).past u 0))) ∧
  (∀ (s t : State) u (d : BitVec 4) (i : BitVec 16) n ps, s.cur = u → copyUnit u = true → s.nodeOf u = some n → i.toNat < n.dtCount →
    ((s.dense u.cl).dreg u d.toNat).fill = none →
    s.locate (s.who u) (BitVec.ofNat 64 (8 * 2 ^ 60 + (n.dtBase + 256 * i.toNat) % 2 ^ 60)) 256 .r = .ok (ps, t) →
    (∀ p ∈ ps, t.inOrder u p.mtype = true) →
    exec (.dload d i) s = .next ((t.onDense u.cl fun y => y.setDreg u d.toNat { y.dreg u d.toNat with
      fill := some (ps.map fun p => (p.place, p.len, p.name)), id := t.nextId }).stamp.past u 0)) ∧
  (∀ (s s1 s2 : State) (core c : Nat) (a k : BitVec 3) n p l q sc o bs places, s.cur = .ctx core c →
    let u : UnitId := .ctx core c
    let cl := clusterOf core
    let ad := ((s.ctx core c).ptr a.toNat).addr
    s.ownOffset u core ad 256 = .ok o → ad.toNat % 32 = 0 → s.load u ad 256 = .ok (bs, s1) →
    (Tab.get [] (s1.cluster cl).ce.q 2).length < 32 →
    s1.checkCopy (s1.copyWho cl 2 u) (Desc.ofBytes bs) (s1.num u).tagbase = .ok (places, s2) →
    ∀ s3, s2.commit u true = .ok s3 →
    let r := s3.enqueueCopy cl 2
      { id := 0, desc := bs, q := 2, issuer := u, core := core, who := coreIndex core * 2 ^ 21 + o, statAt := some o
        acq := q, rel := l, scope := sc.code, counter := if n then some k.toNat else none, tagbase := (s1.num u).tagbase } places
    let t := r.1.writeStat r.2 1
    let t := if p then t.writePlace (.tile core o) ((stepDesc bs).take 16) none else t
    exec (.copy a k n p l q sc) s = .next ((t.completeEmpty cl 2 r.2).past u 0)) ∧
  ((∀ (s : State) u (d : BitVec 4) (w : BitVec 3) q l sc p t (k : BitVec 3), s.cur = u → copyUnit u = true →
    let cl := u.cl
    let rq := requesterOf u
    let x := (s.dense cl).dreg u d.toNat
    let bs := (x.act ++ List.replicate (256 - x.act.length) 0).take 256
    (t = true → sendsOn u k.toNat = true) → x.fill = none → (Tab.get [] (s.cluster cl).ce.q rq).length < 16 → x.poison = false →
    copyReady s (s.copyWho cl rq u) (Desc.ofBytes bs) (s.num u).tagbase →
    ∃ places, s.checkCopy (s.copyWho cl rq u) (Desc.ofBytes bs) (s.num u).tagbase = .ok (places, s) ∧
      let r := s.enqueueCopy cl rq
        { id := 0, desc := bs, q := rq, issuer := u, core := cornerCore cl, who := (s.pc u).toNat, slot := some w.toNat
          acq := q, rel := l, scope := sc.code, tok := if t then some k.toNat else none, follow := none, tagbase := (s.num u).tagbase } places
      let t' := r.1.onDense cl fun y =>
        let y := { y with w := Tab.set y.w w.toNat { valid := true, done := false, promise := r.2.promise, cmd := some r.2.id } }
        if p then y.setDreg u d.toNat { y.dreg u d.toNat with act := stepDesc bs } else y
      exec (.cpy d w q l sc false p t k) s = .next (t'.past u 0)) ∧
  (∀ (s : State) u (d : BitVec 4) (i : BitVec 16) n e, s.cur = u → copyUnit u = true → s.nodeOf u = some n → i.toNat < n.dtCount →
    ((s.dense u.cl).dreg u d.toNat).fill = none →
    let dva := n.dtBase + 256 * i.toNat
    dva + 256 ≤ 2 ^ 48 → tlbFind (s.cluster u.cl).tlb dva = some e → entKind e.leaf = 2 → entHas e.leaf .r = true →
    dva + 256 ≤ e.page + 2 ^ e.size → (∀ m, s.inOrder u m = true) →
    exec (.dload d i) s = .next ((s.onDense u.cl fun y => y.setDreg u d.toNat { y.dreg u d.toNat with
      fill := some [(.hbm (entPha e.leaf + (dva - e.page)), 256, BitVec.ofNat 64 (8 * 2 ^ 60 + dva))], id := s.nextId }).stamp.past u 0)) ∧
  (∀ (s : State) (core c : Nat) (a k : BitVec 3) n p l q sc, s.quiet (.ctx core c) = true →
    let u : UnitId := .ctx core c
    let cl := clusterOf core
    let ad := ((s.ctx core c).ptr a.toNat).addr
    let bs := s.ownBytes core ad 256
    ad.toNat % 32 = 0 → ad.toNat + 256 ≤ 2 ^ 21 → (Tab.get [] (s.cluster cl).ce.q 2).length < 32 →
    copyReady s (s.copyWho cl 2 u) (Desc.ofBytes bs) (s.num u).tagbase →
    ∃ places, s.checkCopy (s.copyWho cl 2 u) (Desc.ofBytes bs) (s.num u).tagbase = .ok (places, s) ∧
      let r := s.enqueueCopy cl 2
        { id := 0, desc := bs, q := 2, issuer := u, core := core, who := coreIndex core * 2 ^ 21 + ad.toNat, statAt := some ad.toNat
          acq := q, rel := l, scope := sc.code, counter := if n then some k.toNat else none, tagbase := (s.num u).tagbase } places
      let t := r.1.writeStat r.2 1
      let t := if p then t.writePlace (.tile core ad.toNat) ((stepDesc bs).take 16) none else t
      exec (.copy a k n p l q sc) s = .next (t.past u 0)))

/-- R17, R88 to R90: LSET sets a loop counter and LBR counts it down to 0, branching while it is not; C_JMP branches inside the stream;
MARK places markers; CFENCE goes on and HALT stops when no command or fill of the sequencer is outstanding, else both sleep. -/
def Obligations.CopyStreamControl : Prop :=
  ∀ (s : State) u, s.cur = u → copyUnit u = true →
    (∀ (l : BitVec 2) n, exec (.lset l n) s = .next ((s.setLoop u l.toNat n).past u 0)) ∧
    (∀ (l : BitVec 2) (o : BitVec 16),
      let v := s.loopCount u l.toNat
      let v' := if v = 0 then 0 else v - 1
      let target := s.pc u + 4 * o.signExtend 32
      (v' = 0 → exec (.lbr l o) s = .next (((s.retire u 0).setLoop u l.toNat v').dropDelivered u)) ∧
      (v' ≠ 0 → target.toNat < s.streamLen u →
        exec (.lbr l o) s = .next (((s.retireTo u target 0).setLoop u l.toNat v').dropDelivered u)) ∧
      (v' ≠ 0 → s.streamLen u ≤ target.toNat → exec (.lbr l o) s = .next ((s.dropDelivered u).raise u .illegal 0))) ∧
    (∀ o : BitVec 27, let target := s.pc u + 4 * o.signExtend 32
      (target.toNat < s.streamLen u → exec (.cJmp o) s = .next ((s.retireTo u target 0).dropDelivered u)) ∧
      (s.streamLen u ≤ target.toNat → exec (.cJmp o) s = .next ((s.dropDelivered u).raise u .illegal 0))) ∧
    (∀ m : BitVec 8, exec (.cMark m) s = .next ((s.mark (some u) u.cl (s.launchId u) m.toNat).past u 0)) ∧
    (s.copiesPending u = false → exec .cfence s = .next (s.past u 0) ∧
      exec .cHalt s = .next (((s.setWait u .none).setLive u false).dropDelivered u)) ∧
    (s.copiesPending u = true → exec .cfence s = .next ((s.setWait u (.fence false)).setReadyAt u (s.time + 1)) ∧
      exec .cHalt s = .next ((s.setWait u (.fence true)).setReadyAt u (s.time + 1)))

/-- R4, R216, R233: EWR writes the defined bits of a register of the shadow set, ERD reads a register, ENGO releases and marks the
shadow ready, and swaps it in when the engine is idle. A register that is not there is ILLEGAL; EWR and ENGO wait for a ready
shadow. -/
def Obligations.EngineWords : Prop :=
  ∀ (s : State) (cl : Nat) (g : Eng), s.cur = .scalar cl →
    let u : UnitId := .scalar cl
    let e := Eng.index g
    (∀ w a (r : BitVec 10), ewrMask e r.toNat = none → exec (.ewr w a g r) s = .next ((s.dropDelivered u).raise u .illegal 0)) ∧
    (∀ w a (r : BitVec 10) m, ewrMask e r.toNat = some m → s.interlock u [a] none = .ok () →
      (((s.dense cl).engine e).ready = false → exec (.ewr w a g r) s = .next
        ((s.onEngine cl e fun x => { x with shadow := Tab.set x.shadow r.toNat (s.sVal u a &&& BitVec.ofNat 64 m) }).past u w.toNat)) ∧
      (((s.dense cl).engine e).ready = true → exec (.ewr w a g r) s = .next ((s.setWait u .retry).setReadyAt u (s.time + 1)))) ∧
    (∀ w d (r : BitVec 10), ((s.dense cl).engine e).read e r.toNat = none →
      exec (.erd w d g r) s = .next ((s.dropDelivered u).raise u .illegal 0)) ∧
    (∀ w d (r : BitVec 10) v, ((s.dense cl).engine e).read e r.toNat = some v → s.interlock u [] (some (d, true)) = .ok () →
      exec (.erd w d g r) s = .next ((s.putS u d { val := v, tag := 31 } 1).past u w.toNat)) ∧
    (∀ w t, s.fence u .rel = .ok t → ((t.dense cl).engine e).ready = false →
      exec (.engo w g) s = .next (((t.onEngine cl e fun x => { x with ready := true }).nextEngine cl e).past u w.toNat)) ∧
    (∀ w, s.quiet u = true → ((s.dense cl).engine e).ready = false →
      exec (.engo w g) s = .next (((s.onEngine cl e fun x => { x with ready := true }).nextEngine cl e).past u w.toNat)) ∧
    (∀ w t, s.fence u .rel = .ok t → ((t.dense cl).engine e).ready = true →
      exec (.engo w g) s = .next ((s.setWait u .retry).setReadyAt u (s.time + 1)))

/-- R14, R78, R86, R90, R189 to R191, R205, R222, R237, R285: an event that ends a wait does for the sleeping word what that word does when
it issues, and where what it waits for has come, the word completes: WAITP on a slot or STAT that is done, TWAIT with its tokens there,
WAITC, WAITT, MSYNC, WFE, TEPOCH, CFENCE and HALT; a promise that expires before is PROMISE_MISSED. A stream that was run off halts once
its commands are complete. A variable-latency result whose data have come is put into its register when no other result has fallen
due. A word with an unassigned opcode raises ILLEGAL at the unit that issued it. -/
def Obligations.WakesAndLandings : Prop :=
  (∀ (s : State), let u := s.arg.u
    (∀ ev i w t, s.canIssue u = true → wokenBy (s.wait u) ev i = true → s.fetch u = .ok (w, t) → decodeWord (streamOf u) w = .ok i →
      (ev = .cfenceComplete → (s.pc u).toNat < s.streamLen u) → exec ev s = exec i s) ∧
    (∀ h, s.canIssue u = true → s.wait u = .fence h → s.streamLen u ≤ (s.pc u).toNat → exec .cfenceComplete s = .next (s.runOff u))) ∧
  (∀ (s : State) i p idle, waitpWord s.arg.u i = some (p, idle) → (s.dense s.arg.u.cl).frozen = none →
    let u := s.arg.u
    let x := Tab.get {} (s.dense u.cl).w p
    let c := x.cmd.bind fun id => (s.cluster u.cl).ce.find id
    (asleep s .promiseExpiry i → x.valid = true → x.done = false → heldCommand c = false → promiseReached s.time x.promise.toNat = true →
      let t := match c with
        | some c => s.refreshPromise u.cl c
        | none => s
      exec .promiseExpiry s = .next ((t.dropDelivered u).raise u .promiseMissed 0)) ∧
    (asleep s .waitpComplete i → (x.valid = false ∨ x.done = true) → exec .waitpComplete s = .next (s.past u idle))) ∧
  (∀ (s : State) (k c : Nat), s.arg.u = .ctx k c →
    let u : UnitId := .ctx k c
    (∀ p, asleep s .waitpComplete (.lWaitp p) → s.quiet u = true →
      let a := ((s.ctx k c).ptr p.toNat).addr
      let stat := leNat (s.ownBytes k (a + 0xF8) 8)
      a.toNat % 32 = 0 → a.toNat + 256 ≤ 2 ^ 21 → (bits stat 63 60 = 0 ∨ bits stat 63 60 = 3) →
      exec .waitpComplete s = .next (s.past u 0)) ∧
    (∀ (ck : BitVec 3) (n : BitVec 20), asleep s .waitcComplete (.waitc ck n) →
      let v := Tab.get 0 (s.core k).landing ck.toNat
      n.toNat ≤ v.toNat → exec .waitcComplete s = .next
        ((s.onCore k fun x => { x with landing := Tab.set x.landing ck.toNat (v - n.setWidth 32) }).past u 0)) ∧
    (∀ n, asleep s .waittExpiry (.waitt n) → promiseReached s.time (((s.ctx k c).ptr n.toNat).addr.toNat % 2 ^ 56) = true →
      exec .waittExpiry s = .next (s.past u 0)) ∧
    (∀ (n : BitVec 4) tb, asleep s .epochAdvance (.tepoch n) → s.quiet u = true → s.table k n = .ok tb →
      Tab.get 0 (s.core k).acks (4 * n.toNat + (tb.epoch - BitVec.ofNat 32 tb.k).toNat % 4) = 0 →
      exec .epochAdvance s = .next ((s.onCore k fun x =>
        let d : TDesc := Tab.get {} x.tdesc n.toNat
        { x with tdesc := Tab.set x.tdesc n.toNat { d with epoch := d.epoch + 1 } }).past u 0))) ∧
  (∀ (s : State), let u := s.arg.u
    (∀ i q n idle, asleep s .tokenWaitComplete i → twaitWord i = some (q, n, idle) → (s.dense u.cl).frozen = none → waitsOn u q = true →
      0 < n → n ≤ Tab.get 0 (s.dense u.cl).q q →
      exec .tokenWaitComplete s = .next
        ((s.onDense u.cl fun d => { d with q := Tab.set d.q q (Tab.get 0 d.q q - n) }).past u idle)) ∧
    (∀ cl w ids, u = .compute cl → asleep s .msyncComplete (.msync w) → (s.dense cl).frozen = none → s.wait u = .msync ids →
      (∀ i ∈ ids, i ∉ (s.dense cl).cmdIds) → exec .msyncComplete s = .next (s.past u w.toNat)) ∧
    (∀ w, scalarUnit u = true → asleep s .wfeWake (.sysWfe w) → s.latch u = true →
      exec .wfeWake s = .next ((s.setLatch u false).past u w.toNat)) ∧
    (copyUnit u = true → (s.pc u).toNat < s.streamLen u → s.copiesPending u = false →
      (asleep s .cfenceComplete .cfence → exec .cfenceComplete s = .next (s.past u 0)) ∧
      (asleep s .cfenceComplete .cHalt → exec .cfenceComplete s = .next (((s.setWait u .none).setLive u false).dropDelivered u)))) ∧
  (∀ s : State, exec .unassignedOpcode s = .next (s.raise s.arg.u .illegal 0)) ∧
  (∀ (s : State) p, (s.pendOf s.arg.u)[s.arg.a]? = some p → p.waiting = false → p.flags = 0 → p.seq = none → p.kept = false →
    (∀ q ∈ (s.pendOf s.arg.u).eraseIdx s.arg.a, ∀ t, q.due = some t → s.time < t) →
    (s.arg.u.isDense = true →
      exec .variableResultLanding s = .next (s.onDense s.arg.u.cl fun d => { d with pend := d.pend.eraseIdx s.arg.a }.put p.dest p.val)) ∧
    (∀ n (r : Nat) v, s.arg.u = .sup n → p.dest = .s r → p.val = .sreg v → r ≠ 0 →
      exec .variableResultLanding s = .next (s.onSup n fun x => { x with pend := x.pend.eraseIdx s.arg.a, s := Tab.set x.s r v, bad := x.bad.erase r })))

/-! ## The dense core's own events (R64, R65, R85, R96, R222, R275 to R289, R305 to R313) -/

/-- R274, R276, R277, R281, R284, R285, R287: the next queued command of a dense core with no matrix fault and a running node
starts while issue is not gated (R406):
MZERO clears its bank, one of no extent completes without work, an accumulate or drain of another kind of contents is a late ILLEGAL,
a multiplication leaves its sums, flags and generators, MLDACC loads its bank, and MDRAIN enters its rows when they all fit, and a check
that misses is raised with the rows in the buffer. CHKVALID after SET without CHK, a drain that starts when all its rows
fit, what a faulted command leaves, and the columns that S(i) takes are the model's (logs 41, 42, 45, 118). -/
def Obligations.MatrixCommandStarts : Prop :=
  ∀ (s : State) (cl : Nat) c rest n, s.arg.a = cl → (s.dense cl).mq = c :: rest → (s.dense cl).mfault = false →
    s.nodeOf (.matrix cl) = some n → n.stopped = false → s.gated = false → ∀ m, mword c.word = some m →
    let g := c.geo
    let bank := (s.dense cl).bank m.bank
    let s1 := s.onDense cl fun d => { d with mq := rest }
    let run (t : State) (c : MCmd) : State := t.onDense cl fun d => { d with running := d.running ++ [c] }
    let wrongKind : Prop := ((m.op.multiplies = true ∧ m.set = false) ∨ m.op = .mdrain) ∧ bankOk bank (fmtAcc c.fmt) g.mode = false
    (m.op = .mzero → exec .matrixCommandStart s = .next (run (s1.onDense cl fun d => d.setBank m.bank { chkValid := true }) c)) ∧
    (m.op ≠ .mzero → g.live = false → exec .matrixCommandStart s = .next (run s1 c)) ∧
    (m.op ≠ .mzero → g.live = true → wrongKind → exec .matrixCommandStart s = .next (s1.failCmd cl c .illegal 0)) ∧
    (∀ x, m.op.multiplies = true → g.live = true → ¬ wrongKind → s.mctx cl c m = .ok x →
      let r := x.multiply bank (s.dense cl).mxsr
      let s2 := s1.onDense cl fun d => { d.setBank m.bank r.bank with mxsr := r.gens }
      (∀ q, r.fault = some q → exec .matrixCommandStart s = .next (s2.failCmd cl c q 0)) ∧
      (r.fault = none → exec .matrixCommandStart s = .next (run s2 { c with
        flags := r.flags
        low := fmtSigen c.fmt && !x.integer &&
          (match c.thr with | some h => r.wrote.any fun (_, t) => decide (t.toNat < h.toNat) | none => false) }))) ∧
    (∀ base b, m.op = .mldacc → g.live = true → s.operandPlace cl (c.regs.getD 0 {}) 1 = .ok base → loadAcc s cl c base bank = .ok b →
      exec .matrixCommandStart s = .next (run (s1.onDense cl fun d => d.setBank m.bank b) c)) ∧
    (m.op = .mdrain → g.live = true → ¬ wrongKind → bank.bad = [] →
      ((s.dense cl).drain.length + g.m ≤ 32 →
        let s2 := s1.drainRows cl c bank
        exec .matrixCommandStart s =
          .next (if (s2.dense cl).running.any (fun x => x.id == c.id && x.miss) then s2.failCmd cl c .matrixCheck 0 else s2)) ∧
      (32 < (s.dense cl).drain.length + g.m → exec .matrixCommandStart s = .next s))

/-- R209, R258, R273, R275, R281, R285, R289: a running command whose rows have left, their writes performed, completes, with its flags, its ring entry and
what it raises; the lowest waiting row starts an epilogue; the oldest finished row writes its tags and then its bytes; a follow-on
that waits takes a free queue entry where the arbiter has accepted nothing in this clk. -/
def Obligations.MatrixEventsComplete : Prop :=
  ∀ (s : State) (cl : Nat), s.arg.a = cl →
    (∀ c, (s.dense cl).running.find? (fun c => !s.drains cl c) = some c →
      let t := (((s.onDense cl fun d => { d with running := d.running.filter fun x => x.id != c.id }).collect (.compute cl) c.flags
        (s.num (.compute cl)).sr).ringDone cl c.seq)
      exec .matrixCommandComplete s = .next (if c.low then t.failCmd cl c .sigThreshold 0 else t)) ∧
    (∀ r e n, (s.dense cl).drain.find? (fun r => r.state == 0) = some r →
      (List.range 4).find? (fun e => !((s.dense cl).epiCtx e).live) = some e → s.nodeOf (.compute cl) = some n →
      (s.dense cl).frozen = none → n.stopped = false →
      let zero : List Lane := List.replicate 64 { val := 0, tag := 24 }
      exec .epilogueStart s = .next (s.onDense cl fun d =>
        { d.setEpi e { live := true, pc := BitVec.ofNat 32 (n.epis.getD r.epi 0), sr := (d.epiCtx e).sr
                       e := [(0, r.lanes), (1, zero), (2, zero), (3, zero)], k15 := BitVec.ofNat 64 r.row, row := r.id } with
          drain := d.drain.map fun y => if y.id = r.id then { y with state := 1 } else y })) ∧
    (∀ r rest p, (s.dense cl).drain = r :: rest → r.state = 2 → r.bytes ≠ [] →
      let t := s.onDense cl fun d => { d with drain := rest }
      let attr : W64 := 1#64 <<< 62
      let wr : Writer := some (if fmtDomain r.fmt = 0 then 0 else 1, etOf r.et)
      t.operandPlace cl { base := r.out, attr := attr } r.bytes.length = .ok p →
      (fmtDtag r.fmt = false → exec .drainRowRelease s = .next (t.issueStore (r.store cl r.out p r.bytes wr))) ∧
      (∀ a q, fmtDtag r.fmt = true → tagAddr r.tagbase r.out = some a → t.operandPlace cl { base := a, attr := attr } 64 = .ok q →
        exec .drainRowRelease s = .next ((t.issueStore (r.store cl a q r.tags none)).issueStore (r.store cl r.out p r.bytes wr)))) ∧
    (∀ m ms c, (s.dense cl).follow = m :: ms → s.arbiterFree cl = true →
      let t := (s.onDense cl fun d => { d with follow := ms }).acceptFollow cl m
      (t.cluster cl).ce.find m.copy = some c → exec .matrixArbiterAccept s = .next (t.signalCopy cl c))

namespace Sys2Proof.Says

/-- Were its next word or burst taken now, a unit would have nothing under way. -/
def idleUnit (s : State) (u : UnitId) : Prop := ({ s with cur := u } : State).quiet u = true

end Sys2Proof.Says

/-- R64, R65, R85, R96, R103, R326: the requester whose turn it is moves a burst of its first movable command, which an acquire or its
pages' type holds until what comes before it is performed; a codebook block's table is read once its counter suffices; a command whose
data are written signals and leaves its queue, with its checksum in CKLAST, and one whose checksum misses FAILs; a follow-on is accepted
first, or waits for the arbiter; a fill's bytes become the active set of their register. With the requester's engine side idle, a PLAIN
burst from SRAM to SRAM, the reads of a codebook's counter and table in SRAM and a fill from HBM complete at once. What a
command with ACQ, REL or such pages waits for is the model's reading (log 55). -/
def Obligations.CopyEventsComplete : Prop :=
  ∀ (s : State) (cl : Nat), s.arg.a = cl →
    (∀ c cs c' t, let q := (s.cluster cl).ce.turn
      (s.cluster cl).ce.used < copyWeight q → runnable [] (Tab.get [] (s.cluster cl).ce.q q) = c :: cs →
      let held := c.acq = true ∨ 2 ≤ c.mtype
      let g := if held then s.settleEarlier c.before else s
      (held → g.stillOut c.issuer c.before = false) → g.burst cl c.chunked = .ok (.moved c' t) →
      let c' := t.noteMark c.chunked { c' with state := .running } (Tab.get 1 (g.cluster cl).ce.sr q)
      let t := (t.dropDelivered (.copy cl q)).setCopy cl c'
      let t := if c.state = .running then t else t.writeStat c' 2
      exec .copyBurst s = .next (t.onCe cl fun e => { e with used := e.used + 1 })) ∧
    -- a burst of a PLAIN command from SRAM to SRAM
    (∀ c cs p x p' x', let q := (s.cluster cl).ce.turn
      (s.cluster cl).ce.used < copyWeight q → runnable [] (Tab.get [] (s.cluster cl).ce.q q) = c :: cs →
      c.q = q → q ≠ 3 → c.acq = false → c.mtype < 2 →
      let d := Desc.ofBytes c.desc
      let src : Shape := { base := d.src, sizes := d.sizes, str := d.sstr, e := d.set }
      let dst : Shape := { base := d.dst, sizes := d.sizes, str := d.dstr, e := d.det }
      let n := burstLen dst c.pos (2 ^ 36)
      let len := n * esize d.set
      d.mode = 0 → d.tagcopy = false → d.det = d.set → d.set ≠ .cb3 → four d.set = false → src.contiguous = true → dst.contiguous = true →
      idleUnit s (.copy cl q) → sramAt s c.issuer (src.addr c.pos) len p x → sramAt s c.issuer (dst.addr c.pos) len p' x' →
      ∃ (c' : CopyCmd) (t : State), c'.id = c.id ∧ c'.pos = c.pos + n ∧
        OnlyMemory (s.onCe cl fun e => { e with sr := Tab.set e.sr q (Tab.get 1 e.sr q) }) t ∧
        (CanonicalMemory s → t.readKey x' len = s.readKey x len) ∧
        let c' := t.noteMark c { c' with state := .running } (Tab.get 1 (s.cluster cl).ce.sr q)
        let t := (t.dropDelivered (.copy cl q)).setCopy cl c'
        let t := if c.state = .running then t else t.writeStat c' 2
        exec .copyBurst s = .next (t.onCe cl fun e => { e with used := e.used + 1 })) ∧
    -- a codebook's counter and table in SRAM
    (∀ c cs p x, let q := s.arg.b
      Tab.get [] (s.cluster cl).ce.q q = c :: cs → c.acq = false → c.mtype < 2 →
      let d := Desc.ofBytes c.desc
      let b := c.pos / d.block
      c.tableWait = true →
      idleUnit s (.copy cl q) → sramAt s c.issuer d.tblrdy 4 p x →
      (leNat (s.readKey x 4) < b + 1 → exec .tblrdyRead s = .next (s.dropDelivered (.copy cl q))) ∧
      (∀ p' x', b + 1 ≤ leNat (s.readKey x 4) → sramAt s c.issuer (addrPlus d.tbl (16 * b)) 16 p' x' →
        exec .tblrdyRead s = .next ((s.dropDelivered (.copy cl q)).setCopy cl
          { c with tblFor := some b, tbl := s.readKey x' 16, tblPoison := false }))) ∧
    -- a fill from one home of this device
    (∀ (u : UnitId) a nm, u = (if s.arg.yes then .store cl else .load cl) →
      let x := (s.dense cl).dreg u s.arg.b
      x.fill = some [(.hbm a, 256, nm)] → a % 32 = 0 → a / 2 ^ 30 = (a + 255) / 2 ^ 30 → idleUnit s (fillUnit u) →
      s.held (fillUnit u) (a / 2 ^ 30) = false → s.absent (a / 2 ^ 30) = false → (s.core (a / 2 ^ 30)).rowQ = [] → s.busyFrame a 256 = none →
      exec .dloadFillComplete s = .next ((s.dropDelivered (fillUnit u)).onDense cl fun y =>
        y.setDreg u s.arg.b { act := s.readKey (s.hbmKey a) 0xF8, poison := false, fill := none })) ∧
    -- the first command that waits for its block's table; a poisoned counter fails it
    (∀ c cnt t, let q := s.arg.b
      let cs := Tab.get [] (s.cluster cl).ce.q q
      cs.find? CopyCmd.tableWait = some c → (cs.takeWhile fun x => x.id != c.id).all CopyCmd.begun = true →
      let d := Desc.ofBytes c.desc
      let b := c.pos / d.block
      let w := { s.copyWho cl q c.issuer with cmd := c.id }
      let held := c.acq = true ∨ 2 ≤ c.mtype
      let g := if held then s.settleEarlier c.before else s
      (held → g.stillOut c.issuer c.before = false) → g.copyRead w d.tblrdy 4 .r = .ok (cnt, t) →
      (cnt.any (·.2) = true → exec .tblrdyRead s = .next (t.failCopy cl c .poison)) ∧
      (∀ bs t', cnt.any (·.2) = false → b + 1 ≤ leNat (cnt.map (·.1)) → t.copyRead w (addrPlus d.tbl (16 * b)) 16 .r = .ok (bs, t') →
        exec .tblrdyRead s = .next ((t'.dropDelivered (.copy cl q)).setCopy cl
          { c with tblFor := some b, tbl := bs.map (·.1), tblPoison := bs.any (·.2) }))) ∧
    -- completion
    (∀ c cs, let q := s.arg.b
      Tab.get [] (s.cluster cl).ce.q q = c :: cs →
      let d := Desc.ofBytes c.desc
      (c.state = .queued ∨ c.state = .running) → d.total ≤ c.pos → (s.dense cl).follow.any (fun m => m.copy == c.id) = false →
      let t := s.performFlights fun f => f.cmd == c.id
      let t := if c.rel then t.settleEarlier c.before else t
      t.copyOut c.id = [] → (c.rel = true → t.stillOut c.issuer c.before = false) →
      let t := if d.cks = 0 then t else t.onCe cl fun e => { e with cklast := Tab.set e.cklast q (c.check d) }
      let f := c.frames.foldl (fun s (h, f) => s.setFrame h f 0) t
      (d.cks ≠ 0 → c.check d ≠ d.ckv → exec .copyComplete s = .next (t.failCopy cl c .checkMismatch)) ∧
      ((d.cks = 0 ∨ c.check d = d.ckv) →
        (c.follow = none → exec .copyComplete s = .next (f.signalCopy cl c)) ∧
        (∀ m, c.follow = some m →
          ((f.dense cl).follow = [] → f.arbiterFree cl = true → exec .copyComplete s = .next ((f.acceptFollow cl m).signalCopy cl c)) ∧
          ((f.dense cl).follow ≠ [] ∨ f.arbiterFree cl = false →
            exec .copyComplete s = .next (f.onDense cl fun x => { x with follow := x.follow ++ [{ m with copy := c.id }] }))))) ∧
    (∀ (u : UnitId) ps bs po t, u = (if s.arg.yes then .store cl else .load cl) →
      let x := (s.dense cl).dreg u s.arg.b
      x.fill = some ps →
      s.readParts { s.who u with u := fillUnit u } (ps.map fun (pl, len, nm) => { place := pl, len := len, name := nm }) = .ok (bs, po, t) →
      exec .dloadFillComplete s = .next ((t.dropDelivered (fillUnit u)).onDense cl fun y =>
        y.setDreg u s.arg.b { act := bs.take 0xF8, poison := po, fill := none }))

/-- R63, R299 to R313: an engine's operation under way makes its writes and then ends, its release first, and a shadow that is ready is
swapped in: a transform, whose writes outside the scratchpad wait for the copy engine's spill requester, a condensation and a merge
whose inputs can be read; one that waited for its writes ends when they are performed. The status fields where the rules are silent,
the transform's writes and tags, a merge whose output overlaps its input and the commands of a spill are the model's (logs 56, 57, 58,
60, 100). -/
def Obligations.EngineEventsComplete : Prop :=
  ∀ (s : State) (cl : Nat), s.arg.a = cl →
    (((s.dense cl).engine 0).busy = true → ((s.dense cl).engine 0).result = none → ∀ ys s1 ts,
      let x := Xform.ofEngine ((s.dense cl).engine 0)
      let r := s.xformRun cl x (x.t * x.q) 0 {}
      let s0 := s.checkSources cl x
      let w := s0.who (.engine cl 0)
      let sorted (l : List (Nat × List PByte)) := joinRuns (l.mergeSort fun a b => decide (a.1 ≤ b.1))
      let data : List CWrite := (sorted r.out).map fun (o, bs) =>
        { addr := addrPlus x.dst (o : Int), bytes := bs, wr := some (xformDom x.op, etOf x.oet) }
      (if x.tags then r.tags.mapM (fun (o, t) => (tagAddr x.tagb (addrPlus x.dst (o : Int))).map fun a =>
        (a.toNat, [(byteOfTag (BitVec.ofNat 5 t), false)])) else some []) = some ts →
      let tags : List CWrite := (sorted ts).map fun (a, bs) => { addr := BitVec.ofNat 64 a, bytes := bs }
      r.fault = none → s0.admitWrites w (s0.splitWrites w (data ++ tags)).1 = .ok (ys, s1) →
      let least := if r.tags.isEmpty then 0 else r.tags.foldl (fun m t => min m t.2) 24
      exec .transformComplete s = .next ((((s1.writeAll w 0 false ys).onEngine cl 0 fun e =>
        { e with spill := (s0.splitWrites w (data ++ tags)).2 }).resultEngine cl 0 { status := least * 2 ^ 8 + r.flags.toNat }).nextEngine cl 0)) ∧
    (((s.dense cl).engine 1).busy = true → ((s.dense cl).engine 1).result = none → ∀ a s1 b s2,
      let c := CondSet.ofEngine ((s.dense cl).engine 1)
      let r (i : Nat) : W64 := Tab.get 0 ((s.dense cl).engine 1).act i
      s.readRows cl 1 (r 1) (r 2) (r 3) 32 c.s (2 ^ 32) = .ok (a, s1) → s1.readRows cl 1 (r 4) (r 5) (r 6) c.klen c.s 64 = .ok (b, s2) →
      let k := keepIndices c a b c.klen c.kstart []
      let kout := 16 * ((k.1.length * c.s + 15) / 16)
      let aval (i j : Nat) : SVal := match k.1[j]? with
        | some n => (rowAtIndex (a.getD i []) n).getD (0, false)
        | none => (0, false)
      let bval (i j : Nat) : SVal := match k.1[j]? with
        | some n => (rowAtIndex (b.getD (n - c.kstart) []) i).getD (0, false)
        | none => (0, false)
      let list : List CWrite := if k.1.isEmpty then []
        else [{ addr := c.klist, bytes := k.1.flatMap fun n => (leBytes 4 n).map fun x => (x, false) }]
      exec .condenserComplete s = .next ((s2.finishSparse cl 1
        (condBlocks c.adst c.agstr 2 kout c.s c.aet aval ++ condBlocks c.bdst c.bgstr 4 kout c.s c.bet bval ++ list)
        ((k.2.getD (c.kstart + c.klen)) * 2 ^ 38 + k.1.length * 2 ^ 29 + kout * 2 ^ 20 +
          (if k.2.isSome then 1 else 0) * 2 ^ 8)).nextEngine cl 1)) ∧
    (((s.dense cl).engine 2).busy = true → ((s.dense cl).engine 2).result = none → ∀ a b s1,
      let m := Mrg.ofEngine ((s.dense cl).engine 2)
      s.mixedOperands cl m = .ok (a, b, s1) →
      let r := mergeRows m a b {}
      r.full = false →
      exec .mergeComplete s =
        .next ((s1.finishSparse cl 2 (m.writes r) (0 + r.out.length * 2 ^ 24 + r.flags.toNat)).nextEngine cl 2)) ∧
    (∀ e r, e < 3 → ((s.dense cl).engine e).busy = true → ((s.dense cl).engine e).result = some r →
      exec (if e = 0 then .transformComplete else if e = 1 then .condenserComplete else .mergeComplete) s =
        .next ((s.pushEngine cl e).nextEngine cl e)) ∧
    -- an engine with every write performed ends at once
    (∀ e r, let t := s.drain (.engine cl e)
      e < 3 → ((s.dense cl).engine e).result = some r → r.stop = none → ((t.dense cl).engine e).result = some r →
      ((t.dense cl).engine e).spill = [] → t.engineOut cl e = false → s.pushEngine cl e = t.endEngine cl e r.status)

/-! ## Cores, memory and nodes: events (R54, R59 to R62, R106 to R114, R142 to R154, R173 to R177, R338 to R376) -/

/-- R142, R144, R145, R149, R153, R154, R173, R174, R315, R316, R325, R328, R349: what happens at a core: a message joins its channel or
is refused by a full store; selection binds a channel to a context; EPRI ages; a refused message goes again; a row is accepted, served
and lands; a PUT lands, after its context's earlier accesses to its bytes; a use counter counts; a store in flight to SRAM is performed
under its issuer's map, or merges into a later one of its unit on a write-combining page. Which accesses stay in flight, when EPRI steps, what a home
serves before an access and which stores merge are the model's (logs 14, 30, 113, 115). -/
def Obligations.CoreEventsComplete : Prop :=
  ∀ (s : State), let k := s.arg.a
    -- MESSAGE_ARRIVAL
    (∀ m, let q := if s.arg.yes then (s.core k).vn1 else (s.core k).vn0
      q[s.arg.b]? = some m → mayArrive (q.take s.arg.b) m = true → m.dstDev = Config.deviceNumber →
      s.niHolds (.ctx k m.srcCtx) m.dstCore m.id = false →
      let t := s.onCore k fun c => if s.arg.yes then { c with vn1 := q.eraseIdx s.arg.b } else { c with vn0 := q.eraseIdx s.arg.b }
      let m' := { m with refused := false }
      (t.forwardTo m.dstCore m' = none → m.put = none → (t.core m.dstCore).refusesChannel m.chan = false →
        (m.vn1 = true ∨ (t.core m.dstCore).reqStore < 32) →
        let old := Tab.get [] (t.core m.dstCore).channels m.chan
        exec .messageArrival s = .next (t.onCore m.dstCore fun c =>
          { (if old.isEmpty then c.wake m.chan t.time else c) with
            channels := Tab.set c.channels m.chan (old ++ [m'])
            reqStore := if m.vn1 then c.reqStore else c.reqStore + 1 })) ∧
      (t.forwardTo m.dstCore m' = none → m.vn1 = false → 32 ≤ (t.core m.dstCore).reqStore →
        exec .messageArrival s = .next (s.onCore k fun c =>
          if s.arg.yes then { c with vn1 := q.set s.arg.b { m with refused := true } }
          else { c with vn0 := q.set s.arg.b { m with refused := true } }))) ∧
    -- HANDLER_BIND
    (∀ i ch l n m c', (s.core k).freeCtx = some i → (s.core k).selected s.time = some ch → s.launchOfCore k = some l → l.node = some n →
      n.stopped = false → (s.core k).takeHead k ch = some (m, c') → m.chan ≠ 62 → m.task = none →
      let h := Tab.get {} c'.handlers ch
      let c' := { c' with handlers := Tab.set c'.handlers ch { h with epri := h.pri } }
      ∃ t, exec .handlerBind s = .next t ∧ SameMemory s t ∧
        t.core k = c'.setCtx i ((c'.ctx i).enter c' ch (entryAcc m 0) m s.time)) ∧
    -- EPRI_AGING
    ((s.core k).runnable s.arg.b = true → (Tab.get {} (s.core k).handlers s.arg.b).age + 65536 ≤ s.time →
      (Tab.get {} (s.core k).handlers s.arg.b).epri ≠ 7 → exec .epriAging s = .next (s.onCore k fun c =>
        let h := Tab.get {} c.handlers s.arg.b
        { c with handlers := Tab.set c.handlers s.arg.b { h with epri := h.epri + 1, age := h.age + 65536 } })) ∧
    -- NI_RETRY
    (∀ i, (s.core k).retries = [] → (s.core k).vn0.findIdx? (·.refused) = some i →
      exec .niRetry s = .next (s.arrive k false i)) ∧
    -- ROW_REQUEST_SERVICE and ROW_OPERATION_SERVICE
    (∀ ev isOp j, ((ev = Instr.rowRequestService ∧ isOp = false) ∨ (ev = .rowOperationService ∧ isOp = true)) → s.arg.yes = false →
      (s.core k).rowQ[s.arg.b]? = some j → j.isOp = isOp → s.absent k = false → ((s.core k).rowQ.take s.arg.b).any (·.meets j) = false →
      ∀ a, j.place = .hbm a → s.busyFrame a j.rowb = none →
      exec ev s = .next ((s.onCore k fun c => { c with rowQ := c.rowQ.filter fun e => e.acc != j.acc }).performRow k j)) ∧
    (∀ ev isOp src j h, ((ev = Instr.rowRequestService ∧ isOp = false) ∨ (ev = .rowOperationService ∧ isOp = true)) → s.arg.yes = true →
      s.arg.u.coord = some src → (s.core src).rowOut[s.arg.b]? = some j → j.isOp = isOp → j.home = some h →
      s.niHolds (.ni src) h j.id = false →
      ((s.core src).rowOut.take s.arg.b).any (fun e => (e.refused && e.home == some h) || (e.isOp && isOp && e.meets j)) = false →
      s.homeFull h = false →
      let t := s.onCore src fun c => { c with rowOut := c.rowOut.eraseIdx s.arg.b }
      exec ev s = .next ((t.onCore h fun c => { c with rowQ := c.rowQ ++ [{ j with acc := t.nextId, refused := false }] }).stamp)) ∧
    -- ROW_LANDING
    (∀ l, (s.core k).landings[s.arg.b]? = some l →
      exec .rowLanding s = .next ((s.onCore k fun c => { c with landings := c.landings.eraseIdx s.arg.b }).landRow k s.arg.b l
        (if s.arg.yes then some s.arg.v.toNat else none))) ∧
    -- PUT_LANDING
    (∀ m q, (s.core k).puts[s.arg.b]? = some m → m.put = some q → q.done = 0 → m.poisoned = false → s.arg.yes = false → s.putWaits m q = false →
      let t := (m.putSteps k q).foldl (fun t f => f t) s
      t.storesOut.any (fun f => f.who == .ni k && f.elem == m.id) = false →
      let t := t.onCore k fun c => { c with puts := c.puts.eraseIdx s.arg.b, reqStore := c.reqStore - 1 }
      exec .putLanding s = .next (match q.counter with
        | some n => t.advance k n 1
        | none => t)) ∧
    -- USE_COUNTER_INCREMENT
    (∀ x u us, (s.core k).ucQ = (x, u) :: us →
      let v := Tab.get 0 (s.core k).useCtr u
      exec .useCounterIncrement s = .next (s.onCore k fun c =>
        { c with ucQ := us, useCtr := if v = BitVec.allOnes 48 then c.useCtr else Tab.set c.useCtr u (v + 1) })) ∧
    -- ACCESS_PERFORM
    (∀ f p, s.arg.yes = false → s.flights[k]? = some f → f.place = p → f.bad = [] → f.whole = none →
      (∃ j o, p = .tile j o) ∨ (∃ c o, p = .scratch c o) →
      exec .accessPerform s =
        .next { ({ s with flights := s.flights.erase f }.viewFor f.who).writePlace p f.bytes f.wr with view := s.view }) ∧
    (∀ f g, s.arg.yes = true → s.flights[k]? = some f → s.flights[s.arg.b]? = some g → k < s.arg.b → f.merges g = true →
      ((s.flights.take s.arg.b).drop (k + 1)).any f.overlaps = false →
      exec .accessPerform s = .next { s with flights := (s.flights.set s.arg.b (f.merged g)).eraseIdx k })

/-- R54, R59, R62, R107 to R114, R219, R367, R375 to R377, R416: a page walk caches its leaf; FSCMD, behind what arrived at its home before it, sets a
frame, and NORMAL replays what it parked; a Lantern access and a resumed eviction; CMGRANT moves sectors; SMQUERY names a block; NRESUME
resumes a node; the supervisor's registers are PRIV to others; a scrub step corrects and finds; a soft error is corrected or poisons.
The translation caches' sets and what a soft error strikes are the model's (logs 19, 79). -/
def Obligations.MemoryEventsComplete : Prop :=
  ∀ (s : State), let cl := s.arg.a
    (∀ size e, let dva := s.arg.addr.toNat % 2 ^ 48
      s.walk dva = .leaf size e →
      exec .pageWalk s = .next (s.cacheLeaf { s.who s.arg.u with fetch := s.arg.yes } { page := dva / 2 ^ size * 2 ^ size, size := size, leaf := e })) ∧
    (let home := s.arg.a
      let frame := bits s.arg.v.toNat 13 0
      let st := bits s.arg.v.toNat 17 16
      let g := (s.homeArrival (home * 2 ^ 30 + frame * 65536) 65536).1
      (s.homeFull home = true → exec .fscmd s = .next s) ∧
      (s.homeFull home = false →
        (st = 3 → exec .fscmd s = .next g) ∧
        ((st = 1 ∨ st = 2) → g.frameState home frame ≠ st →
          exec .fscmd s = .next (g.onCore home fun c => { c with frames := Tab.set c.frames frame st })) ∧
        (st = 0 → g.frameState home frame ≠ 0 →
          let t := g.onCore home fun c => { c with frames := Tab.drop c.frames frame, fq := c.fq.filter fun p => decide (p.frame ≠ frame) }
          exec .fscmd s = .next ((((g.core home).fq.filter fun p => decide (p.frame = frame)).foldl (fun t p => t.replay home p) t).resumeHosts)))) ∧
    (∀ x, let o := s.arg.b
      (s.cluster cl).cm.lantern.find? (fun e => e.1 == o / 256) = some x →
      let front (d : Bool) : State := s.onCluster cl fun c =>
        { c with cm := { c.cm with lantern := (o / 256, d) :: c.cm.lantern.filter fun e => e.1 != o / 256 } }
      (s.arg.yes = false → exec .lanternAccess s = .next (front x.2)) ∧
      (s.arg.yes = true → s.arg.bs ≠ [] → o % 32 + s.arg.bs.length ≤ 32 → (s.cluster cl).cm.blocked = false →
        s.niHolds s.arg.u (1024 + cl) s.nextId = false →
        exec .lanternAccess s = .next ((front true).writePlace (.cmem cl o) s.arg.bs none))) ∧
    (∀ v m', (s.cluster cl).cm.evicting = some v → (s.cluster cl).cm.recompress v (s.blockForm cl v) = some m' →
      (s.cluster cl).cm.parked = [] → (s.cluster cl).cm.waiting = [] → exec .cmemEvictionResume s = .next (s.onCluster cl fun c =>
        { c with cm := { m' with evicting := none, parked := [], lantern := m'.lantern.filter fun e => e.1 != v } })) ∧
    ((∃ n, s.arg.u = .sup n) → (s.cluster cl).cm.blocked = false →
      let n := min (bits s.arg.v.toNat 18 0) (s.cluster cl).cm.res
      exec .cmgrant s = .next (s.onCluster cl fun c => { c with cm := { c.cm with res := c.cm.res - n, free := c.cm.free + n } })) ∧
    ((∀ n, s.arg.u ≠ .sup n) →
      exec .cmgrant s = .next (s.raise s.arg.u .priv (absAddr 4 (cornerCore cl) 0x8610)) ∧
      exec .nresume s = .next (s.raise s.arg.u .priv (absAddr 4 (cornerCore cl) 0x8A18))) ∧
    (exec .smquery s = .next (s.onCluster cl fun c => { c with smq := BitVec.ofNat 17 s.arg.v.toNat })) ∧
    ((∃ n, s.arg.u = .sup n) → exec .nresume s = .next (if s.arg.v.getLsbD 0 then s.nresume cl else s)) ∧
    (∀ t, addrSpace s.arg.addr = 4 →
      s.store s.arg.u s.arg.addr (w64Bytes s.arg.v) = .ok t →
      exec .registerWrite s = .next (t.dropDelivered s.arg.u)) ∧
    (∀ j cl o t, addrSpace s.arg.addr = 4 → s.resolve (s.who s.arg.u) s.arg.addr 8 = .ok (.inl (.reg j cl o)) →
      s.replayable s.arg.u = none → (fscmdAt o = true → s.homeFull j = false ∧ s.held s.arg.u j = false) →
      s.writeRegs s.arg.u j cl o (w64Bytes s.arg.v) = .ok t →
      exec .registerWrite s = .next (t.dropDelivered s.arg.u)) ∧
    (∀ j cl o, addrSpace s.arg.addr = 4 → s.resolve (s.who s.arg.u) s.arg.addr 8 = .ok (.inl (.reg j cl o)) →
      s.replayable s.arg.u = none → (fscmdAt o = true → s.homeFull j = false ∧ s.held s.arg.u j = false) → o % 8 = 0 → (s.readReg j cl o).isSome = true → (supReg o = true → s.arg.u.isSup = true) →
      ∃ t, s.writeReg s.arg.u j cl o s.arg.v.toNat 255 = .ok t ∧ exec .registerWrite s = .next (t.dropDelivered s.arg.u)) ∧
    (let g := s.arg.a
      let on := if hbmBase ≤ 32 * g then s.scrubHbm ≠ 0 else s.scrubSram ≠ 0
      s.arg.yes = false →
      (on → s.soft.elem g = true → s.hard.elem g = false →
        exec .scrubStep s = .next { s.countCorrected (keyCluster (32 * g)) with soft := setRemove s.soft g }) ∧
      (on → s.soft.elem g = false → s.hard.elem g = true → exec .scrubStep s =
        .next ({ s with hard := setRemove s.hard g, soft := setRemove s.soft g }.countUncorrected (keyCluster (32 * g)) g)) ∧
      (¬ on → exec .scrubStep s = .next s)) ∧
    (let b := s.arg.b
      let i := s.arg.v.toNat
      s.arg.yes = true → s.scrubSram ≠ 0 →
      ((s.cluster cl).cm.soft.elem (b, i) = true → exec .scrubStep s = .next
        ((s.onCluster cl fun c => { c with cm := { c.cm with soft := c.cm.soft.erase (b, i) } }).countCorrected (s.physCl cl))) ∧
      ((s.cluster cl).cm.soft.elem (b, i) = false → (s.cluster cl).cm.bad.elem (b, i, false) = false → exec .scrubStep s = .next s)) ∧
    (∀ g, s.arg.soft = .granule g true → s.poison.elem g = false → exec .softError s = .next { s with soft := setInsert s.soft g }) ∧
    (∀ g, s.arg.soft = .granule g false → s.poison.elem g = false →
      exec .softError s = .next ({ s with soft := setRemove s.soft g, hard := setInsert s.hard g }.setPoison g)) ∧
    (∀ c r, s.arg.soft = .vreg c r true → exec .softError s = .next (s.countCorrected (s.physCl c))) ∧
    (∀ c r, s.arg.soft = .vreg c r false → exec .softError s = .next
      ((s.onDense c fun d => if d.bad.elem (.v r) then d else { d with bad := .v r :: d.bad }).countUncorrected (s.physCl c) 0))

namespace Sys2Proof.Says

/-- An access of a reader that walks the page tables itself finds a page of this device's HBM that permits it: its PHA. -/
def walkReady (s : State) (dva n : Nat) (perm : Perm) (pha : Nat) : Prop :=
  (∀ e ∈ s.cores, e.2.rowQ = []) ∧ (∀ h, h < 1024 → s.absent h = false) ∧ dva + n ≤ 2 ^ 48 ∧ pha % 32 + n ≤ 32 ∧ s.busyFrame pha n = none ∧
  ∃ size e, s.walk dva = .leaf size e ∧ entKind e = 2 ∧ entHas e perm = true ∧ bits e 3 2 = 0 ∧
    dva % 2 ^ size + n ≤ 2 ^ size ∧ pha = entPha e + dva % 2 ^ size

/-- All that arrives at a core's slot has arrived: its own, and what the rows and columns before it pass on (R354). -/
def barFull (s : State) (k n : Nat) : Prop :=
  let b := Tab.get ({} : BarSlot) (s.core k).bar n
  b.cnt ≤ b.count ∧ (coreX k + 1 = b.x0 + b.w ∨ b.rowIn = true) ∧
    (b.x0 < coreX k ∨ coreY k + 1 = b.y0 + b.h ∨ b.colIn = true) ∧
    (b.dense = true → coreIndex k = 0 → b.cnt ≤ (Tab.get ({} : BarSlot) (s.dense (clusterOf k)).bar n).count)

end Sys2Proof.Says

/-- R203, R348 to R350, R352 to R354: a marker retires when the work before it is done, and counts off its issuer's MKOUT; an arrival
or a release moves one hop; an idle core takes a task of a victim in its domain, which then arrives with its footprint; an interval
levels work lists. -/
def Obligations.SchedulingEventsComplete : Prop :=
  ∀ (s : State), let k := s.arg.a
    (∀ m, s.markersOut[k]? = some m →
      let t := { s with markersOut := s.markersOut.eraseIdx k }
      (s.markerDone m = false → exec .markerRetire s = .next s) ∧
      (s.markerDone m = true → m.who = none → exec .markerRetire s = .next t) ∧
      (∀ j c, s.markerDone m = true → m.who = some (.ctx j c) → exec .markerRetire s = .next (t.addMarkers (.ctx j c) (-1))) ∧
      (∀ cl, s.markerDone m = true → m.who = some (.scalar cl) →
        let t := t.addMarkers (.scalar cl) (-1)
        exec .markerRetire s = .next (if (t.dense cl).markers = 0 then t.setLatch (.scalar cl) true else t)) ∧
      (∀ i, s.markerDone m = true → m.who = some (.sup i) →
        let t := t.addMarkers (.sup i) (-1)
        exec .markerRetire s = .next (if (t.sup i).markers = 0 then t.setLatch (.sup i) true else t))) ∧
    (let n := s.arg.b
      let b := Tab.get ({} : BarSlot) (s.core k).bar n
      b.valid = true →
      (b.next k = none → barFull s k n → exec .belfryHop s = .next (s.releaseBar k n b)) ∧
      (∀ p, b.next k = some p → b.phase < (Tab.get ({} : BarSlot) (s.core p).bar n).phase →
        exec .belfryHop s = .next (s.releaseBar k n b)) ∧
      (∀ p, b.next k = some p → (Tab.get ({} : BarSlot) (s.core p).bar n).phase ≤ b.phase → b.swept = false → barFull s k n →
        let t := s.setBar k n { b with swept := true }
        let q := Tab.get ({} : BarSlot) (t.core p).bar n
        exec .belfryHop s = .next (t.setBar p n (if b.x0 < coreX k then { q with rowIn := true } else { q with colIn := true })))) ∧
    (∀ l n v t, s.launchOfCore k = some l → l.node = some n → (s.core k).freeCtx ≠ none → (s.core k).stolen = [] →
      (s.core k).deque = [] → (s.core k).worklist = [] → (List.range 64).any (s.core k).runnable = false →
      let order := match (s.core k).lastVictim with
        | none => n.domain k
        | some v => ((n.domain k).filter fun j => decide (v < j)) ++ (n.domain k).filter fun j => decide (j ≤ v)
      order.find? (fun v => (s.gives v).isSome) = some v → s.gives v = some t →
      exec .stealAttempt s = .next ((s.onCore v fun c => { c with deque := c.deque.dropLast }).onCore k fun c =>
        { c with stolen := [(v, t)], lastVictim := some v })) ∧
    (∀ v t rest b, (s.core k).stolen = (v, t) :: rest → s.tcb v t = some b → b.fwd = false → (s.core k).deque.length < s.dequeRoom k →
      let s1 := b.ranges.foldl (fun s (o, n) => s.copyTile v k o n) (s.copyTile v k (t.arg.toNat % 2 ^ 21) 64)
      exec .taskMigration s = .next ((s1.onCore k fun c => { c with stolen := rest }).pushTask k { t with victim := none })) ∧
    (∀ l n, s.launchOfCore k = some l → l.node = some n →
      ((s.core k).levelSent < (s.time - n.levelBase) / n.levelInt → exec .levellingInterval s = .next (s.level n)) ∧
      ((s.time - n.levelBase) / n.levelInt ≤ (s.core k).levelSent → exec .levellingInterval s = .next s))

/-- R341 to R343, R345, R347, R351, R370, R372: at a boundary a KERNEL node starts at the first origin that takes it, a BRANCH compares a
carry register, a BARRIER reads its word, END retires the launch; a node of idle units ends its phase, and leaves when its markers and
writes are done, its units still idle or the free choice of log 66 made so; one that runs WDOG µs stops. An absent granule of four carry registers is filled from the save record, and one that is
there, or that no access has touched, is left. The watchdog's report and what a boundary's pre-emption decides are the model's (logs 4,
69). -/
def Obligations.NodeEventsComplete : Prop :=
  (∀ (s0 : State) (l0 l : Launch), s0.launch? s0.arg.a = some l0 → l0.between = true → s0.reach l0 = .ok l →
    let s := s0.onLaunch s0.arg.a fun _ => l
    (∀ n, s.nodeDesc l = .ok n →
      (∀ x y t, n.kind = 0 → s.origin n [] = some (x, y) → let r := rectOf (n.word 8)
        s.startNode l n x y r.2.2.1 r.2.2.2 = .ok t → exec .nodePlacement s0 = .next (t.dropDelivered (launchUnit l))) ∧
      (∀ x y s1 img s2, n.kind = 0 → s.origin n [] = some (x, y) → s.supRelease l = .ok s1 → let r := rectOf (n.word 8)
        (s1.applySpares false).loadImage l (n.word 0x18) x y r.2.2.1 r.2.2.2 = .ok (img, s2) →
        ∀ snap l' s3, s2.startValues l = .ok (snap, l', s3) →
        ∃ t, s.startNode l n x y r.2.2.1 r.2.2.2 = .ok t ∧ exec .nodePlacement s0 = .next (t.dropDelivered (launchUnit l))) ∧
      (n.kind = 0 → s.origin n [] = none → exec .nodePlacement s0 = .next s) ∧
      (∀ l', n.kind = 1 → let w := n.word 0x50
        s.fillLaunch l (decide (4 ≤ bits w 2 0)) = .ok l' →
        let taken := branchTaken (bits w 6 4) (Tab.get 0 l'.g (bits w 2 0)) (BitVec.ofNat 64 (n.word 0x58))
        exec .branchNode s0 = .next ((s.dropDelivered (launchUnit l')).onLaunch l'.id fun _ =>
          { l' with state := .boundary, index := if taken then bits w 47 32 else bits w 63 48 })) ∧
      (n.kind = 1 → let w := n.word 0x50
        (if 4 ≤ bits w 2 0 then l.absentHi else l.absentLo) = false →
        let taken := branchTaken (bits w 6 4) (Tab.get 0 l.g (bits w 2 0)) (BitVec.ofNat 64 (n.word 0x58))
        exec .branchNode s0 = .next ((s.dropDelivered (launchUnit l)).onLaunch l.id fun _ =>
          { l with state := .boundary, index := if taken then bits w 47 32 else bits w 63 48 })) ∧
      (∀ bs t, n.kind = 2 → s.extReads.any (fun r => r.u == launchUnit l) = false →
        s.loadRaw (launchWho l) (BitVec.ofNat 64 (n.word 0x60)) 8 = .ok (bs, false, t) →
        let t := t.dropDelivered (launchUnit l)
        (n.word 0x68 ≤ leNat bs → exec .barrierNodePoll s0 = .next (t.onLaunch l.id fun l => { l with state := .boundary, index := l.index + 1 })) ∧
        (leNat bs < n.word 0x68 → exec .barrierNodePoll s0 = .next t)) ∧
      (∀ dva pha, n.kind = 2 → s.extReads.any (fun r => r.u == launchUnit l) = false → idleUnit s (launchUnit l) →
        s.held (launchUnit l) (pha / 2 ^ 30) = false → n.word 0x60 = 8 * 2 ^ 60 + dva → walkReady s dva 8 .r pha →
        let v := leNat (s.readKey (s.hbmKey pha) 8)
        let t := s.dropDelivered (launchUnit l)
        (n.word 0x68 ≤ v → exec .barrierNodePoll s0 = .next (t.onLaunch l.id fun l => { l with state := .boundary, index := l.index + 1 })) ∧
        (v < n.word 0x68 → exec .barrierNodePoll s0 = .next t)) ∧
      (n.kind = 3 → exec .endNode s0 = .next (s.retireLaunch l 0 0)))) ∧
  (∀ (s : State) (l : Launch), s.launch? s.arg.a = some l →
    (∀ n, l.node = some n →
      (n.stopped = false → n.wdog ≠ 0 → 2100 * n.wdog ≤ n.ran s.time →
        let f := s.freeBytes 3
        exec .watchdogExpiry s = .next (f.2.stopNode l n
          { src := BitVec.ofNat 4 (leNat (f.1.take 1)), core := BitVec.ofNat 10 (leNat (f.1.drop 1))
            cause := BitVec.ofNat 8 Cause.watchdog.code })) ∧
      ((n.stopped = true ∨ n.wdog = 0 ∨ n.ran s.time < 2100 * n.wdog) → exec .watchdogExpiry s = .next s) ∧
      (n.stopped = false → n.ended = false → s.nodeIdle n = true → exec .phaseEnd s = .next
        ((n.touched.foldl (fun s cl => s.mark none cl l.id n.bmark) s).onNode l.id fun n => { n with ended := true })) ∧
      (n.ended = true → n.stopped = false → s.markersOut.any (fun m => m.who.isNone && m.launch == l.id) = false →
        s.writesDone n = true → (s.nodeIdle n = true ∨ s.arg.yes = true) →
        let c := (s.cluster (clusterOf n.corner)).carry
        let r : Launch :=
          { l with
            state := .boundary, index := l.index + 1, node := none, epochs := s.advanceEpochs n
            g := c.g, absentLo := c.absentLo, absentHi := c.absentHi, savePtr := c.savePtr }
        let freed := (s.onLaunch l.id fun _ => r).applySpares false
        let settled (t : State) : State := (t.onLaunch l.id fun l => { l with wrote := 0 }).dropDelivered (launchUnit l)
        (∀ t, freed.preempt s r s.arg.addr = .ok t → exec .bundleRelease s = .next (settled t)) ∧
        (freed.wouldChoose = none → exec .bundleRelease s = .next (settled freed))) ∧
      (n.ended = true → n.stopped = false → s.markersOut.any (fun m => m.who.isNone && m.launch == l.id) = false →
        s.writesDone n = true → s.nodeIdle n = false → s.arg.yes = false →
        exec .bundleRelease s = .next (s.onNode l.id fun n => { n with ended := false })))) ∧
  (∀ (s : State) (l : Launch), let cl := s.arg.a
    let hi := s.arg.yes
    let c := (s.cluster cl).carry
    let mine := s.launches.find? fun l => match l.node with
      | some n => decide (clusterOf n.corner = cl) && s.waitsCarry n hi
      | none => false
    (mine = none → exec .carryGranuleFill s = .next s) ∧
    (mine = some l →
    ((if hi then c.absentHi else c.absentLo) = false → exec .carryGranuleFill s = .next s) ∧
    (∀ vs, (if hi then c.absentHi else c.absentLo) = true → s.granuleValues l c.savePtr hi = .ok vs →
      exec .carryGranuleFill s = .next ((s.onCluster cl fun x => { x with carry := { x.carry with
        g := putGranule x.carry.g hi vs, absentHi := x.carry.absentHi && !hi, absentLo := x.carry.absentLo && hi } }).dropDelivered
          (launchUnit l)))))

/-! ## Host ports, fabric and Ordel: events (R237, R388 to R406, R411, R417) -/

namespace Sys2Proof.Says

/-- A well-formed packet of a type arrives at the host's port and was not accepted before. -/
def hostIn (s : State) (type : Nat) (p : Packet) : Prop :=
  s.powered = true ∧ s.arg.d.udp = s.hostUdp ∧ Packet.ofDatagram s.arg.d = some p ∧ p.type = type ∧ s.accepted p = false

/-- A fabric packet that has not been received before: its hop acknowledgement is on its way. -/
def fabricIn (s : State) : State :=
  let p := s.arg.a
  (s.onPort p fun q => { q with seen := FabIn.key s.arg.f :: q.seen }).sendFabric p s.arg.f.dev (.ack s.arg.f.seq 0)
def fabricNew (s : State) : Prop := (Tab.get ({} : Port) s.ports s.arg.a).seen.elem (FabIn.key s.arg.f) = false

/-- The host events that carry a packet, with its type (R390). -/
def hostEvents : List (Instr × Nat) :=
  [(.launch, 1), (.memwr, 2), (.memrd, 3), (.rddata, 4), (.ack, 5), (.nack, 6), (.window, 8)]

/-- A request reaches Ordel: by the UDP port in ORDUDP, or on Ordel's own port (R400). -/
def forOrdel (s : State) : Prop := s.arg.d.port = ordelPort ∨ s.arg.d.udp = s.ordel.udp

end Sys2Proof.Says

/-- R336, R388 to R394, R405: a datagram to another port has no effect; a packet accepted before is acknowledged again, unless its access
is still to be performed, and has no other effect; one in bad form is counted, and one whose fields R390 does not allow is refused.
LAUNCH adds a launch to its queue, MEMWR and MEMRD are performed as the page tables allow and answered, or held behind a release of
their source, WINDOW opens or closes a window, RDDATA completes a read of the device, and ACK ends a packet's retransmission. An
unacknowledged packet goes again; the first PTP message steps DEVNS forward at most once and ends bring-up, and a later one leaves
DEVNS; a host port's link change is noticed. When a MEMWR is acknowledged, which SEQ count as accepted, the order of one source's packets
and the servo's correction are the model's (logs 77, 78, 124). -/
def Obligations.HostEventsComplete : Prop :=
  (∀ (s : State) (p : Packet),
    (∀ ev ty, (ev, ty) ∈ hostEvents → s.arg.d.udp ≠ s.hostUdp → exec ev s = .next s) ∧
    (∀ ev ty, (ev, ty) ∈ hostEvents → s.powered = true → s.arg.d.udp = s.hostUdp →
      (Packet.ofDatagram s.arg.d = none → exec ev s = .next { s with hostDrop := s.hostDrop + 1 }) ∧
      (Packet.ofDatagram s.arg.d = some p → p.type = ty → s.accepted p = true → s.serving p.req = false → exec ev s = .next (s.sendAck p)) ∧
      (Packet.ofDatagram s.arg.d = some p → p.type = ty → s.accepted p = true → s.serving p.req = true → exec ev s = .next s)) ∧
    (hostIn s 1 p →
      (s.ready = false → exec .launch s = .next (s.sendNack p 5)) ∧
      (s.ready = true → p.payload.length = 128 → p.aux ≤ 63 → p.addr = 0 →
        (s.launches.filter fun l => l.state == .waiting && l.queue == p.aux).length < 256 →
        exec .launch s = .next (((s.addLaunch p.aux p.payload s.arg.addr.toNat).sendAck p).noteSeq p))) ∧
    (hostIn s 2 p → p.aux ≠ 0 → exec .memwr s = .next (s.sendNack p 6)) ∧
    (hostIn s 2 p → p.aux = 0 → s.mustHold p.req = true →
      exec .memwr s = .next (({ s with hostHeld := s.hostHeld ++ [{ src := p.req, dva := p.addr, op := .write p.payload }] } : State).noteSeq p)) ∧
    (hostIn s 2 p → p.aux = 0 → s.mustHold p.req = false →
      (∀ n, s.portTurn p.req p.addr (.write p.payload) = .nack n → exec .memwr s = .next (s.sendNack p n)) ∧
      (∀ ps, s.portTurn p.req p.addr (.write p.payload) = .go ps →
        exec .memwr s = .next ((s.portPerform p.req p.addr (.write p.payload) ps).noteSeq p))) ∧
    (hostIn s 3 p → 1 ≤ p.aux → p.aux ≤ 4096 → p.payload = [] → s.mustHold p.req = true →
      exec .memrd s = .next (({ s with hostHeld := s.hostHeld ++ [{ src := p.req, dva := p.addr, op := .read p.aux }] } : State).noteSeq p)) ∧
    (hostIn s 3 p → 1 ≤ p.aux → p.aux ≤ 4096 → p.payload = [] → s.mustHold p.req = false →
      (∀ n, s.portTurn p.req p.addr (.read p.aux) = .nack n → exec .memrd s = .next (s.sendNack p n)) ∧
      (∀ ps, s.portTurn p.req p.addr (.read p.aux) = .go ps →
        exec .memrd s = .next ((s.portPerform p.req p.addr (.read p.aux) ps).noteSeq p))) ∧
    (hostIn s 4 p → ∀ r, s.hostRead? p.aux = some r → p.payload.length = r.len → r.place = .host p.addr →
      let t := s.finishRead r p.payload false
      exec .rddata s = .next ((if p.ackreq then t.sendAck p else t).noteSeq p)) ∧
    (p.bare = false → (hostIn s 5 p → exec .ack s = .next (s.sendNack p 6)) ∧ (hostIn s 6 p → exec .nack s = .next (s.sendNack p 6))) ∧
    (hostIn s 5 p → p.bare = true →
      let t := { s with unacked := s.unacked.filter fun q => q.seq != p.aux }
      exec .ack s = .next ((match s.hostWrite? (· == p.aux) with
        | some x => t.writeDone x
        | none => t).noteSeq p)) ∧
    (hostIn s 6 p → p.bare = true → ∀ r c, s.extReads.find? (fun e => e.seq % 2 ^ 24 == p.aux / 256 && match e.place with | .host _ => true | _ => false) =
        some r → reasonCause (p.aux % 256) = some c → exec .nack s = .next ((s.failRead r c).noteSeq p)) ∧
    (hostIn s 8 p → let len := field p.payload 0 8
      p.payload.length = 8 → len % 4096 = 0 → p.addr % 4096 = 0 → bits p.aux 31 9 = 0 → bits p.aux 7 7 = 0 →
      let i := bits p.aux 3 0
      let w : Window :=
        if bits p.aux 6 6 = 1 then
          { isOpen := true, base := p.addr, len := len, r := bits p.aux 4 4 == 1, w := bits p.aux 5 5 == 1, port := bits p.aux 8 8 }
        else { Tab.get {} s.windows i with isOpen := false }
      let t := { s with windows := Tab.set s.windows i w }
      exec .window s = .next ((if p.ackreq then t.sendAck p else t).noteSeq p))) ∧
  (∀ (s : State),
    (∀ q, s.unacked.find? (fun q => q.seq == s.arg.a) = some q → exec .completionRetransmit s = .next { s with hostOut := q :: s.hostOut }) ∧
    (s.ptpLocked = false →
      let t : State := { s with ptpLocked := true, devns := if s.devns.toNat < s.arg.v.toNat then s.arg.v else s.devns }
      ((s.ready = true ∨ s.powered = false) → exec .ptpMessage s = .next t) ∧
      (s.ready = false → s.powered = true → ∃ d f, exec .ptpMessage s =
        .next (({ t with ready := true, fresh := f }).notice 1 d (leBytes 8 ({} : StopReport).word0 ++ leBytes 8 ({} : StopReport).word1)))) ∧
    (s.ptpLocked = true → ∃ t, exec .ptpMessage s = .next t ∧ t.devns = s.devns ∧ t.ptpLocked = true ∧ -100 ≤ t.ppm ∧ t.ppm ≤ 100 ∧
      SameMemory s t ∧ SameUnits s t) ∧
    exec .hostPortLinkChange s = .next ({ s with portUp := s.portUp.set s.arg.a s.arg.yes }.noticeFree 5))


/-- R395 to R397, R411, R417: a fabric packet received before is only acknowledged; a row request or operation joins its home's queue; a
row's data wait to land at each requester; reads, writes and atomics of memory are performed as the page tables allow; a message
joins its channel; acknowledgements and refusals of what this device sent; a packet goes again, and one that no route takes is answered
XLATE_MISS. What counts as received, the reasons of a refusal and the acknowledgement at the home are the model's (logs 80, 81, 94). -/
def Obligations.FabricPacketsComplete : Prop :=
  ∀ (s : State), let p := s.arg.a
    let f := s.arg.f
    let t := fabricIn s
    let r : PortReq := { dev := some f.dev, port := p, seq := f.seq }
    (p < fabricPorts → ∀ ev, ev ∈ [Instr.rowreq, .rowdata, .rowacc, .fabricMemrd, .fabricMemwr, .atomic, .msg] → ¬ fabricNew s →
      exec ev s = .next (s.sendFabric p f.dev (.ack f.seq 0))) ∧
    (p < fabricPorts → fabricNew s →
      (∀ t', t.takeRow (FabIn.job f p) .r = .ok t' → exec .rowreq s = .next t') ∧
      (∀ t', t.takeRow { FabIn.job f p with isOp := true, set := f.pet, write := f.write, payload := f.payload, parts := f.parts, flags := f.flags }
        (if f.write then .w else .rw) = .ok t' → exec .rowacc s = .next t') ∧
      (∀ (j : RowJob) pha, j.dva + j.rowb ≤ 2 ^ 48 → (∀ e ∈ s.cores, e.2.rowQ = []) → (∀ h, h < 1024 → s.absent h = false) → s.soft = [] → s.hard = [] →
        0 < j.rowb →
        (∃ size e, t.walk j.dva = .leaf size e ∧ entKind e = 2 ∧ j.dva % 2 ^ size + j.rowb ≤ 2 ^ size ∧
          pha = entPha e + j.dva % 2 ^ size ∧
          (j = FabIn.job f p → entHas e .r = true) ∧
          (j = { FabIn.job f p with isOp := true, set := f.pet, write := f.write, payload := f.payload, parts := f.parts, flags := f.flags } →
            entHas e (if f.write then .w else .rw) = true)) →
        let t' := (t.onCore (pha / 2 ^ 30) fun c => { c with rowQ := c.rowQ ++ [{ j with place := .hbm pha, id := t.nextId, acc := t.nextId }] }).stamp
        (j = FabIn.job f p → exec .rowreq s = .next t') ∧
        (j = { FabIn.job f p with isOp := true, set := f.pet, write := f.write, payload := f.payload, parts := f.parts, flags := f.flags } →
          exec .rowacc s = .next t')) ∧
      (exec .rowdata s = .next (f.requesters.foldl (fun s (d, k) =>
        if d ≠ Config.deviceNumber then s
        else match (s.core k).awaited f with
          | some j => s.onCore k fun c => { c with landings := c.landings ++ [{ job := j, bytes := f.payload, poison := f.poison }] }
          | none => s) t)) ∧
      (s.arg.yes = false → f.len ≠ 0 → ∀ ps, t.portTurn r f.addr (.read f.len) = .go ps →
        exec .fabricMemrd s = .next (t.portPerform r f.addr (.read f.len) ps)) ∧
      (∀ e, s.arg.yes = true → t.peerRead? s.arg.b f.of = some e →
        exec .fabricMemrd s = .next (t.finishRead e f.payload (f.poison.any id)) ∧
        exec .atomic s = .next (t.finishRead e f.payload (f.poison.any id))) ∧
      (f.payload ≠ [] → ∀ ps, t.portTurn r f.addr (.write f.payload (FabIn.bad f)) = .go ps →
        exec .fabricMemwr s = .next (t.portPerform r f.addr (.write f.payload (FabIn.bad f)) ps)) ∧
      (∀ op ps, s.arg.yes = false → Aop.ofCode f.aop = some op → f.addr % (if f.wide then 8 else 4) = 0 →
        t.portTurn r f.addr (.amo op f.wide f.v f.c) = .go ps →
        exec .atomic s = .next (t.portPerform r f.addr (.amo op f.wide f.v f.c) ps)) ∧
      (f.dst < 1024 → t.absent f.dst = false →
        let m : Message :=
          { id := t.nextId, chan := f.chan, tag := f.tag, srcDev := f.dev, srcCore := f.core, dstDev := Config.deviceNumber
            dstCore := f.dst, payload := f.payload, vn1 := f.isReply, rq := f.rq, reply := f.reply, answers := f.isReply, poisoned := f.poison.any id }
        (∀ t', t.stamp.receive m = some t' → exec .msg s = .next (t'.sendBy f.dev f.dst (.ack f.seq 1))) ∧
        (t.stamp.receive m = none → exec .msg s = .next (s.answerNack r 5)))) ∧
    (s.arg.yes = false → exec .fabricAck s = .next (s.onPort p fun x => x.drop f.of)) ∧
    -- an answer names the port that its packet left by
    (let b := s.arg.b
      let t := s.onPort b fun x => x.drop f.of
      let op := s.cores.findSome? fun (_, c) => c.rowOps.find? fun j => j.sentAs b f.of
      (s.arg.yes = true →
        (∀ j, op = some j → exec .fabricAck s = .next (t.rowDone j (some f.parts))) ∧
        (∀ x, op = none → s.peerWrite? b f.of = some x → exec .fabricAck s = .next (t.writeDone x)) ∧
        (op = none → s.peerWrite? b f.of = none →
          exec .fabricAck s = .next { t with extMsgs := s.extMsgs.filter fun (q, k) => !(q == b && k.seq == f.of) })) ∧
      (∀ k, (Tab.get ({} : Port) s.ports b).sent f.of = some k →
        (∀ c, reasonCause f.reason = some c → exec .fabricNack s = .next (s.refusedPacket b k c)) ∧
        (reasonCause f.reason = none → exec .fabricNack s = .next (s.onPort b fun x => x.again k)))) ∧
    (∀ k, (Tab.get ({} : Port) s.ports p).queue[s.arg.b]? = some k →
      ((Tab.get ({} : Port) s.ports p).down = false → k.tries < 8 →
        exec .fabricRetransmit s = .next (s.onPort p fun x => x.again { k with tries := k.tries + 1 })) ∧
      ((Tab.get ({} : Port) s.ports p).down = true → s.routePort k.dev.toNat k.core = none →
        exec .fabricRetransmit s = .next (s.refusedPacket p k .xlateMiss)))

/-- R400 to R406, R237: what Ordel answers and does: SENSOR, LOG, IDENTITY and ATTEST, FWUPDATE, an unrecognised request, a sample,
gating of issue; and a module reset, a loss of power and a supervisor core's restart. The error log holds at most 8,192 entries, a full
one loses its oldest and LOGLOST counts that up to 2^32 - 1; a LOG answer carries LOGLOST, the number of entries and the entries asked
for, and CLEAR zeroes LOGLOST after that; nothing else removes an entry, and both persist over resets and power loss. A request by
another port has no effect. What the sensors read and the signatures are, what a reset keeps besides, the form of a LOG's request and
its entries, FWUPDATE's answer, the report's layout, which clk are gated and what a restart leaves are the model's (logs 5, 6, 18, 84,
85, 86, 87, 88). -/
def Obligations.OrdelEventsComplete : Prop :=
  (∀ (s : State) src cause detail, s.ordel.log.length ≤ 8192 →
    let t := s.ordelLog src cause detail
    let e : LogEnt := { devns := s.devns, source := src, cause := cause, detail := detail }
    (s.ordel.log.length < 8192 → t.ordel.log = e :: s.ordel.log ∧ t.ordel.logLost = s.ordel.logLost) ∧
    (s.ordel.log.length = 8192 → t.ordel.log = e :: s.ordel.log.dropLast ∧
      t.ordel.logLost.toNat = min (s.ordel.logLost.toNat + 1) (2 ^ 32 - 1)) ∧ t.ordel.log.length ≤ 8192) ∧
  (∀ e : LogEnt, (LogEnt.toBytes e).length = 32) ∧
  (∀ (s : State) (ev : Instr), ev ∈ [Instr.sensor, .fwupdate, .identity, .attest, .ordelUnrecognisedRequest, .powerLoss, .moduleReset] →
    ∃ t, exec ev s = .next t ∧ t.ordel.log = s.ordel.log ∧ t.ordel.logLost = s.ordel.logLost) ∧
  State.reset.ordel.logLost = 0 ∧
  (∀ (s : State) (ev : Instr), ev ∈ [Instr.sensor, .log, .fwupdate, .identity, .attest, .ordelUnrecognisedRequest] → ¬ forOrdel s →
    exec ev s = .next s) ∧
  (∀ s : State, forOrdel s →
    (∃ t, exec .log s = .next t ∧ t.ordel.log = s.ordel.log ∧
      t.ordel.out = (leBytes 4 s.ordel.logLost.toNat ++ leBytes 4 s.ordel.log.length ++
        ((s.ordel.log.reverse.drop s.arg.a).take s.arg.b).flatMap LogEnt.toBytes) :: s.ordel.out ∧
      t.ordel.logLost = if s.arg.yes then 0 else s.ordel.logLost) ∧
    exec .sensor s = .next (s.ordelAnswer (w64Bytes s.ordel.sampleNs ++ Config.sensors s.ordel.sample)) ∧
    exec .identity s = .next (s.ordelAnswer Config.identity) ∧
    (s.arg.bs.length = 32 → let r := s.attestation s.arg.bs
      exec .attest s = .next (s.ordelAnswer (r ++ Config.signEd25519 r ++ Config.signMlDsa r))) ∧
    (s.ordel.accepts s.arg.bs s.arg.bs2 s.arg.a = false → exec .fwupdate s = .next s.ordelStatus) ∧
    (s.ordel.accepts s.arg.bs s.arg.bs2 s.arg.a = true → exec .fwupdate s = .next
      (s.onOrdel fun o => { o.setImage (1 - o.running) { bytes := s.arg.bs, version := s.arg.a } with next := 1 - o.running }).ordelStatus) ∧
    exec .ordelUnrecognisedRequest s = .next s.ordelStatus) ∧
  (∀ s : State,
    (let smp := s.ordel.sample + 1
      let t := s.onOrdel fun o => { o with sample := o.sample + 1, sampleNs := s.devns }
      (Config.dieTemp smp ≤ 115 → exec .sensorSample s = .next t) ∧
      (115 < Config.dieTemp smp → exec .sensorSample s = .next
        ((t.onOrdel fun o => { o with shut := true }).ordelLog 0 0 (Config.dieTemp smp)))) ∧
    (let p := if s.arg.yes = true ∧ 1200 ≤ s.arg.b ∧ s.arg.b ≤ 2400 then s.arg.b else s.ordel.powerLim
      let gated (n : Nat) : State := s.onOrdel fun o => { o with powerLim := p, duty := n }
      (Config.dieTemp s.ordel.sample ≤ 105 →
        exec .powerGating s = .next (gated (if p < averagePower s.ordel.sample then max 1 (s.arg.a % 16) else 16))) ∧
      (105 < Config.dieTemp s.ordel.sample → exec .powerGating s = .next ((gated (max 1 (s.arg.a % 16))).noticeFree 4))) ∧
    (∃ t, exec .moduleReset s = .next t ∧ t.mem = [] ∧ t.powered = State.reset.powered ∧ t.ready = false ∧ t.ptpLocked = false ∧ t.cores = [] ∧ t.clusters = [] ∧ t.launches = []) ∧
    (∃ t, exec .powerLoss s = .next t ∧ t.mem = [] ∧ t.powered = false ∧ t.ready = false) ∧
    ((s.sup s.arg.a).live = false → exec .supervisorRestart s = .next
      (s.onSup s.arg.a fun x => { x with live := true, pc := 0, wait := .none, readyAt := s.time })) ∧
    ((s.sup s.arg.a).live = true → exec .supervisorRestart s = .next s))

/-! ## The whole machine: waits, operands, registers, memory, decoding, steps, invariants, reset -/

namespace Sys2Proof.Says

/-- R137, R155, R201, R210, R359: the bits of a control register that a unit reads and writes (RW in the tables); none for the
registers of other access codes. -/
def rwBits (u : UnitId) (n : Nat) : Option W64 :=
  let save : W64 := BitVec.ofNat 64 (2 ^ 49 - 1)
  let dense : Option W64 :=
    match n with
    | 0x011 => some 0x3F
    | 0x012 | 0x0C4 => some save
    | 0x032 => some (BitVec.ofNat 64 (2 ^ 48 - 1))
    | 0x037 => some 0xFF
    | n =>
      if 0x040 ≤ n ∧ n ≤ 0x04E then some (BitVec.allOnes 64)
      else if 0x060 ≤ n ∧ n ≤ 0x07F then some (if n % 2 = 0 then BitVec.allOnes 64 else 0xC0FFFFFF00FFFFFF)
      else none
  match u with
  | .ctx _ _ => match n with
    | 0x011 => some 0x3F
    | 0x012 | 0x0C4 => some save
    | 0x021 => some 0xFF
    | _ => none
  | .scalar _ => match n with
    | 0x030 => some 1
    | 0x01A | 0x01B | 0x0CC => some save
    | 0x0CD => some 0xFF
    | _ => dense
  | .compute _ => match n with
    | 0x030 => some 1
    | 0x031 => some 3
    | 0x0C5 => some 0xFF
    | _ => dense
  | _ => none
/-- The read-only control registers of a unit (R77, R155, R210, R346, R359). -/
def readOnly (u : UnitId) (n : Nat) : Bool :=
  let dense := [0x022, 0x033, 0x034, 0x035, 0x036, 0x0C0, 0x0C1, 0x0C2, 0x0C3].elem n || decide (0x0E0 ≤ n ∧ n ≤ 0x0E7)
  match u with
  | .ctx _ _ => [0x020, 0x022, 0x024, 0x025, 0x0C0, 0x0C1, 0x0C2, 0x0C3].elem n
  | .scalar _ => dense || [0x0C8, 0x0C9, 0x0CA, 0x0CB, 0x0CE].elem n
  | .compute _ => dense || n == 0x0C6
  | _ => false
/-- The units that have control registers by number: contexts, scalar and compute sequencers (R137). -/
def hasRegisters : UnitId → Bool
  | .ctx _ _ | .scalar _ | .compute _ => true
  | _ => false

/-- The bounds that the spec gives a cluster's queues and sectors: a token count with its reservations is at most 255 (R86, R207), the
matrix queue holds 8 commands (R281) and the format queue 16 words (R212), and the sectors in use, free and in reserve make up the
store (R107, R112). -/
def boundedCluster (c : Cluster) : Prop :=
  let d := c.dense
  let sent (w : Wait) (q : Nat) : Nat := match w with
    | .sending q' n => if q' = q then n else 0
    | _ => 0
  (∀ q, Tab.get 0 d.q q + Tab.get 0 d.qres q ≤ 255 ∧
    sent d.sc.wait q + sent d.ld.wait q + sent d.st.wait q + sent d.cp.wait q ≤ Tab.get 0 d.qres q) ∧
  d.mq.length ≤ 8 ∧ d.fq.length ≤ 16 ∧
  c.cm.forms.Pairwise (fun x y => x.1 < y.1) ∧
  c.cm.free + c.cm.res + (c.cm.forms.map fun x => Form.sectors x.2).sum = 6291456
/-- Those of every cluster, and of the error log (R402). -/
def bounded (s : State) : Prop := (∀ e ∈ s.clusters, boundedCluster e.2) ∧ s.ordel.log.length ≤ 8192

end Sys2Proof.Says

/-- R3, R125, R137, R155, R201, R210, R359: a write of a read and write register stores the bits that the table gives it, and a read
answers them with every reserved bit 0; a write of a read-only one is ignored; a one written to a bit of FFLAGS clears it where no
completion of that clk sets it; SRSTATE 0 is stored as 1. Each unit has its own FFLAGS, SIGTH, TAGBASE, SRSTATE, SBCHK and trap registers,
and the scalar stream reads the compute sequencer's by 0x0C8 to 0x0CE. Numbers of others are PRIV, and numbers without a register ILLEGAL. -/
def Obligations.ControlRegisters : Prop :=
  (∀ (s : State) u n m (v : W64), rwBits u n = some m →
    ∃ t, s.writeCr u n v.toNat = .ok t ∧ t.readCr u n = .ok (v &&& m).toNat ∧ SameMemory s t) ∧
  (∀ (s : State) u n v, readOnly u n = true →
    ∃ t x, s.readCr u n = .ok x ∧ s.writeCr u n v = .ok t ∧ t.readCr u n = .ok x ∧ SameMemory s t ∧ t.dense u.cl = s.dense u.cl ∧
      (∀ k c, t.ctx k c = s.ctx k c)) ∧
  (∀ (s : State) u (v : W64), hasRegisters u = true →
    let x := s.num u
    (∃ t, s.writeCr u 0x010 v.toNat = .ok t ∧ (x.raised.time ≠ s.time → t.readCr u 0x010 = .ok (x.fflags &&& ~~~ v.setWidth 6).toNat)) ∧
    (∃ t, s.writeCr u 0x013 v.toNat = .ok t ∧
      t.readCr u 0x013 = .ok (if v.setWidth 32 = 0 then 1 else (v.setWidth 32).toNat))) ∧
  (∀ (s : State) cl n v t, [0x010, 0x011, 0x012, 0x013, 0x030, 0x0C4].elem n = true → s.writeCr (.scalar cl) n v = .ok t →
    t.readCr (.compute cl) n = s.readCr (.compute cl) n) ∧
  (∀ (s : State) cl i, i < 5 → s.readCr (.scalar cl) (0x0C8 + i) = s.readCr (.compute cl) (0x0C0 + i)) ∧
  (∀ (s : State) cl i, i = 0 ∨ i = 1 → s.readCr (.scalar cl) (0x0CD + i) = s.readCr (.compute cl) (0x0C5 + i)) ∧
  (∀ (s : State) u n v, ((n = 0x01A ∨ n = 0x01B) ∧ ∀ cl, u ≠ .scalar cl) ∨ (supNumber n = true ∧ u.isSup = false) →
    s.readCr u n = .error (.trap .priv 0 s) ∧ s.writeCr u n v = .error (.trap .priv 0 s)) ∧
  (∀ (s : State) u n v, hasRegisters u = true → rwBits u n = none → readOnly u n = false → n ≠ 0x010 → n ≠ 0x013 →
    ¬ (0x050 ≤ n ∧ n ≤ 0x057) → n ≠ 0x01A → n ≠ 0x01B → supNumber n = false →
    s.readCr u n = .error (.trap .illegal 0 s) ∧ s.writeCr u n v = .error (.trap .illegal 0 s)) ∧
  (∀ (s : State) i n (v : W64) w, [(0x100, 64), (0x101, 48), (0x103, 64), (0x104, 32), (0x110, 16), (0x112, 64), (0x113, 16)].elem (n, w) = true →
    ∃ t, s.writeCr (.sup i) n v.toNat = .ok t ∧ t.readCr (.sup i) n = .ok (v.toNat % 2 ^ w))

/-- R191: WAITT pn is 0x7200_0000 + n, and any other value of bits 19:3 is no WAITT; it retires, with no other effect, when TIME has
reached bits 55:0 of the pointer, compared as R78 compares promises, and otherwise sleeps; at the expiry the sleeping word does what it
does at issue. -/
def Obligations.WaittSleepsUntilTime : Prop :=
  (∀ n : BitVec 3, encode (.waitt n) = some (0x72000000 + n.toNat) ∧ decodeWord .lookup (0x72000000 + n.toNat) = .ok (.waitt n)) ∧
  (∀ (n : BitVec 3) (m : Nat), m ≠ 0 → m < 2 ^ 17 → ∃ r, decodeWord .lookup (0x72000000 + 8 * m + n.toNat) = .error r) ∧
  (∀ (s : State) (k c : Nat) (n : BitVec 3), s.cur = .ctx k c →
    let t := ((s.ctx k c).ptr n.toNat).addr.toNat % 2 ^ 56
    (promiseReached s.time t = true → exec (.waitt n) s = .next (s.past (.ctx k c) 0)) ∧
    (promiseReached s.time t = false → exec (.waitt n) s = .next
      ((s.setWait (.ctx k c) (.untilTime t)).setReadyAt (.ctx k c) (s.time + 1)))) ∧
  (∀ (s s' : State) (n : BitVec 3) t, s.canIssue s.arg.u = true → s.wait s.arg.u = .untilTime t →
    s.fetch s.arg.u = .ok (0x72000000 + n.toNat, s') → streamOf s.arg.u = .lookup → exec .waittExpiry s = exec (.waitt n) s)

/-- R139, R146, R156 to R158: reading an operand changes no byte of memory itself (a home serves the row jobs that arrived before it
first, R154); it steps the pointer that the operand steps, moves a popped payload one beat on, and may fill translation caches and the
Lantern. The context's acc, condition bits, numeric registers, PC, wait and trap registers stay, as does every other pointer, context,
port and launch. -/
def Obligations.OperandReadsLeaveState : Prop :=
  ∀ (s t : State) (k c : Nat) e n o xs, s.operand k c e n o = .ok (xs, t) → (∀ e ∈ s.cores, e.2.rowQ = []) →
    let x := s.ctx k c
    let y := t.ctx k c
    t.mem = s.mem ∧ t.flights = s.flights ∧ t.sups = s.sups ∧ t.launches = s.launches ∧ t.ports = s.ports ∧
    y.acc = x.acc ∧ y.accTags = x.accTags ∧ y.f = x.f ∧ y.num = x.num ∧ y.pc = x.pc ∧ y.trap = x.trap ∧ y.wait = x.wait ∧
    (∀ p, (∀ q back, LOpd.pointer o = some (q, some back) → p ≠ q) → y.ptr p = x.ptr p) ∧
    (∀ q back, LOpd.pointer o = some (q, some back) → y.ptr q = (x.ptr q).step back) ∧
    y.act = (if o = .inPop then x.act.map fun a => { a with pos := a.pos + 1 } else x.act) ∧
    (LOpd.pointer o = none → o ≠ .inPop → t = s) ∧
    (∀ k' c', (s.physCore k' ≠ s.physCore k ∨ c' ≠ c) → t.ctx k' c' = s.ctx k' c') ∧
    (∀ j, { t.core j with ctxs := [], tlb := [] } = { s.core j with ctxs := [], tlb := [] }) ∧
    (∀ cl, t.cluster cl = { s.cluster cl with tlb := (t.cluster cl).tlb, cm := (t.cluster cl).cm, rel := (t.cluster cl).rel })

/-- R107, R405: memory is one list in canonical form: two lists of that form that read alike are one; a write keeps the form, the bytes
written read back, and every other byte reads as before, at a place of this device as in the list. The last is the model's own
form (log 1). -/
def Obligations.MemoryWritesReadBack : Prop :=
  (∀ (m : List Host.Cell) a (bs : List Byte), Memory.wf m = true → Memory.wf (memWrite m a bs) = true ∧
    ∀ x, memGet (memWrite m a bs) x = if a ≤ x ∧ x < a + bs.length then bs.getD (x - a) 0 else memGet m x) ∧
  (∀ m m' : List Host.Cell, Memory.wf m = true → Memory.wf m' = true → (∀ x, memGet m x = memGet m' x) → m = m') ∧
  (∀ (s : State) p bs wr a, CanonicalMemory s → s.key p = some a →
    CanonicalMemory (s.writePlace p bs wr) ∧
    (∀ x, memGet (s.writePlace p bs wr).mem x = if a ≤ x ∧ x < a + bs.length then bs.getD (x - a) 0 else memGet s.mem x) ∧
    SameUnits s (s.writePlace p bs wr) ∧ (s.writePlace p bs wr).flights = s.flights)

/-- R13, R14, R17, R53, R141, R220, R222, R344: at a turn, when the unit that takes the issue slot can issue and the word at its PC,
which lies inside its stream, decodes to i, a step is i's meaning, once time has passed (to a clk that R406's gating leaves open) and
results have landed and the word has its sequence number; the first two turns of a T word only take their slots. A word that does not
decode is the unassigned opcode. An event's turn is the event's meaning, unless the module is off. The first turn of an agenda is the one
taken, unless others of its clk come before it. The agenda, its order among turns that the rules leave open, and what follows a word
are the model's (logs 13, 95, 117). -/
def Obligations.StepRunsDecoded : Prop :=
  (∀ (s s3 s4 : State) t0 ts t rest u w i, s.agenda = t0 :: ts → s.nextTurn t0 ts = (t, rest) → t.act = .issue u →
    let s0 := ({ s with
      agenda := rest, lateStores := t.late, quota := t.reads, got := [], further := t.further, disturb := t.disturb, arg := {} } : State).viewFor u
    let s1 := (s0.passTime (s0.turnDelay u t.dt)).landDue
    let v := s1.pick u
    let s1 := { s1 with cur := v }
    let s2 := s1.countGroup v
    s1.lateDue v = none → s1.canIssue v = true → (s2.pc v).toNat < s2.streamLen v → (s2.pc v).toNat % 4 = 0 →
    (s2.takeSeq v).fetch v = .ok (w, s3) →
    (decodeWord (streamOf v) w = .ok i → s3.badContext v i = (s4, false) →
      step s = if s4.spendsTurn v i then .next (s4.spendTurn v) else match exec i s4 with
        | .next t => .next (s.afterTurn s4 t i)
        | o => o) ∧
    (∀ r, decodeWord (streamOf v) w = .error r →
      let s4 := { s3 with arg := { u := v, v := BitVec.ofNat 64 w } }
      step s = match exec .unassignedOpcode s4 with
        | .next t => .next (s.afterTurn s4 t .unassignedOpcode)
        | o => o)) ∧
  (∀ (s : State) i a t0 ts t rest, s.agenda = t0 :: ts → s.nextTurn t0 ts = (t, rest) → t.act = .event i a →
    let s0 := ({ s with
      agenda := rest, lateStores := t.late, quota := t.reads, got := [], further := t.further, disturb := t.disturb, arg := {} } : State).viewFor a.u
    let s1 := (s0.passTime (s0.delayOf t t.dt)).landDue
    let s2 := { s1 with cur := a.u, arg := a }
    step s = if s1.off && !standby i then .next s1 else match exec i s2 with
      | .next t => .next (s.afterTurn s2 t i)
      | o => o) ∧
  (∀ (s : State) t ts, ts.takeWhile (fun y => y.dt == 0) = [] → s.nextTurn t ts = (t, ts)) ∧
  (∀ s : State, s.agenda = [] → step s = step { s with agenda := [{ dt := 0, act := .issue s.cur }] })

/-- R25, R191, R410: the words that the spec writes out for instructions decode to those instructions. -/
def Obligations.ExampleWordsDecode : Prop :=
  decodeWord .scalar 0x040A2FFC = .ok (.addi false 0 5 2 0xFFC) ∧ decodeWord .lookup 0x72000003 = .ok (.waitt 3) ∧
  decodeWord .scalar 0x44022048 = .ok (.stw 0 1 2 0x48) ∧ decodeWord .scalar 0x78000005 = .ok (.sysHalt 0) ∧
  decodeWord .scalar 0x381CA000 = .ok (.ldwt false 0 14 10 0) ∧ decodeWord .scalar 0x6C020001 = .ok (.sTsend 0 1 1) ∧
  decodeWord .copy 0x20010000 = .ok (.cTwait 0 1) ∧ decodeWord .copy 0x58000000 = .ok .cHalt ∧
  decodeWord .copy 0x10000000 = .ok (.dload 0 0) ∧ decodeWord .compute 0x1D1D2000 = .ok (.vbcast 0 29 2) ∧
  decodeWord .compute 0x82008100 = .ok (.mma 0 0 2 false true false false) ∧ decodeWord .compute 0x8A001000 = .ok (.mdrain 0 4 false false) ∧
  decodeWord .compute 0x34000001 = .ok (.vsysTret 0) ∧ decodeWord .compute 0x31000107 = .ok (.vTsend 0 1 7) ∧
  decodeWord .lookup 0 = .ok .nop ∧ decodeWord .lookup 0xFFFFFFFF = .error .allOnes

/-- R13, R14, R18 to R37: every well-formed instruction that has a word decodes from it, with every operand, in its own stream, and its
word is one of 32 bits. -/
def Obligations.DecodeEncodeRoundTrip : Prop :=
  ∀ (i : Instr) (st : Stream) (w : Nat), i.wellFormed = true → i.stream = some st → encode i = some w →
    w < 2 ^ 32 ∧ decodeWord st w = .ok i

/-- R357, R361: whatever the state, a step ends in a next state: every cause is a trap or a stop of a node, and nothing is refused. -/
def Obligations.EveryStepAnswers : Prop := ∀ s : State, Answers s

/-- R86, R107, R112, R207, R212, R281, R402: every step that answers a next state keeps the canonical form of memory and, where they hold,
the bounds of the token queues with their reservations, of the matrix and format queues, of the sectors of every cluster memory and of
the error log; after reset all of them hold. The form of memory is the model's own (log 1). -/
def Obligations.StepKeepsInvariants : Prop :=
  (∀ s t : State, CanonicalMemory s → step s = .next t → CanonicalMemory t) ∧
  (∀ s t : State, bounded s → step s = .next t → bounded t) ∧
  CanonicalMemory State.reset ∧ bounded State.reset

/-- R23, R107, R112, R137, R151, R368, R374, R377, R388, R405: after reset memory is canonical, no granule is poisoned, no launch or node is
there, the reserve holds 262,144 sectors and 6,029,312 are free, PTP has not locked and the module takes no LAUNCH yet, and the supervisor's
registers hold their reset values. That memory reads zero, that power is on, and the values the spec leaves open are the model's
(logs 1, 12, 17, 90). -/
def Obligations.ResetState : Prop :=
  let s := State.reset
  CanonicalMemory s ∧ (∀ a, memGet s.mem a = 0) ∧ s.poison = [] ∧ s.launches = [] ∧ s.flights = [] ∧ s.markersOut = [] ∧
  (∀ cl, (s.cluster cl).cm.res = 262144 ∧ (s.cluster cl).cm.resTgt = 262144 ∧ (s.cluster cl).cm.free = 6029312 ∧
    (s.cluster cl).report = {} ∧ (s.cluster cl).ce.cflags = 0) ∧
  (∀ k, (s.core k).worklist = [] ∧ (s.core k).deque = [] ∧ (s.core k).reqStore = 0 ∧
    (∀ i, Tab.get 0 (s.core k).useCtr i = 0) ∧ (∀ c, ((s.core k).ctx c).live = false ∧ ((s.core k).ctx c).trap.intrap = false)) ∧
  s.powered = true ∧ s.ready = false ∧ s.ptpLocked = false ∧
  s.hostUdp = 0x5F30 ∧ s.hostDrop = 0 ∧ s.flogBase = 0 ∧ s.flogHead = 0 ∧ s.flogN = 0 ∧ s.flogDrop = 0 ∧ s.gen = 0
end

