-- ==== Sys2Proof/Laws/Codes.lean ====
section
/-! SUPPORT. The code of every enumerated field: its bound, and that it reads back (R19, R21, R33 to R36). -/

namespace Sys2Proof

theorem pack_nil (m : Nat) : pack m [] = m := rfl
theorem pack_cons (m a k : Nat) (fs : List (Nat × Nat)) : pack m ((a, k) :: fs) = pack (m + a * 2 ^ k) fs := rfl

/-- A larger start packs to a larger word. -/
theorem pack_le_pack {m n : Nat} (h : m ≤ n) : ∀ fs, pack m fs ≤ pack n fs
  | [] => h
  | (_, _) :: fs => pack_le_pack (Nat.add_le_add_right h _) fs
/-- The first field adds at most its greatest value. -/
theorem pack_head {m a b k N : Nat} {fs : List (Nat × Nat)} (h : a < b) (ih : pack (m + (b - 1) * 2 ^ k) fs ≤ N) :
    pack m ((a, k) :: fs) ≤ N :=
  Nat.le_trans (pack_le_pack (Nat.add_le_add_left (Nat.mul_le_mul_right _ (Nat.le_sub_one_of_lt h)) _) fs) ih

theorem bitOf_lt (b : Bool) : bitOf b < 2 := by cases b <;> decide

theorem ElemType.code_lt (o : ElemType) : ElemType.code o < 16 := by cases o <;> decide
theorem ElemType.ofCode_code (o : ElemType) : ElemType.ofCode (ElemType.code o) = some o := by cases o <;> rfl
theorem Rm.code_lt (o : Rm) : Rm.code o < 8 := by cases o <;> decide
theorem Rm.ofCode_code (o : Rm) : Rm.ofCode (Rm.code o) = some o := by cases o <;> rfl
theorem Scope.code_lt (o : Scope) : Scope.code o < 4 := by cases o <;> decide
theorem Scope.ofCode_code (o : Scope) : Scope.ofCode (Scope.code o) = some o := by cases o <;> rfl
theorem FenceKind.code_lt (o : FenceKind) : FenceKind.code o < 4 := by cases o <;> decide
theorem FenceKind.ofCode_code (o : FenceKind) : FenceKind.ofCode (FenceKind.code o) = some o := by cases o <;> rfl
theorem Aop.code_lt (o : Aop) : Aop.code o < 32 := by cases o <;> decide
theorem Aop.ofCode_code (o : Aop) : Aop.ofCode (Aop.code o) = some o := by cases o <;> rfl
theorem Cond.code_lt (o : Cond) : Cond.code o < 16 := by cases o <;> decide
theorem Cond.ofCode_code (o : Cond) : Cond.ofCode (Cond.code o) = some o := by cases o <;> rfl
theorem VCond.code_lt (o : VCond) : VCond.code o < 8 := by cases o <;> decide
theorem VCond.ofCode_code (o : VCond) : VCond.ofCode (VCond.code o) = some o := by cases o <;> rfl
theorem LogOp.code_lt (o : LogOp) : LogOp.code o < 4 := by cases o <;> decide
theorem LogOp.ofCode_code (o : LogOp) : LogOp.ofCode (LogOp.code o) = some o := by cases o <;> rfl
theorem ShiftOp.code_lt (o : ShiftOp) : ShiftOp.code o < 8 := by cases o <;> decide
theorem ShiftOp.ofCode_code (o : ShiftOp) : ShiftOp.ofCode (ShiftOp.code o) = some o := by cases o <;> rfl
theorem RedOp.code_lt (o : RedOp) : RedOp.code o < 4 := by cases o <;> decide
theorem RedOp.ofCode_code (o : RedOp) : RedOp.ofCode (RedOp.code o) = some o := by cases o <;> rfl
theorem BarOp.code_lt (o : BarOp) : BarOp.code o < 4 := by cases o <;> decide
theorem BarOp.ofCode_code (o : BarOp) : BarOp.ofCode (BarOp.code o) = some o := by cases o <;> rfl
theorem Eng.code_lt (o : Eng) : Eng.code o < 4 := by cases o <;> decide
theorem Eng.ofCode_code (o : Eng) : Eng.ofCode (Eng.code o) = some o := by cases o <;> rfl
theorem LOpd.code_lt (o : LOpd) : LOpd.code o < 32 := by cases o <;> simp [LOpd.code] <;> omega
theorem LOpd.ofCode_code (o : LOpd) : LOpd.ofCode (LOpd.code o) = some o := by
  cases o with
  | mem p | memInc p | memDec p => revert p; decide
  | _ => rfl

/-- A field of a word is the word's bits from its low bit on. -/
theorem field_eq (n w lo : Nat) (x : BitVec n) (h : w / 2 ^ lo % 2 ^ n = x.toNat) : field n w lo = x := by
  apply BitVec.eq_of_toNat_eq
  simp [field, h]
theorem flag_eq (w k : Nat) (b : Bool) (h : w / 2 ^ k % 2 = bitOf b) : flag w k = b := by
  have : bits w k k = w / 2 ^ k % 2 := by simp [bits]
  simp only [flag, this, h]
  cases b <;> decide

end Sys2Proof
end

