-- ==== Sys2Proof/Laws/Memory.lean ====
section
/-! SUPPORT. The canonical form of memory, and what reading after a write gives. -/

namespace Sys2Proof.Machine

theorem Memory.wf_nil : Memory.wf [] = true := rfl

/-- A list that rises from above a bound rises from above any lower one. -/
theorem memWfFrom_of_le {l l' : Nat} (h : l' ≤ l) : ∀ m, memWfFrom (some l) m = true → memWfFrom (some l') m = true
  | [], _ => rfl
  | (k, b) :: m, hm => by
    simp only [memWfFrom, Bool.and_eq_true, decide_eq_true_eq] at hm ⊢
    exact ⟨⟨by omega, hm.1.2⟩, hm.2⟩

theorem memWfFrom_none {l : Nat} : ∀ m, memWfFrom (some l) m = true → memWfFrom none m = true
  | [], _ => rfl
  | (k, b) :: m, hm => by
    simp only [memWfFrom, Bool.and_eq_true, true_and] at hm ⊢
    exact ⟨hm.1.2, hm.2⟩

/-- Nothing at or below the bound of a canonical list is listed. -/
theorem memGet_of_le {l a : Nat} (h : a ≤ l) : ∀ m, memWfFrom (some l) m = true → memGet m a = 0
  | [], _ => rfl
  | (k, b) :: m, hm => by
    simp only [memWfFrom, Bool.and_eq_true, decide_eq_true_eq] at hm
    simp only [memGet]
    rw [if_neg (by omega)]
    exact memGet_of_le (l := k) (by omega) m hm.2

/-- A write of one byte keeps the canonical form above a bound. -/
theorem memWfFrom_memSet {l a : Nat} (b : Byte) (h : l < a) :
    ∀ m, memWfFrom (some l) m = true → memWfFrom (some l) (memSet m a b) = true := by
  intro m
  induction m generalizing l with
  | nil =>
    intro _
    simp only [memSet]
    split
    · rfl
    · simp [memWfFrom, h]; assumption
  | cons e m ih =>
    obtain ⟨k, x⟩ := e
    intro hm
    have hm' := hm
    simp only [memWfFrom, Bool.and_eq_true, decide_eq_true_eq] at hm'
    simp only [memSet]
    split
    · split
      · exact hm
      · simp only [memWfFrom, Bool.and_eq_true, decide_eq_true_eq]
        exact ⟨⟨h, by simpa⟩, ⟨⟨by assumption, hm'.1.2⟩, hm'.2⟩⟩
    · split
      · subst_vars
        split
        · exact memWfFrom_of_le (by omega) m hm'.2
        · simp only [memWfFrom, Bool.and_eq_true, decide_eq_true_eq]
          exact ⟨⟨by omega, by simpa⟩, hm'.2⟩
      · simp only [memWfFrom, Bool.and_eq_true, decide_eq_true_eq]
        exact ⟨⟨hm'.1.1, hm'.1.2⟩, ih (by omega) hm'.2⟩

/-- A write of one byte keeps the canonical form. -/
theorem Memory.wf_memSet (m : List Host.Cell) (a : Nat) (b : Byte) (hm : Memory.wf m = true) : Memory.wf (memSet m a b) = true := by
  cases m with
  | nil =>
    simp only [memSet]
    split
    · rfl
    · simp [Memory.wf, memWfFrom]; assumption
  | cons e m =>
    obtain ⟨k, x⟩ := e
    simp only [Memory.wf, memWfFrom, Bool.and_eq_true, true_and] at hm
    simp only [memSet, Memory.wf]
    split
    · split
      · simp only [memWfFrom, Bool.and_eq_true, true_and]; exact hm
      · simp only [memWfFrom, Bool.and_eq_true, decide_eq_true_eq, true_and]
        exact ⟨by simpa, ⟨by assumption, hm.1⟩, hm.2⟩
    · split
      · split
        · exact memWfFrom_none m hm.2
        · simp only [memWfFrom, Bool.and_eq_true, true_and]
          exact ⟨by simpa, hm.2⟩
      · simp only [memWfFrom, Bool.and_eq_true, true_and]
        exact ⟨hm.1, memWfFrom_memSet b (by omega) m hm.2⟩

/-- A write of bytes keeps the canonical form. -/
theorem Memory.wf_memWrite (bs : List Byte) : ∀ (m : List Host.Cell) (a : Nat), Memory.wf m = true → Memory.wf (memWrite m a bs) = true := by
  induction bs with
  | nil => exact fun _ _ h => h
  | cons b bs ih => exact fun m a h => ih _ _ (Memory.wf_memSet m a b h)

/-- The byte just written, in a canonical list above a bound. -/
theorem memGet_memSet_self {l a : Nat} (b : Byte) (h : l < a) :
    ∀ m, memWfFrom (some l) m = true → memGet (memSet m a b) a = b := by
  intro m
  induction m generalizing l with
  | nil => intro _; simp only [memSet]; split <;> simp_all [memGet]
  | cons e m ih =>
    obtain ⟨k, x⟩ := e
    intro hm
    simp only [memWfFrom, Bool.and_eq_true, decide_eq_true_eq] at hm
    simp only [memSet]
    split
    · split
      · simp only [memGet]
        rw [if_neg (by omega), memGet_of_le (l := k) (by omega) m hm.2]
        exact Eq.symm ‹_›
      · simp [memGet]
    · split
      · subst_vars
        split
        · rw [memGet_of_le (Nat.le_refl _) m hm.2]; exact Eq.symm ‹_›
        · simp [memGet]
      · simp only [memGet]
        rw [if_neg (by omega)]
        exact ih (by omega) hm.2

/-- Every other byte reads as before. -/
theorem memGet_memSet_ne {a x : Nat} (b : Byte) (h : x ≠ a) : ∀ m, memGet (memSet m a b) x = memGet m x
  | [] => by simp only [memSet]; split <;> simp [memGet]; omega
  | (k, y) :: m => by
    simp only [memSet]
    split
    · split
      · rfl
      · simp only [memGet]; rw [if_neg (by omega)]
    · split
      · split
        · simp only [memGet]; rw [if_neg (by omega)]
        · simp only [memGet]; rw [if_neg (by omega), if_neg (by omega)]
      · simp only [memGet, memGet_memSet_ne b h m]

/-- The operation that writes at a key keeps the canonical form. -/
theorem State.writeKey_wf (s : State) (a : Nat) (bs : List Byte) (h : Memory.wf s.mem = true) : Memory.wf (s.writeKey a bs).mem = true :=
  Memory.wf_memWrite bs s.mem a h

/-- Marking scratchpad blocks changes no byte. -/
@[simp] theorem State.noteBlocks_mem (s : State) (cl off : Nat) (bs : List Byte) (w : Writer) : (s.noteBlocks cl off bs w).mem = s.mem := by
  have key : ∀ (f : State → Nat → State) (hf : ∀ t i, (f t i).mem = t.mem) (l : List Nat) (t : State), (l.foldl f t).mem = t.mem := by
    intro f hf l
    induction l with
    | nil => exact fun _ => rfl
    | cons x l ih => intro t; simp only [List.foldl_cons, ih, hf]
  unfold State.noteBlocks
  split
  · rfl
  · apply key; intros; rfl

/-- A write performed at a place of this device is a write at its key, and at any other place changes no byte of this device. -/
theorem State.writePlace_mem (s : State) (p : Place) (bs : List Byte) (w : Writer) :
    (s.writePlace p bs w).mem = match s.key p with | none => s.mem | some a => memWrite s.mem a bs := by
  unfold State.writePlace
  cases s.key p with
  | none => rfl
  | some a => cases p <;> simp [State.writeKey]

theorem reset_mem_wf : Memory.wf State.reset.mem = true := rfl

end Sys2Proof.Machine
end

