-- ==== Sys2Proof/Laws/PerInstr.lean ====
section
/-! SUPPORT. Per instruction: a word is of 32 bits (R13). -/

namespace Sys2Proof.Laws.FitsWord

/-- A word of an instruction has 32 bits. -/
def Statement (i : Instr) : Prop := ∀ w, encode i = some w → w < 2 ^ 32

theorem fits_of_le {i : Instr} {p n : Nat} (h : encode i = some p) (hp : p ≤ n) (hn : n < 2 ^ 32) : Statement i := fun w hw => by
  rw [h] at hw
  cases hw
  exact Nat.lt_of_le_of_lt hp hn
theorem fits_of_none {i : Instr} (h : encode i = none) : Statement i := fun w hw => by rw [h] at hw; cases hw

theorem lda (z : Bool) (e : ElemType) (a : LOpd) : Statement (.lda z e a) :=
  fits_of_le rfl (pack_head (bitOf_lt z) (pack_head (ElemType.code_lt e) (pack_head (LOpd.code_lt a) (Nat.le_refl _)))) (by decide)
theorem sta (z : Bool) (e : ElemType) (a : LOpd) : Statement (.sta z e a) :=
  fits_of_le rfl (pack_head (bitOf_lt z) (pack_head (ElemType.code_lt e) (pack_head (LOpd.code_lt a) (Nat.le_refl _)))) (by decide)
theorem adda (z : Bool) (e : ElemType) (a : LOpd) (b : LOpd) (r : Rm) : Statement (.adda z e a b r) :=
  fits_of_le rfl (pack_head (bitOf_lt z) (pack_head (ElemType.code_lt e) (pack_head (LOpd.code_lt a) (pack_head (LOpd.code_lt b) (pack_head (Rm.code_lt r) (Nat.le_refl _)))))) (by decide)
theorem suba (z : Bool) (e : ElemType) (a : LOpd) (b : LOpd) (r : Rm) : Statement (.suba z e a b r) :=
  fits_of_le rfl (pack_head (bitOf_lt z) (pack_head (ElemType.code_lt e) (pack_head (LOpd.code_lt a) (pack_head (LOpd.code_lt b) (pack_head (Rm.code_lt r) (Nat.le_refl _)))))) (by decide)
theorem mula (z : Bool) (e : ElemType) (a : LOpd) (b : LOpd) (r : Rm) : Statement (.mula z e a b r) :=
  fits_of_le rfl (pack_head (bitOf_lt z) (pack_head (ElemType.code_lt e) (pack_head (LOpd.code_lt a) (pack_head (LOpd.code_lt b) (pack_head (Rm.code_lt r) (Nat.le_refl _)))))) (by decide)
theorem maca (z : Bool) (e : ElemType) (a : LOpd) (b : LOpd) (r : Rm) : Statement (.maca z e a b r) :=
  fits_of_le rfl (pack_head (bitOf_lt z) (pack_head (ElemType.code_lt e) (pack_head (LOpd.code_lt a) (pack_head (LOpd.code_lt b) (pack_head (Rm.code_lt r) (Nat.le_refl _)))))) (by decide)
theorem mina (z : Bool) (e : ElemType) (a : LOpd) (b : LOpd) : Statement (.mina z e a b) :=
  fits_of_le rfl (pack_head (bitOf_lt z) (pack_head (ElemType.code_lt e) (pack_head (LOpd.code_lt a) (pack_head (LOpd.code_lt b) (Nat.le_refl _))))) (by decide)
theorem maxa (z : Bool) (e : ElemType) (a : LOpd) (b : LOpd) : Statement (.maxa z e a b) :=
  fits_of_le rfl (pack_head (bitOf_lt z) (pack_head (ElemType.code_lt e) (pack_head (LOpd.code_lt a) (pack_head (LOpd.code_lt b) (Nat.le_refl _))))) (by decide)
theorem loga (z : Bool) (f : LogOp) (e : ElemType) (a : LOpd) (b : LOpd) : Statement (.loga z f e a b) :=
  fits_of_le rfl (pack_head (bitOf_lt z) (pack_head (LogOp.code_lt f) (pack_head (ElemType.code_lt e) (pack_head (LOpd.code_lt a) (pack_head (LOpd.code_lt b) (Nat.le_refl _)))))) (by decide)
theorem shfa (z : Bool) (f : ShiftOp) (e : ElemType) (a : LOpd) (b : LOpd) : Statement (.shfa z f e a b) :=
  fits_of_le rfl (pack_head (bitOf_lt z) (pack_head (ShiftOp.code_lt f) (pack_head (ElemType.code_lt e) (pack_head (LOpd.code_lt a) (pack_head (LOpd.code_lt b) (Nat.le_refl _)))))) (by decide)
theorem cvta (z : Bool) (s : ElemType) (e : ElemType) (a : LOpd) (r : Rm) : Statement (.cvta z s e a r) :=
  fits_of_le rfl (pack_head (bitOf_lt z) (pack_head (ElemType.code_lt s) (pack_head (ElemType.code_lt e) (pack_head (LOpd.code_lt a) (pack_head (Rm.code_lt r) (Nat.le_refl _)))))) (by decide)
theorem hred (z : Bool) (f : RedOp) (e : ElemType) (a : LOpd) (r : Rm) : Statement (.hred z f e a r) :=
  fits_of_le rfl (pack_head (bitOf_lt z) (pack_head (RedOp.code_lt f) (pack_head (ElemType.code_lt e) (pack_head (LOpd.code_lt a) (pack_head (Rm.code_lt r) (Nat.le_refl _)))))) (by decide)
theorem cmpa (z : Bool) (e : ElemType) (a : LOpd) (b : LOpd) : Statement (.cmpa z e a b) :=
  fits_of_le rfl (pack_head (bitOf_lt z) (pack_head (ElemType.code_lt e) (pack_head (LOpd.code_lt a) (pack_head (LOpd.code_lt b) (Nat.le_refl _))))) (by decide)
theorem sigaRead (z : Bool) (e : ElemType) (a : LOpd) : Statement (.sigaRead z e a) :=
  fits_of_le rfl (pack_head (bitOf_lt z) (pack_head (ElemType.code_lt e) (pack_head (LOpd.code_lt a) (Nat.le_refl _)))) (by decide)
theorem sigaWrite (z : Bool) (e : ElemType) (a : LOpd) (b : LOpd) : Statement (.sigaWrite z e a b) :=
  fits_of_le rfl (pack_head (bitOf_lt z) (pack_head (ElemType.code_lt e) (pack_head (LOpd.code_lt a) (pack_head (LOpd.code_lt b) (Nat.le_refl _))))) (by decide)
theorem sigaMintag (z : Bool) (e : ElemType) (a : LOpd) : Statement (.sigaMintag z e a) :=
  fits_of_le rfl (pack_head (bitOf_lt z) (pack_head (ElemType.code_lt e) (pack_head (LOpd.code_lt a) (Nat.le_refl _)))) (by decide)
theorem immaSet (z : Bool) (e : ElemType) (i : BitVec 7) : Statement (.immaSet z e i) :=
  fits_of_le rfl (pack_head (bitOf_lt z) (pack_head (ElemType.code_lt e) (pack_head i.isLt (Nat.le_refl _)))) (by decide)
theorem immaAddi (z : Bool) (e : ElemType) (i : BitVec 7) : Statement (.immaAddi z e i) :=
  fits_of_le rfl (pack_head (bitOf_lt z) (pack_head (ElemType.code_lt e) (pack_head i.isLt (Nat.le_refl _)))) (by decide)
theorem immaLane0 (z : Bool) (e : ElemType) (i : BitVec 7) : Statement (.immaLane0 z e i) :=
  fits_of_le rfl (pack_head (bitOf_lt z) (pack_head (ElemType.code_lt e) (pack_head i.isLt (Nat.le_refl _)))) (by decide)
theorem pset (z : Bool) (d : BitVec 3) (i : BitVec 19) : Statement (.pset z d i) :=
  fits_of_le rfl (pack_head (bitOf_lt z) (pack_head d.isLt (pack_head i.isLt (Nat.le_refl _)))) (by decide)
theorem pldc (z : Bool) (d : BitVec 3) (i : BitVec 19) : Statement (.pldc z d i) :=
  fits_of_le rfl (pack_head (bitOf_lt z) (pack_head d.isLt (pack_head i.isLt (Nat.le_refl _)))) (by decide)
theorem padd (z : Bool) (d : BitVec 3) (s : BitVec 3) (i : BitVec 19) : Statement (.padd z d s i) :=
  fits_of_le rfl (pack_head (bitOf_lt z) (pack_head d.isLt (pack_head s.isLt (pack_head i.isLt (Nat.le_refl _))))) (by decide)
theorem pstr (z : Bool) (d : BitVec 3) (i : BitVec 19) : Statement (.pstr z d i) :=
  fits_of_le rfl (pack_head (bitOf_lt z) (pack_head d.isLt (pack_head i.isLt (Nat.le_refl _)))) (by decide)
theorem pld (z : Bool) (d : BitVec 3) (s : BitVec 3) (i : BitVec 19) : Statement (.pld z d s i) :=
  fits_of_le rfl (pack_head (bitOf_lt z) (pack_head d.isLt (pack_head s.isLt (pack_head i.isLt (Nat.le_refl _))))) (by decide)
theorem pst (z : Bool) (d : BitVec 3) (s : BitVec 3) (i : BitVec 19) : Statement (.pst z d s i) :=
  fits_of_le rfl (pack_head (bitOf_lt z) (pack_head d.isLt (pack_head s.isLt (pack_head i.isLt (Nat.le_refl _))))) (by decide)
theorem paccGet (z : Bool) (d : BitVec 3) (n : BitVec 3) : Statement (.paccGet z d n) :=
  fits_of_le rfl (pack_head (bitOf_lt z) (pack_head d.isLt (pack_head n.isLt (Nat.le_refl _)))) (by decide)
theorem paccPut (z : Bool) (d : BitVec 3) (n : BitVec 3) : Statement (.paccPut z d n) :=
  fits_of_le rfl (pack_head (bitOf_lt z) (pack_head d.isLt (pack_head n.isLt (Nat.le_refl _)))) (by decide)
theorem paccAdd (z : Bool) (d : BitVec 3) (n : BitVec 3) : Statement (.paccAdd z d n) :=
  fits_of_le rfl (pack_head (bitOf_lt z) (pack_head d.isLt (pack_head n.isLt (Nat.le_refl _)))) (by decide)
theorem paccAddw (z : Bool) (d : BitVec 3) (n : BitVec 3) : Statement (.paccAddw z d n) :=
  fits_of_le rfl (pack_head (bitOf_lt z) (pack_head d.isLt (pack_head n.isLt (Nat.le_refl _)))) (by decide)
theorem pcrdAbs (z : Bool) (d : BitVec 3) (s : BitVec 3) : Statement (.pcrdAbs z d s) :=
  fits_of_le rfl (pack_head (bitOf_lt z) (pack_head d.isLt (pack_head s.isLt (Nat.le_refl _)))) (by decide)
theorem pcrdMyxy (z : Bool) (d : BitVec 3) : Statement (.pcrdMyxy z d) :=
  fits_of_le rfl (pack_head (bitOf_lt z) (pack_head d.isLt (Nat.le_refl _))) (by decide)
theorem pcrdGlob (z : Bool) (d : BitVec 3) (s : BitVec 3) : Statement (.pcrdGlob z d s) :=
  fits_of_le rfl (pack_head (bitOf_lt z) (pack_head d.isLt (pack_head s.isLt (Nat.le_refl _)))) (by decide)
theorem pcrdHome (z : Bool) (d : BitVec 3) (s : BitVec 3) : Statement (.pcrdHome z d s) :=
  fits_of_le rfl (pack_head (bitOf_lt z) (pack_head d.isLt (pack_head s.isLt (Nat.le_refl _)))) (by decide)
theorem br (c : Cond) (o : BitVec 15) : Statement (.br c o) :=
  fits_of_le rfl (pack_head (Cond.code_lt c) (pack_head o.isLt (Nat.le_refl _))) (by decide)
theorem bpc (c : Cond) (a : BitVec 3) (b : BitVec 3) (o : BitVec 15) : Statement (.bpc c a b o) :=
  fits_of_le rfl (pack_head (Cond.code_lt c) (pack_head a.isLt (pack_head b.isLt (pack_head o.isLt (Nat.le_refl _))))) (by decide)
theorem lBsig (h : BitVec 5) (e : ElemType) (o : BitVec 15) : Statement (.lBsig h e o) :=
  fits_of_le rfl (pack_head h.isLt (pack_head (ElemType.code_lt e) (pack_head o.isLt (Nat.le_refl _)))) (by decide)
theorem call (o : BitVec 25) : Statement (.call o) :=
  fits_of_le rfl (pack_head o.isLt (Nat.le_refl _)) (by decide)
theorem lJmp (o : BitVec 25) : Statement (.lJmp o) :=
  fits_of_le rfl (pack_head o.isLt (Nat.le_refl _)) (by decide)
theorem gath (t : BitVec 4) (a : BitVec 3) (b : BitVec 3) (c : BitVec 3) (v : Bool) (k : BitVec 3) (e : ElemType) : Statement (.gath t a b c v k e) :=
  fits_of_le rfl (pack_head t.isLt (pack_head a.isLt (pack_head b.isLt (pack_head c.isLt (pack_head (bitOf_lt v) (pack_head k.isLt (pack_head (ElemType.code_lt e) (Nat.le_refl _)))))))) (by decide)
theorem scat (t : BitVec 4) (a : BitVec 3) (b : BitVec 3) (c : BitVec 3) (x : Bool) (k : BitVec 3) (e : ElemType) : Statement (.scat t a b c x k e) :=
  fits_of_le rfl (pack_head t.isLt (pack_head a.isLt (pack_head b.isLt (pack_head c.isLt (pack_head (bitOf_lt x) (pack_head k.isLt (pack_head (ElemType.code_lt e) (Nat.le_refl _)))))))) (by decide)
theorem scatw (t : BitVec 4) (a : BitVec 3) (b : BitVec 3) (c : BitVec 3) (x : Bool) (k : BitVec 3) (e : ElemType) : Statement (.scatw t a b c x k e) :=
  fits_of_le rfl (pack_head t.isLt (pack_head a.isLt (pack_head b.isLt (pack_head c.isLt (pack_head (bitOf_lt x) (pack_head k.isLt (pack_head (ElemType.code_lt e) (Nat.le_refl _)))))))) (by decide)
theorem dedup (a : BitVec 3) (b : BitVec 3) (c : BitVec 3) (v : Bool) : Statement (.dedup a b c v) :=
  fits_of_le rfl (pack_head a.isLt (pack_head b.isLt (pack_head c.isLt (pack_head (bitOf_lt v) (Nat.le_refl _))))) (by decide)
theorem bucket (a : BitVec 3) (b : BitVec 3) (c : BitVec 3) : Statement (.bucket a b c) :=
  fits_of_le rfl (pack_head a.isLt (pack_head b.isLt (pack_head c.isLt (Nat.le_refl _)))) (by decide)
theorem ucinc (t : BitVec 4) (a : BitVec 3) (b : BitVec 3) : Statement (.ucinc t a b) :=
  fits_of_le rfl (pack_head t.isLt (pack_head a.isLt (pack_head b.isLt (Nat.le_refl _)))) (by decide)
theorem rowadd (z : Bool) (t : BitVec 4) (a : BitVec 3) (b : BitVec 3) (c : BitVec 3) (n : Bool) (r : Rm) (e : ElemType) : Statement (.rowadd z t a b c n r e) :=
  fits_of_le rfl (pack_head (bitOf_lt z) (pack_head t.isLt (pack_head a.isLt (pack_head b.isLt (pack_head c.isLt (pack_head (bitOf_lt n) (pack_head (Rm.code_lt r) (pack_head (ElemType.code_lt e) (Nat.le_refl _))))))))) (by decide)
theorem rowscl (z : Bool) (t : BitVec 4) (a : BitVec 3) (b : BitVec 3) (c : BitVec 3) (r : Rm) (e : ElemType) : Statement (.rowscl z t a b c r e) :=
  fits_of_le rfl (pack_head (bitOf_lt z) (pack_head t.isLt (pack_head a.isLt (pack_head b.isLt (pack_head c.isLt (pack_head (Rm.code_lt r) (pack_head (ElemType.code_lt e) (Nat.le_refl _)))))))) (by decide)
theorem rowcvt (z : Bool) (t : BitVec 4) (a : BitVec 3) (b : BitVec 3) (c : BitVec 3) (r : Rm) (e : ElemType) : Statement (.rowcvt z t a b c r e) :=
  fits_of_le rfl (pack_head (bitOf_lt z) (pack_head t.isLt (pack_head a.isLt (pack_head b.isLt (pack_head c.isLt (pack_head (Rm.code_lt r) (pack_head (ElemType.code_lt e) (Nat.le_refl _)))))))) (by decide)
theorem rowdot (z : Bool) (t : BitVec 4) (a : BitVec 3) (b : BitVec 3) (c : BitVec 3) (r : Rm) (e : ElemType) : Statement (.rowdot z t a b c r e) :=
  fits_of_le rfl (pack_head (bitOf_lt z) (pack_head t.isLt (pack_head a.isLt (pack_head b.isLt (pack_head c.isLt (pack_head (Rm.code_lt r) (pack_head (ElemType.code_lt e) (Nat.le_refl _)))))))) (by decide)
theorem lAmo (o : Aop) (s : Scope) (e : ElemType) (a : BitVec 3) (q : Bool) (l : Bool) : Statement (.lAmo o s e a q l) :=
  fits_of_le rfl (pack_head (Aop.code_lt o) (pack_head (Scope.code_lt s) (pack_head (ElemType.code_lt e) (pack_head a.isLt (pack_head (bitOf_lt q) (pack_head (bitOf_lt l) (Nat.le_refl _))))))) (by decide)
theorem amov (o : Aop) (s : Scope) (e : ElemType) (a : BitVec 3) (q : Bool) (l : Bool) : Statement (.amov o s e a q l) :=
  fits_of_le rfl (pack_head (Aop.code_lt o) (pack_head (Scope.code_lt s) (pack_head (ElemType.code_lt e) (pack_head a.isLt (pack_head (bitOf_lt q) (pack_head (bitOf_lt l) (Nat.le_refl _))))))) (by decide)
theorem lFence (f : FenceKind) (s : Scope) : Statement (.lFence f s) :=
  fits_of_le rfl (pack_head (FenceKind.code_lt f) (pack_head (Scope.code_lt s) (Nat.le_refl _))) (by decide)
theorem lBar (f : BarOp) (l : BitVec 4) : Statement (.lBar f l) :=
  fits_of_le rfl (pack_head (BarOp.code_lt f) (pack_head l.isLt (Nat.le_refl _))) (by decide)
theorem lMark (m : BitVec 8) : Statement (.lMark m) :=
  fits_of_le rfl (pack_head m.isLt (Nat.le_refl _)) (by decide)
theorem tepoch (t : BitVec 4) : Statement (.tepoch t) :=
  fits_of_le rfl (pack_head t.isLt (Nat.le_refl _)) (by decide)
theorem send (c : BitVec 6) (a : BitVec 3) (b : BitVec 3) (n : BitVec 5) (l : Bool) : Statement (.send c a b n l) :=
  fits_of_le rfl (pack_head c.isLt (pack_head a.isLt (pack_head b.isLt (pack_head n.isLt (pack_head (bitOf_lt l) (Nat.le_refl _)))))) (by decide)
theorem senda (c : BitVec 6) (a : BitVec 3) (b : BitVec 3) (l : Bool) : Statement (.senda c a b l) :=
  fits_of_le rfl (pack_head c.isLt (pack_head a.isLt (pack_head b.isLt (pack_head (bitOf_lt l) (Nat.le_refl _))))) (by decide)
theorem reply (b : BitVec 3) (n : BitVec 5) (l : Bool) : Statement (.reply b n l) :=
  fits_of_le rfl (pack_head b.isLt (pack_head n.isLt (pack_head (bitOf_lt l) (Nat.le_refl _)))) (by decide)
theorem put (k : Bool) (c : BitVec 3) (a : BitVec 3) (b : BitVec 3) (n : BitVec 5) (x : BitVec 4) (l : Bool) : Statement (.put k c a b n x l) :=
  fits_of_le rfl (pack_head (bitOf_lt k) (pack_head c.isLt (pack_head a.isLt (pack_head b.isLt (pack_head n.isLt (pack_head x.isLt (pack_head (bitOf_lt l) (Nat.le_refl _)))))))) (by decide)
theorem hctlMask (c : BitVec 6) : Statement (.hctlMask c) :=
  fits_of_le rfl (pack_head c.isLt (Nat.le_refl _)) (by decide)
theorem hctlUnmask (c : BitVec 6) : Statement (.hctlUnmask c) :=
  fits_of_le rfl (pack_head c.isLt (Nat.le_refl _)) (by decide)
theorem hctlPrio (p : BitVec 3) (c : BitVec 6) : Statement (.hctlPrio p c) :=
  fits_of_le rfl (pack_head p.isLt (pack_head c.isLt (Nat.le_refl _))) (by decide)
theorem hctlBind (n : BitVec 3) (c : BitVec 6) : Statement (.hctlBind n c) :=
  fits_of_le rfl (pack_head n.isLt (pack_head c.isLt (Nat.le_refl _))) (by decide)
theorem waitc (k : BitVec 3) (n : BitVec 20) : Statement (.waitc k n) :=
  fits_of_le rfl (pack_head k.isLt (pack_head n.isLt (Nat.le_refl _))) (by decide)
theorem lWaitp (s : BitVec 3) : Statement (.lWaitp s) :=
  fits_of_le rfl (pack_head s.isLt (Nat.le_refl _)) (by decide)
theorem waitt (n : BitVec 3) : Statement (.waitt n) :=
  fits_of_le rfl (pack_head n.isLt (Nat.le_refl _)) (by decide)
theorem copy (a : BitVec 3) (k : BitVec 3) (n : Bool) (s : Bool) (l : Bool) (q : Bool) (c : Scope) : Statement (.copy a k n s l q c) :=
  fits_of_le rfl (pack_head a.isLt (pack_head k.isLt (pack_head (bitOf_lt n) (pack_head (bitOf_lt s) (pack_head (bitOf_lt l) (pack_head (bitOf_lt q) (pack_head (Scope.code_lt c) (Nat.le_refl _)))))))) (by decide)
theorem spawn (b : BitVec 3) (o : BitVec 22) : Statement (.spawn b o) :=
  fits_of_le rfl (pack_head b.isLt (pack_head o.isLt (Nat.le_refl _))) (by decide)
theorem join (b : BitVec 3) (o : BitVec 22) : Statement (.join b o) :=
  fits_of_le rfl (pack_head b.isLt (pack_head o.isLt (Nat.le_refl _))) (by decide)
theorem wlistPush (a : BitVec 3) : Statement (.wlistPush a) :=
  fits_of_le rfl (pack_head a.isLt (Nat.le_refl _)) (by decide)
theorem wlistPop (a : BitVec 3) : Statement (.wlistPop a) :=
  fits_of_le rfl (pack_head a.isLt (Nat.le_refl _)) (by decide)
theorem lSysTrap (c : BitVec 20) : Statement (.lSysTrap c) :=
  fits_of_le rfl (pack_head c.isLt (Nat.le_refl _)) (by decide)
theorem lSysCrr (n : BitVec 3) (r : BitVec 10) : Statement (.lSysCrr n r) :=
  fits_of_le rfl (pack_head n.isLt (pack_head r.isLt (Nat.le_refl _))) (by decide)
theorem lSysCrw (n : BitVec 3) (r : BitVec 10) : Statement (.lSysCrw n r) :=
  fits_of_le rfl (pack_head n.isLt (pack_head r.isLt (Nat.le_refl _))) (by decide)
theorem lSysTime (s : Bool) (n : BitVec 3) : Statement (.lSysTime s n) :=
  fits_of_le rfl (pack_head (bitOf_lt s) (pack_head n.isLt (Nat.le_refl _))) (by decide)
theorem sysYield (n : BitVec 20) : Statement (.sysYield n) :=
  fits_of_le rfl (pack_head n.isLt (Nat.le_refl _)) (by decide)
theorem add (z : Bool) (w : BitVec 3) (d : BitVec 5) (a : BitVec 5) (b : BitVec 5) : Statement (.add z w d a b) :=
  fits_of_le rfl (pack_head (bitOf_lt z) (pack_head w.isLt (pack_head d.isLt (pack_head a.isLt (pack_head b.isLt (Nat.le_refl _)))))) (by decide)
theorem sub (z : Bool) (w : BitVec 3) (d : BitVec 5) (a : BitVec 5) (b : BitVec 5) : Statement (.sub z w d a b) :=
  fits_of_le rfl (pack_head (bitOf_lt z) (pack_head w.isLt (pack_head d.isLt (pack_head a.isLt (pack_head b.isLt (Nat.le_refl _)))))) (by decide)
theorem and (z : Bool) (w : BitVec 3) (d : BitVec 5) (a : BitVec 5) (b : BitVec 5) : Statement (.and z w d a b) :=
  fits_of_le rfl (pack_head (bitOf_lt z) (pack_head w.isLt (pack_head d.isLt (pack_head a.isLt (pack_head b.isLt (Nat.le_refl _)))))) (by decide)
theorem or (z : Bool) (w : BitVec 3) (d : BitVec 5) (a : BitVec 5) (b : BitVec 5) : Statement (.or z w d a b) :=
  fits_of_le rfl (pack_head (bitOf_lt z) (pack_head w.isLt (pack_head d.isLt (pack_head a.isLt (pack_head b.isLt (Nat.le_refl _)))))) (by decide)
theorem xor (z : Bool) (w : BitVec 3) (d : BitVec 5) (a : BitVec 5) (b : BitVec 5) : Statement (.xor z w d a b) :=
  fits_of_le rfl (pack_head (bitOf_lt z) (pack_head w.isLt (pack_head d.isLt (pack_head a.isLt (pack_head b.isLt (Nat.le_refl _)))))) (by decide)
theorem shl (z : Bool) (w : BitVec 3) (d : BitVec 5) (a : BitVec 5) (b : BitVec 5) : Statement (.shl z w d a b) :=
  fits_of_le rfl (pack_head (bitOf_lt z) (pack_head w.isLt (pack_head d.isLt (pack_head a.isLt (pack_head b.isLt (Nat.le_refl _)))))) (by decide)
theorem shr (z : Bool) (w : BitVec 3) (d : BitVec 5) (a : BitVec 5) (b : BitVec 5) : Statement (.shr z w d a b) :=
  fits_of_le rfl (pack_head (bitOf_lt z) (pack_head w.isLt (pack_head d.isLt (pack_head a.isLt (pack_head b.isLt (Nat.le_refl _)))))) (by decide)
theorem sra (z : Bool) (w : BitVec 3) (d : BitVec 5) (a : BitVec 5) (b : BitVec 5) : Statement (.sra z w d a b) :=
  fits_of_le rfl (pack_head (bitOf_lt z) (pack_head w.isLt (pack_head d.isLt (pack_head a.isLt (pack_head b.isLt (Nat.le_refl _)))))) (by decide)
theorem mul (z : Bool) (w : BitVec 3) (d : BitVec 5) (a : BitVec 5) (b : BitVec 5) : Statement (.mul z w d a b) :=
  fits_of_le rfl (pack_head (bitOf_lt z) (pack_head w.isLt (pack_head d.isLt (pack_head a.isLt (pack_head b.isLt (Nat.le_refl _)))))) (by decide)
theorem mulh (z : Bool) (w : BitVec 3) (d : BitVec 5) (a : BitVec 5) (b : BitVec 5) : Statement (.mulh z w d a b) :=
  fits_of_le rfl (pack_head (bitOf_lt z) (pack_head w.isLt (pack_head d.isLt (pack_head a.isLt (pack_head b.isLt (Nat.le_refl _)))))) (by decide)
theorem div (z : Bool) (w : BitVec 3) (d : BitVec 5) (a : BitVec 5) (b : BitVec 5) : Statement (.div z w d a b) :=
  fits_of_le rfl (pack_head (bitOf_lt z) (pack_head w.isLt (pack_head d.isLt (pack_head a.isLt (pack_head b.isLt (Nat.le_refl _)))))) (by decide)
theorem rem (z : Bool) (w : BitVec 3) (d : BitVec 5) (a : BitVec 5) (b : BitVec 5) : Statement (.rem z w d a b) :=
  fits_of_le rfl (pack_head (bitOf_lt z) (pack_head w.isLt (pack_head d.isLt (pack_head a.isLt (pack_head b.isLt (Nat.le_refl _)))))) (by decide)
theorem slt (z : Bool) (w : BitVec 3) (d : BitVec 5) (a : BitVec 5) (b : BitVec 5) : Statement (.slt z w d a b) :=
  fits_of_le rfl (pack_head (bitOf_lt z) (pack_head w.isLt (pack_head d.isLt (pack_head a.isLt (pack_head b.isLt (Nat.le_refl _)))))) (by decide)
theorem sltu (z : Bool) (w : BitVec 3) (d : BitVec 5) (a : BitVec 5) (b : BitVec 5) : Statement (.sltu z w d a b) :=
  fits_of_le rfl (pack_head (bitOf_lt z) (pack_head w.isLt (pack_head d.isLt (pack_head a.isLt (pack_head b.isLt (Nat.le_refl _)))))) (by decide)
theorem min (z : Bool) (w : BitVec 3) (d : BitVec 5) (a : BitVec 5) (b : BitVec 5) : Statement (.min z w d a b) :=
  fits_of_le rfl (pack_head (bitOf_lt z) (pack_head w.isLt (pack_head d.isLt (pack_head a.isLt (pack_head b.isLt (Nat.le_refl _)))))) (by decide)
theorem max (z : Bool) (w : BitVec 3) (d : BitVec 5) (a : BitVec 5) (b : BitVec 5) : Statement (.max z w d a b) :=
  fits_of_le rfl (pack_head (bitOf_lt z) (pack_head w.isLt (pack_head d.isLt (pack_head a.isLt (pack_head b.isLt (Nat.le_refl _)))))) (by decide)
theorem addi (z : Bool) (w : BitVec 3) (d : BitVec 5) (a : BitVec 5) (i : BitVec 12) : Statement (.addi z w d a i) :=
  fits_of_le rfl (pack_head (bitOf_lt z) (pack_head w.isLt (pack_head d.isLt (pack_head a.isLt (pack_head i.isLt (Nat.le_refl _)))))) (by decide)
theorem andi (z : Bool) (w : BitVec 3) (d : BitVec 5) (a : BitVec 5) (i : BitVec 12) : Statement (.andi z w d a i) :=
  fits_of_le rfl (pack_head (bitOf_lt z) (pack_head w.isLt (pack_head d.isLt (pack_head a.isLt (pack_head i.isLt (Nat.le_refl _)))))) (by decide)
theorem ori (z : Bool) (w : BitVec 3) (d : BitVec 5) (a : BitVec 5) (i : BitVec 12) : Statement (.ori z w d a i) :=
  fits_of_le rfl (pack_head (bitOf_lt z) (pack_head w.isLt (pack_head d.isLt (pack_head a.isLt (pack_head i.isLt (Nat.le_refl _)))))) (by decide)
theorem xori (z : Bool) (w : BitVec 3) (d : BitVec 5) (a : BitVec 5) (i : BitVec 12) : Statement (.xori z w d a i) :=
  fits_of_le rfl (pack_head (bitOf_lt z) (pack_head w.isLt (pack_head d.isLt (pack_head a.isLt (pack_head i.isLt (Nat.le_refl _)))))) (by decide)
theorem shli (z : Bool) (w : BitVec 3) (d : BitVec 5) (a : BitVec 5) (c : BitVec 6) : Statement (.shli z w d a c) :=
  fits_of_le rfl (pack_head (bitOf_lt z) (pack_head w.isLt (pack_head d.isLt (pack_head a.isLt (pack_head c.isLt (Nat.le_refl _)))))) (by decide)
theorem shri (z : Bool) (w : BitVec 3) (d : BitVec 5) (a : BitVec 5) (c : BitVec 6) : Statement (.shri z w d a c) :=
  fits_of_le rfl (pack_head (bitOf_lt z) (pack_head w.isLt (pack_head d.isLt (pack_head a.isLt (pack_head c.isLt (Nat.le_refl _)))))) (by decide)
theorem srai (z : Bool) (w : BitVec 3) (d : BitVec 5) (a : BitVec 5) (c : BitVec 6) : Statement (.srai z w d a c) :=
  fits_of_le rfl (pack_head (bitOf_lt z) (pack_head w.isLt (pack_head d.isLt (pack_head a.isLt (pack_head c.isLt (Nat.le_refl _)))))) (by decide)
theorem slti (z : Bool) (w : BitVec 3) (d : BitVec 5) (a : BitVec 5) (i : BitVec 12) : Statement (.slti z w d a i) :=
  fits_of_le rfl (pack_head (bitOf_lt z) (pack_head w.isLt (pack_head d.isLt (pack_head a.isLt (pack_head i.isLt (Nat.le_refl _)))))) (by decide)
theorem lui (z : Bool) (w : BitVec 3) (d : BitVec 5) (i : BitVec 17) : Statement (.lui z w d i) :=
  fits_of_le rfl (pack_head (bitOf_lt z) (pack_head w.isLt (pack_head d.isLt (pack_head i.isLt (Nat.le_refl _))))) (by decide)
theorem ldc (z : Bool) (w : BitVec 3) (d : BitVec 5) (i : BitVec 17) : Statement (.ldc z w d i) :=
  fits_of_le rfl (pack_head (bitOf_lt z) (pack_head w.isLt (pack_head d.isLt (pack_head i.isLt (Nat.le_refl _))))) (by decide)
theorem fadd (z : Bool) (w : BitVec 3) (d : BitVec 5) (a : BitVec 5) (b : BitVec 5) (r : Rm) : Statement (.fadd z w d a b r) :=
  fits_of_le rfl (pack_head (bitOf_lt z) (pack_head w.isLt (pack_head d.isLt (pack_head a.isLt (pack_head b.isLt (pack_head (Rm.code_lt r) (Nat.le_refl _))))))) (by decide)
theorem fsub (z : Bool) (w : BitVec 3) (d : BitVec 5) (a : BitVec 5) (b : BitVec 5) (r : Rm) : Statement (.fsub z w d a b r) :=
  fits_of_le rfl (pack_head (bitOf_lt z) (pack_head w.isLt (pack_head d.isLt (pack_head a.isLt (pack_head b.isLt (pack_head (Rm.code_lt r) (Nat.le_refl _))))))) (by decide)
theorem fmul (z : Bool) (w : BitVec 3) (d : BitVec 5) (a : BitVec 5) (b : BitVec 5) (r : Rm) : Statement (.fmul z w d a b r) :=
  fits_of_le rfl (pack_head (bitOf_lt z) (pack_head w.isLt (pack_head d.isLt (pack_head a.isLt (pack_head b.isLt (pack_head (Rm.code_lt r) (Nat.le_refl _))))))) (by decide)
theorem fdiv (z : Bool) (w : BitVec 3) (d : BitVec 5) (a : BitVec 5) (b : BitVec 5) (r : Rm) : Statement (.fdiv z w d a b r) :=
  fits_of_le rfl (pack_head (bitOf_lt z) (pack_head w.isLt (pack_head d.isLt (pack_head a.isLt (pack_head b.isLt (pack_head (Rm.code_lt r) (Nat.le_refl _))))))) (by decide)
theorem fsqrt (z : Bool) (w : BitVec 3) (d : BitVec 5) (a : BitVec 5) (r : Rm) : Statement (.fsqrt z w d a r) :=
  fits_of_le rfl (pack_head (bitOf_lt z) (pack_head w.isLt (pack_head d.isLt (pack_head a.isLt (pack_head (Rm.code_lt r) (Nat.le_refl _)))))) (by decide)
theorem fmin (z : Bool) (w : BitVec 3) (d : BitVec 5) (a : BitVec 5) (b : BitVec 5) : Statement (.fmin z w d a b) :=
  fits_of_le rfl (pack_head (bitOf_lt z) (pack_head w.isLt (pack_head d.isLt (pack_head a.isLt (pack_head b.isLt (Nat.le_refl _)))))) (by decide)
theorem fmax (z : Bool) (w : BitVec 3) (d : BitVec 5) (a : BitVec 5) (b : BitVec 5) : Statement (.fmax z w d a b) :=
  fits_of_le rfl (pack_head (bitOf_lt z) (pack_head w.isLt (pack_head d.isLt (pack_head a.isLt (pack_head b.isLt (Nat.le_refl _)))))) (by decide)
theorem fabs (z : Bool) (w : BitVec 3) (d : BitVec 5) (a : BitVec 5) : Statement (.fabs z w d a) :=
  fits_of_le rfl (pack_head (bitOf_lt z) (pack_head w.isLt (pack_head d.isLt (pack_head a.isLt (Nat.le_refl _))))) (by decide)
theorem fneg (z : Bool) (w : BitVec 3) (d : BitVec 5) (a : BitVec 5) : Statement (.fneg z w d a) :=
  fits_of_le rfl (pack_head (bitOf_lt z) (pack_head w.isLt (pack_head d.isLt (pack_head a.isLt (Nat.le_refl _))))) (by decide)
theorem fcvtif (z : Bool) (w : BitVec 3) (d : BitVec 5) (a : BitVec 5) (r : Rm) : Statement (.fcvtif z w d a r) :=
  fits_of_le rfl (pack_head (bitOf_lt z) (pack_head w.isLt (pack_head d.isLt (pack_head a.isLt (pack_head (Rm.code_lt r) (Nat.le_refl _)))))) (by decide)
theorem fcvtfi (z : Bool) (w : BitVec 3) (d : BitVec 5) (a : BitVec 5) (r : Rm) : Statement (.fcvtfi z w d a r) :=
  fits_of_le rfl (pack_head (bitOf_lt z) (pack_head w.isLt (pack_head d.isLt (pack_head a.isLt (pack_head (Rm.code_lt r) (Nat.le_refl _)))))) (by decide)
theorem fcvtn (z : Bool) (w : BitVec 3) (d : BitVec 5) (a : BitVec 5) (e : ElemType) (r : Rm) : Statement (.fcvtn z w d a e r) :=
  fits_of_le rfl (pack_head (bitOf_lt z) (pack_head w.isLt (pack_head d.isLt (pack_head a.isLt (pack_head (ElemType.code_lt e) (pack_head (Rm.code_lt r) (Nat.le_refl _))))))) (by decide)
theorem fcvtw (z : Bool) (w : BitVec 3) (d : BitVec 5) (a : BitVec 5) (e : ElemType) : Statement (.fcvtw z w d a e) :=
  fits_of_le rfl (pack_head (bitOf_lt z) (pack_head w.isLt (pack_head d.isLt (pack_head a.isLt (pack_head (ElemType.code_lt e) (Nat.le_refl _)))))) (by decide)
theorem fcmp (z : Bool) (w : BitVec 3) (d : BitVec 5) (a : BitVec 5) (b : BitVec 5) : Statement (.fcmp z w d a b) :=
  fits_of_le rfl (pack_head (bitOf_lt z) (pack_head w.isLt (pack_head d.isLt (pack_head a.isLt (pack_head b.isLt (Nat.le_refl _)))))) (by decide)
theorem fsigr (z : Bool) (w : BitVec 3) (d : BitVec 5) (a : BitVec 5) : Statement (.fsigr z w d a) :=
  fits_of_le rfl (pack_head (bitOf_lt z) (pack_head w.isLt (pack_head d.isLt (pack_head a.isLt (Nat.le_refl _))))) (by decide)
theorem fsigw (z : Bool) (w : BitVec 3) (d : BitVec 5) (a : BitVec 5) (b : BitVec 5) : Statement (.fsigw z w d a b) :=
  fits_of_le rfl (pack_head (bitOf_lt z) (pack_head w.isLt (pack_head d.isLt (pack_head a.isLt (pack_head b.isLt (Nat.le_refl _)))))) (by decide)
theorem fma (z : Bool) (w : BitVec 3) (d : BitVec 5) (a : BitVec 5) (b : BitVec 5) (c : BitVec 5) (r : Rm) : Statement (.fma z w d a b c r) :=
  fits_of_le rfl (pack_head (bitOf_lt z) (pack_head w.isLt (pack_head d.isLt (pack_head a.isLt (pack_head b.isLt (pack_head c.isLt (pack_head (Rm.code_lt r) (Nat.le_refl _)))))))) (by decide)
theorem fms (z : Bool) (w : BitVec 3) (d : BitVec 5) (a : BitVec 5) (b : BitVec 5) (c : BitVec 5) (r : Rm) : Statement (.fms z w d a b c r) :=
  fits_of_le rfl (pack_head (bitOf_lt z) (pack_head w.isLt (pack_head d.isLt (pack_head a.isLt (pack_head b.isLt (pack_head c.isLt (pack_head (Rm.code_lt r) (Nat.le_refl _)))))))) (by decide)
theorem ldb (z : Bool) (w : BitVec 3) (d : BitVec 5) (a : BitVec 5) (i : BitVec 12) : Statement (.ldb z w d a i) :=
  fits_of_le rfl (pack_head (bitOf_lt z) (pack_head w.isLt (pack_head d.isLt (pack_head a.isLt (pack_head i.isLt (Nat.le_refl _)))))) (by decide)
theorem ldh (z : Bool) (w : BitVec 3) (d : BitVec 5) (a : BitVec 5) (i : BitVec 12) : Statement (.ldh z w d a i) :=
  fits_of_le rfl (pack_head (bitOf_lt z) (pack_head w.isLt (pack_head d.isLt (pack_head a.isLt (pack_head i.isLt (Nat.le_refl _)))))) (by decide)
theorem ldw (z : Bool) (w : BitVec 3) (d : BitVec 5) (a : BitVec 5) (i : BitVec 12) : Statement (.ldw z w d a i) :=
  fits_of_le rfl (pack_head (bitOf_lt z) (pack_head w.isLt (pack_head d.isLt (pack_head a.isLt (pack_head i.isLt (Nat.le_refl _)))))) (by decide)
theorem ldd (z : Bool) (w : BitVec 3) (d : BitVec 5) (a : BitVec 5) (i : BitVec 12) : Statement (.ldd z w d a i) :=
  fits_of_le rfl (pack_head (bitOf_lt z) (pack_head w.isLt (pack_head d.isLt (pack_head a.isLt (pack_head i.isLt (Nat.le_refl _)))))) (by decide)
theorem ldwt (z : Bool) (w : BitVec 3) (d : BitVec 5) (a : BitVec 5) (i : BitVec 12) : Statement (.ldwt z w d a i) :=
  fits_of_le rfl (pack_head (bitOf_lt z) (pack_head w.isLt (pack_head d.isLt (pack_head a.isLt (pack_head i.isLt (Nat.le_refl _)))))) (by decide)
theorem stb (w : BitVec 3) (b : BitVec 5) (a : BitVec 5) (i : BitVec 12) : Statement (.stb w b a i) :=
  fits_of_le rfl (pack_head w.isLt (pack_head b.isLt (pack_head a.isLt (pack_head i.isLt (Nat.le_refl _))))) (by decide)
theorem sth (w : BitVec 3) (b : BitVec 5) (a : BitVec 5) (i : BitVec 12) : Statement (.sth w b a i) :=
  fits_of_le rfl (pack_head w.isLt (pack_head b.isLt (pack_head a.isLt (pack_head i.isLt (Nat.le_refl _))))) (by decide)
theorem stw (w : BitVec 3) (b : BitVec 5) (a : BitVec 5) (i : BitVec 12) : Statement (.stw w b a i) :=
  fits_of_le rfl (pack_head w.isLt (pack_head b.isLt (pack_head a.isLt (pack_head i.isLt (Nat.le_refl _))))) (by decide)
theorem std (w : BitVec 3) (b : BitVec 5) (a : BitVec 5) (i : BitVec 12) : Statement (.std w b a i) :=
  fits_of_le rfl (pack_head w.isLt (pack_head b.isLt (pack_head a.isLt (pack_head i.isLt (Nat.le_refl _))))) (by decide)
theorem stwt (w : BitVec 3) (b : BitVec 5) (a : BitVec 5) (i : BitVec 12) : Statement (.stwt w b a i) :=
  fits_of_le rfl (pack_head w.isLt (pack_head b.isLt (pack_head a.isLt (pack_head i.isLt (Nat.le_refl _))))) (by decide)
theorem sAmo (w : BitVec 3) (d : BitVec 5) (a : BitVec 5) (b : BitVec 5) (o : Aop) (s : Scope) (x : Bool) : Statement (.sAmo w d a b o s x) :=
  fits_of_le rfl (pack_head w.isLt (pack_head d.isLt (pack_head a.isLt (pack_head b.isLt (pack_head (Aop.code_lt o) (pack_head (Scope.code_lt s) (pack_head (bitOf_lt x) (Nat.le_refl _)))))))) (by decide)
theorem beq (w : BitVec 3) (a : BitVec 5) (b : BitVec 5) (o : BitVec 12) : Statement (.beq w a b o) :=
  fits_of_le rfl (pack_head w.isLt (pack_head a.isLt (pack_head b.isLt (pack_head o.isLt (Nat.le_refl _))))) (by decide)
theorem bne (w : BitVec 3) (a : BitVec 5) (b : BitVec 5) (o : BitVec 12) : Statement (.bne w a b o) :=
  fits_of_le rfl (pack_head w.isLt (pack_head a.isLt (pack_head b.isLt (pack_head o.isLt (Nat.le_refl _))))) (by decide)
theorem blt (w : BitVec 3) (a : BitVec 5) (b : BitVec 5) (o : BitVec 12) : Statement (.blt w a b o) :=
  fits_of_le rfl (pack_head w.isLt (pack_head a.isLt (pack_head b.isLt (pack_head o.isLt (Nat.le_refl _))))) (by decide)
theorem bge (w : BitVec 3) (a : BitVec 5) (b : BitVec 5) (o : BitVec 12) : Statement (.bge w a b o) :=
  fits_of_le rfl (pack_head w.isLt (pack_head a.isLt (pack_head b.isLt (pack_head o.isLt (Nat.le_refl _))))) (by decide)
theorem bltu (w : BitVec 3) (a : BitVec 5) (b : BitVec 5) (o : BitVec 12) : Statement (.bltu w a b o) :=
  fits_of_le rfl (pack_head w.isLt (pack_head a.isLt (pack_head b.isLt (pack_head o.isLt (Nat.le_refl _))))) (by decide)
theorem bgeu (w : BitVec 3) (a : BitVec 5) (b : BitVec 5) (o : BitVec 12) : Statement (.bgeu w a b o) :=
  fits_of_le rfl (pack_head w.isLt (pack_head a.isLt (pack_head b.isLt (pack_head o.isLt (Nat.le_refl _))))) (by decide)
theorem sBsig (w : BitVec 3) (a : BitVec 5) (h : BitVec 5) (o : BitVec 12) : Statement (.sBsig w a h o) :=
  fits_of_le rfl (pack_head w.isLt (pack_head a.isLt (pack_head h.isLt (pack_head o.isLt (Nat.le_refl _))))) (by decide)
theorem jal (w : BitVec 3) (d : BitVec 5) (o : BitVec 17) : Statement (.jal w d o) :=
  fits_of_le rfl (pack_head w.isLt (pack_head d.isLt (pack_head o.isLt (Nat.le_refl _)))) (by decide)
theorem jalr (w : BitVec 3) (d : BitVec 5) (a : BitVec 5) (i : BitVec 12) : Statement (.jalr w d a i) :=
  fits_of_le rfl (pack_head w.isLt (pack_head d.isLt (pack_head a.isLt (pack_head i.isLt (Nat.le_refl _))))) (by decide)
theorem ewr (w : BitVec 3) (a : BitVec 5) (g : Eng) (r : BitVec 10) : Statement (.ewr w a g r) :=
  fits_of_le rfl (pack_head w.isLt (pack_head a.isLt (pack_head (Eng.code_lt g) (pack_head r.isLt (Nat.le_refl _))))) (by decide)
theorem erd (w : BitVec 3) (d : BitVec 5) (g : Eng) (r : BitVec 10) : Statement (.erd w d g r) :=
  fits_of_le rfl (pack_head w.isLt (pack_head d.isLt (pack_head (Eng.code_lt g) (pack_head r.isLt (Nat.le_refl _))))) (by decide)
theorem engo (w : BitVec 3) (g : Eng) : Statement (.engo w g) :=
  fits_of_le rfl (pack_head w.isLt (pack_head (Eng.code_lt g) (Nat.le_refl _))) (by decide)
theorem fpush (w : BitVec 3) (a : BitVec 5) : Statement (.fpush w a) :=
  fits_of_le rfl (pack_head w.isLt (pack_head a.isLt (Nat.le_refl _))) (by decide)
theorem shape (w : BitVec 3) (d : BitVec 5) (a : BitVec 5) : Statement (.shape w d a) :=
  fits_of_le rfl (pack_head w.isLt (pack_head d.isLt (pack_head a.isLt (Nat.le_refl _)))) (by decide)
theorem sTsend (w : BitVec 3) (q : BitVec 3) (n : BitVec 8) : Statement (.sTsend w q n) :=
  fits_of_le rfl (pack_head w.isLt (pack_head q.isLt (pack_head n.isLt (Nat.le_refl _)))) (by decide)
theorem sTwait (w : BitVec 3) (q : BitVec 3) (n : BitVec 8) : Statement (.sTwait w q n) :=
  fits_of_le rfl (pack_head w.isLt (pack_head q.isLt (pack_head n.isLt (Nat.le_refl _)))) (by decide)
theorem sWaitp (w : BitVec 3) (p : BitVec 3) : Statement (.sWaitp w p) :=
  fits_of_le rfl (pack_head w.isLt (pack_head p.isLt (Nat.le_refl _))) (by decide)
theorem sMark (w : BitVec 3) (m : BitVec 8) : Statement (.sMark w m) :=
  fits_of_le rfl (pack_head w.isLt (pack_head m.isLt (Nat.le_refl _))) (by decide)
theorem sBar (w : BitVec 3) (o : BarOp) (l : BitVec 4) : Statement (.sBar w o l) :=
  fits_of_le rfl (pack_head w.isLt (pack_head (BarOp.code_lt o) (pack_head l.isLt (Nat.le_refl _)))) (by decide)
theorem sFence (w : BitVec 3) (s : Scope) (k : FenceKind) : Statement (.sFence w s k) :=
  fits_of_le rfl (pack_head w.isLt (pack_head (Scope.code_lt s) (pack_head (FenceKind.code_lt k) (Nat.le_refl _)))) (by decide)
theorem sSysTrap (w : BitVec 3) : Statement (.sSysTrap w) :=
  fits_of_le rfl (pack_head w.isLt (Nat.le_refl _)) (by decide)
theorem sSysTret (w : BitVec 3) : Statement (.sSysTret w) :=
  fits_of_le rfl (pack_head w.isLt (Nat.le_refl _)) (by decide)
theorem sSysCrr (w : BitVec 3) (d : BitVec 5) (r : BitVec 10) : Statement (.sSysCrr w d r) :=
  fits_of_le rfl (pack_head w.isLt (pack_head d.isLt (pack_head r.isLt (Nat.le_refl _)))) (by decide)
theorem sSysCrw (w : BitVec 3) (d : BitVec 5) (r : BitVec 10) : Statement (.sSysCrw w d r) :=
  fits_of_le rfl (pack_head w.isLt (pack_head d.isLt (pack_head r.isLt (Nat.le_refl _)))) (by decide)
theorem sysTlbinv (w : BitVec 3) (a : BitVec 5) (b : BitVec 5) : Statement (.sysTlbinv w a b) :=
  fits_of_le rfl (pack_head w.isLt (pack_head a.isLt (pack_head b.isLt (Nat.le_refl _)))) (by decide)
theorem sysHalt (w : BitVec 3) : Statement (.sysHalt w) :=
  fits_of_le rfl (pack_head w.isLt (Nat.le_refl _)) (by decide)
theorem sysWfe (w : BitVec 3) : Statement (.sysWfe w) :=
  fits_of_le rfl (pack_head w.isLt (Nat.le_refl _)) (by decide)
theorem sSysTime (w : BitVec 3) (d : BitVec 5) : Statement (.sSysTime w d) :=
  fits_of_le rfl (pack_head w.isLt (pack_head d.isLt (Nat.le_refl _))) (by decide)
theorem sysLnpop (w : BitVec 3) (d : BitVec 5) (a : BitVec 5) : Statement (.sysLnpop w d a) :=
  fits_of_le rfl (pack_head w.isLt (pack_head d.isLt (pack_head a.isLt (Nat.le_refl _)))) (by decide)
theorem sysLnret (w : BitVec 3) (a : BitVec 5) : Statement (.sysLnret w a) :=
  fits_of_le rfl (pack_head w.isLt (pack_head a.isLt (Nat.le_refl _))) (by decide)
theorem sysNstart (w : BitVec 3) (a : BitVec 5) (b : BitVec 5) : Statement (.sysNstart w a b) :=
  fits_of_le rfl (pack_head w.isLt (pack_head a.isLt (pack_head b.isLt (Nat.le_refl _)))) (by decide)
theorem sysNstop (w : BitVec 3) (a : BitVec 5) : Statement (.sysNstop w a) :=
  fits_of_le rfl (pack_head w.isLt (pack_head a.isLt (Nat.le_refl _))) (by decide)
theorem sysCmapw (w : BitVec 3) (a : BitVec 5) (b : BitVec 5) : Statement (.sysCmapw w a b) :=
  fits_of_le rfl (pack_head w.isLt (pack_head a.isLt (pack_head b.isLt (Nat.le_refl _)))) (by decide)
theorem sysSmapw (w : BitVec 3) (a : BitVec 5) (b : BitVec 5) : Statement (.sysSmapw w a b) :=
  fits_of_le rfl (pack_head w.isLt (pack_head a.isLt (pack_head b.isLt (Nat.le_refl _)))) (by decide)
theorem sysMapfence (w : BitVec 3) : Statement (.sysMapfence w) :=
  fits_of_le rfl (pack_head w.isLt (Nat.le_refl _)) (by decide)
theorem sysPtbase (w : BitVec 3) (a : BitVec 5) : Statement (.sysPtbase w a) :=
  fits_of_le rfl (pack_head w.isLt (pack_head a.isLt (Nat.le_refl _))) (by decide)
theorem cpy (d : BitVec 4) (w : BitVec 3) (q : Bool) (l : Bool) (s : Scope) (f : Bool) (p : Bool) (t : Bool) (k : BitVec 3) : Statement (.cpy d w q l s f p t k) :=
  fits_of_le rfl (pack_head d.isLt (pack_head w.isLt (pack_head (bitOf_lt q) (pack_head (bitOf_lt l) (pack_head (Scope.code_lt s) (pack_head (bitOf_lt f) (pack_head (bitOf_lt p) (pack_head (bitOf_lt t) (pack_head k.isLt (Nat.le_refl _)))))))))) (by decide)
theorem dload (d : BitVec 4) (i : BitVec 16) : Statement (.dload d i) :=
  fits_of_le rfl (pack_head d.isLt (pack_head i.isLt (Nat.le_refl _))) (by decide)
theorem cTsend (q : BitVec 3) (n : BitVec 8) : Statement (.cTsend q n) :=
  fits_of_le rfl (pack_head q.isLt (pack_head n.isLt (Nat.le_refl _))) (by decide)
theorem cTwait (q : BitVec 3) (n : BitVec 8) : Statement (.cTwait q n) :=
  fits_of_le rfl (pack_head q.isLt (pack_head n.isLt (Nat.le_refl _))) (by decide)
theorem cWaitp (w : BitVec 3) : Statement (.cWaitp w) :=
  fits_of_le rfl (pack_head w.isLt (Nat.le_refl _)) (by decide)
theorem lset (l : BitVec 2) (c : BitVec 16) : Statement (.lset l c) :=
  fits_of_le rfl (pack_head l.isLt (pack_head c.isLt (Nat.le_refl _))) (by decide)
theorem lbr (l : BitVec 2) (o : BitVec 16) : Statement (.lbr l o) :=
  fits_of_le rfl (pack_head l.isLt (pack_head o.isLt (Nat.le_refl _))) (by decide)
theorem cJmp (o : BitVec 27) : Statement (.cJmp o) :=
  fits_of_le rfl (pack_head o.isLt (Nat.le_refl _)) (by decide)
theorem cMark (m : BitVec 8) : Statement (.cMark m) :=
  fits_of_le rfl (pack_head m.isLt (Nat.le_refl _)) (by decide)
theorem vadd (z : Bool) (w : BitVec 3) (d : BitVec 5) (a : BitVec 5) (b : BitVec 5) (m : BitVec 3) (r : Rm) : Statement (.vadd z w d a b m r) :=
  fits_of_le rfl (pack_head (bitOf_lt z) (pack_head w.isLt (pack_head d.isLt (pack_head a.isLt (pack_head b.isLt (pack_head m.isLt (pack_head (Rm.code_lt r) (Nat.le_refl _)))))))) (by decide)
theorem vsub (z : Bool) (w : BitVec 3) (d : BitVec 5) (a : BitVec 5) (b : BitVec 5) (m : BitVec 3) (r : Rm) : Statement (.vsub z w d a b m r) :=
  fits_of_le rfl (pack_head (bitOf_lt z) (pack_head w.isLt (pack_head d.isLt (pack_head a.isLt (pack_head b.isLt (pack_head m.isLt (pack_head (Rm.code_lt r) (Nat.le_refl _)))))))) (by decide)
theorem vmul (z : Bool) (w : BitVec 3) (d : BitVec 5) (a : BitVec 5) (b : BitVec 5) (m : BitVec 3) (r : Rm) : Statement (.vmul z w d a b m r) :=
  fits_of_le rfl (pack_head (bitOf_lt z) (pack_head w.isLt (pack_head d.isLt (pack_head a.isLt (pack_head b.isLt (pack_head m.isLt (pack_head (Rm.code_lt r) (Nat.le_refl _)))))))) (by decide)
theorem vfma (z : Bool) (w : BitVec 3) (d : BitVec 5) (a : BitVec 5) (b : BitVec 5) (m : BitVec 3) (r : Rm) : Statement (.vfma z w d a b m r) :=
  fits_of_le rfl (pack_head (bitOf_lt z) (pack_head w.isLt (pack_head d.isLt (pack_head a.isLt (pack_head b.isLt (pack_head m.isLt (pack_head (Rm.code_lt r) (Nat.le_refl _)))))))) (by decide)
theorem vfms (z : Bool) (w : BitVec 3) (d : BitVec 5) (a : BitVec 5) (b : BitVec 5) (m : BitVec 3) (r : Rm) : Statement (.vfms z w d a b m r) :=
  fits_of_le rfl (pack_head (bitOf_lt z) (pack_head w.isLt (pack_head d.isLt (pack_head a.isLt (pack_head b.isLt (pack_head m.isLt (pack_head (Rm.code_lt r) (Nat.le_refl _)))))))) (by decide)
theorem vmin (z : Bool) (w : BitVec 3) (d : BitVec 5) (a : BitVec 5) (b : BitVec 5) (m : BitVec 3) : Statement (.vmin z w d a b m) :=
  fits_of_le rfl (pack_head (bitOf_lt z) (pack_head w.isLt (pack_head d.isLt (pack_head a.isLt (pack_head b.isLt (pack_head m.isLt (Nat.le_refl _))))))) (by decide)
theorem vmax (z : Bool) (w : BitVec 3) (d : BitVec 5) (a : BitVec 5) (b : BitVec 5) (m : BitVec 3) : Statement (.vmax z w d a b m) :=
  fits_of_le rfl (pack_head (bitOf_lt z) (pack_head w.isLt (pack_head d.isLt (pack_head a.isLt (pack_head b.isLt (pack_head m.isLt (Nat.le_refl _))))))) (by decide)
theorem vabs (z : Bool) (w : BitVec 3) (d : BitVec 5) (a : BitVec 5) (m : BitVec 3) : Statement (.vabs z w d a m) :=
  fits_of_le rfl (pack_head (bitOf_lt z) (pack_head w.isLt (pack_head d.isLt (pack_head a.isLt (pack_head m.isLt (Nat.le_refl _)))))) (by decide)
theorem vneg (z : Bool) (w : BitVec 3) (d : BitVec 5) (a : BitVec 5) (m : BitVec 3) : Statement (.vneg z w d a m) :=
  fits_of_le rfl (pack_head (bitOf_lt z) (pack_head w.isLt (pack_head d.isLt (pack_head a.isLt (pack_head m.isLt (Nat.le_refl _)))))) (by decide)
theorem vrcp (z : Bool) (w : BitVec 3) (d : BitVec 5) (a : BitVec 5) (m : BitVec 3) : Statement (.vrcp z w d a m) :=
  fits_of_le rfl (pack_head (bitOf_lt z) (pack_head w.isLt (pack_head d.isLt (pack_head a.isLt (pack_head m.isLt (Nat.le_refl _)))))) (by decide)
theorem vrsq (z : Bool) (w : BitVec 3) (d : BitVec 5) (a : BitVec 5) (m : BitVec 3) : Statement (.vrsq z w d a m) :=
  fits_of_le rfl (pack_head (bitOf_lt z) (pack_head w.isLt (pack_head d.isLt (pack_head a.isLt (pack_head m.isLt (Nat.le_refl _)))))) (by decide)
theorem vexp2 (z : Bool) (w : BitVec 3) (d : BitVec 5) (a : BitVec 5) (m : BitVec 3) : Statement (.vexp2 z w d a m) :=
  fits_of_le rfl (pack_head (bitOf_lt z) (pack_head w.isLt (pack_head d.isLt (pack_head a.isLt (pack_head m.isLt (Nat.le_refl _)))))) (by decide)
theorem vlog2 (z : Bool) (w : BitVec 3) (d : BitVec 5) (a : BitVec 5) (m : BitVec 3) : Statement (.vlog2 z w d a m) :=
  fits_of_le rfl (pack_head (bitOf_lt z) (pack_head w.isLt (pack_head d.isLt (pack_head a.isLt (pack_head m.isLt (Nat.le_refl _)))))) (by decide)
theorem viadd (z : Bool) (w : BitVec 3) (d : BitVec 5) (a : BitVec 5) (b : BitVec 5) (m : BitVec 3) : Statement (.viadd z w d a b m) :=
  fits_of_le rfl (pack_head (bitOf_lt z) (pack_head w.isLt (pack_head d.isLt (pack_head a.isLt (pack_head b.isLt (pack_head m.isLt (Nat.le_refl _))))))) (by decide)
theorem visub (z : Bool) (w : BitVec 3) (d : BitVec 5) (a : BitVec 5) (b : BitVec 5) (m : BitVec 3) : Statement (.visub z w d a b m) :=
  fits_of_le rfl (pack_head (bitOf_lt z) (pack_head w.isLt (pack_head d.isLt (pack_head a.isLt (pack_head b.isLt (pack_head m.isLt (Nat.le_refl _))))))) (by decide)
theorem vimul (z : Bool) (w : BitVec 3) (d : BitVec 5) (a : BitVec 5) (b : BitVec 5) (m : BitVec 3) : Statement (.vimul z w d a b m) :=
  fits_of_le rfl (pack_head (bitOf_lt z) (pack_head w.isLt (pack_head d.isLt (pack_head a.isLt (pack_head b.isLt (pack_head m.isLt (Nat.le_refl _))))))) (by decide)
theorem vand (z : Bool) (w : BitVec 3) (d : BitVec 5) (a : BitVec 5) (b : BitVec 5) (m : BitVec 3) : Statement (.vand z w d a b m) :=
  fits_of_le rfl (pack_head (bitOf_lt z) (pack_head w.isLt (pack_head d.isLt (pack_head a.isLt (pack_head b.isLt (pack_head m.isLt (Nat.le_refl _))))))) (by decide)
theorem vor (z : Bool) (w : BitVec 3) (d : BitVec 5) (a : BitVec 5) (b : BitVec 5) (m : BitVec 3) : Statement (.vor z w d a b m) :=
  fits_of_le rfl (pack_head (bitOf_lt z) (pack_head w.isLt (pack_head d.isLt (pack_head a.isLt (pack_head b.isLt (pack_head m.isLt (Nat.le_refl _))))))) (by decide)
theorem vxor (z : Bool) (w : BitVec 3) (d : BitVec 5) (a : BitVec 5) (b : BitVec 5) (m : BitVec 3) : Statement (.vxor z w d a b m) :=
  fits_of_le rfl (pack_head (bitOf_lt z) (pack_head w.isLt (pack_head d.isLt (pack_head a.isLt (pack_head b.isLt (pack_head m.isLt (Nat.le_refl _))))))) (by decide)
theorem vshl (z : Bool) (w : BitVec 3) (d : BitVec 5) (a : BitVec 5) (b : BitVec 5) (m : BitVec 3) : Statement (.vshl z w d a b m) :=
  fits_of_le rfl (pack_head (bitOf_lt z) (pack_head w.isLt (pack_head d.isLt (pack_head a.isLt (pack_head b.isLt (pack_head m.isLt (Nat.le_refl _))))))) (by decide)
theorem vshr (z : Bool) (w : BitVec 3) (d : BitVec 5) (a : BitVec 5) (b : BitVec 5) (m : BitVec 3) : Statement (.vshr z w d a b m) :=
  fits_of_le rfl (pack_head (bitOf_lt z) (pack_head w.isLt (pack_head d.isLt (pack_head a.isLt (pack_head b.isLt (pack_head m.isLt (Nat.le_refl _))))))) (by decide)
theorem vsra (z : Bool) (w : BitVec 3) (d : BitVec 5) (a : BitVec 5) (b : BitVec 5) (m : BitVec 3) : Statement (.vsra z w d a b m) :=
  fits_of_le rfl (pack_head (bitOf_lt z) (pack_head w.isLt (pack_head d.isLt (pack_head a.isLt (pack_head b.isLt (pack_head m.isLt (Nat.le_refl _))))))) (by decide)
theorem vcmp (z : Bool) (w : BitVec 3) (d : BitVec 3) (a : BitVec 5) (b : BitVec 5) (m : BitVec 3) (c : VCond) : Statement (.vcmp z w d a b m c) :=
  fits_of_le rfl (pack_head (bitOf_lt z) (pack_head w.isLt (pack_head d.isLt (pack_head a.isLt (pack_head b.isLt (pack_head m.isLt (pack_head (VCond.code_lt c) (Nat.le_refl _)))))))) (by decide)
theorem vsel (z : Bool) (w : BitVec 3) (d : BitVec 5) (a : BitVec 5) (b : BitVec 5) (m : BitVec 3) : Statement (.vsel z w d a b m) :=
  fits_of_le rfl (pack_head (bitOf_lt z) (pack_head w.isLt (pack_head d.isLt (pack_head a.isLt (pack_head b.isLt (pack_head m.isLt (Nat.le_refl _))))))) (by decide)
theorem vcvt (z : Bool) (w : BitVec 3) (d : BitVec 5) (a : BitVec 5) (e : ElemType) (m : BitVec 3) (r : Rm) : Statement (.vcvt z w d a e m r) :=
  fits_of_le rfl (pack_head (bitOf_lt z) (pack_head w.isLt (pack_head d.isLt (pack_head a.isLt (pack_head (ElemType.code_lt e) (pack_head m.isLt (pack_head (Rm.code_lt r) (Nat.le_refl _)))))))) (by decide)
theorem vefb (z : Bool) (w : BitVec 3) (d : BitVec 5) (a : BitVec 5) (b : BitVec 5) (m : BitVec 3) (r : Rm) : Statement (.vefb z w d a b m r) :=
  fits_of_le rfl (pack_head (bitOf_lt z) (pack_head w.isLt (pack_head d.isLt (pack_head a.isLt (pack_head b.isLt (pack_head m.isLt (pack_head (Rm.code_lt r) (Nat.le_refl _)))))))) (by decide)
theorem vbcast (w : BitVec 3) (d : BitVec 5) (k : BitVec 4) : Statement (.vbcast w d k) :=
  fits_of_le rfl (pack_head w.isLt (pack_head d.isLt (pack_head k.isLt (Nat.le_refl _)))) (by decide)
theorem vmovk (w : BitVec 3) (d : BitVec 4) (l : BitVec 6) (a : BitVec 5) : Statement (.vmovk w d l a) :=
  fits_of_le rfl (pack_head w.isLt (pack_head d.isLt (pack_head l.isLt (pack_head a.isLt (Nat.le_refl _))))) (by decide)
theorem kaddi (w : BitVec 3) (d : BitVec 4) (a : BitVec 4) (i : BitVec 12) : Statement (.kaddi w d a i) :=
  fits_of_le rfl (pack_head w.isLt (pack_head d.isLt (pack_head a.isLt (pack_head i.isLt (Nat.le_refl _))))) (by decide)
theorem vld (w : BitVec 3) (d : BitVec 5) (k : BitVec 4) (i : BitVec 8) (e : ElemType) : Statement (.vld w d k i e) :=
  fits_of_le rfl (pack_head w.isLt (pack_head d.isLt (pack_head k.isLt (pack_head i.isLt (pack_head (ElemType.code_lt e) (Nat.le_refl _)))))) (by decide)
theorem vst (w : BitVec 3) (d : BitVec 5) (k : BitVec 4) (i : BitVec 8) (e : ElemType) : Statement (.vst w d k i e) :=
  fits_of_le rfl (pack_head w.isLt (pack_head d.isLt (pack_head k.isLt (pack_head i.isLt (pack_head (ElemType.code_lt e) (Nat.le_refl _)))))) (by decide)
theorem vldg (w : BitVec 3) (d : BitVec 5) (a : BitVec 5) (k : BitVec 4) (e : ElemType) : Statement (.vldg w d a k e) :=
  fits_of_le rfl (pack_head w.isLt (pack_head d.isLt (pack_head a.isLt (pack_head k.isLt (pack_head (ElemType.code_lt e) (Nat.le_refl _)))))) (by decide)
theorem vsts (w : BitVec 3) (d : BitVec 5) (a : BitVec 5) (k : BitVec 4) (e : ElemType) : Statement (.vsts w d a k e) :=
  fits_of_le rfl (pack_head w.isLt (pack_head d.isLt (pack_head a.isLt (pack_head k.isLt (pack_head (ElemType.code_lt e) (Nat.le_refl _)))))) (by decide)
theorem vstt (w : BitVec 3) (d : BitVec 5) (k : BitVec 4) (i : BitVec 8) (e : ElemType) : Statement (.vstt w d k i e) :=
  fits_of_le rfl (pack_head w.isLt (pack_head d.isLt (pack_head k.isLt (pack_head i.isLt (pack_head (ElemType.code_lt e) (Nat.le_refl _)))))) (by decide)
theorem vldt (w : BitVec 3) (d : BitVec 5) (k : BitVec 4) (i : BitVec 8) (e : ElemType) : Statement (.vldt w d k i e) :=
  fits_of_le rfl (pack_head w.isLt (pack_head d.isLt (pack_head k.isLt (pack_head i.isLt (pack_head (ElemType.code_lt e) (Nat.le_refl _)))))) (by decide)
theorem vred (w : BitVec 3) (d : BitVec 5) (a : BitVec 5) (m : BitVec 3) (f : RedOp) : Statement (.vred w d a m f) :=
  fits_of_le rfl (pack_head w.isLt (pack_head d.isLt (pack_head a.isLt (pack_head m.isLt (pack_head (RedOp.code_lt f) (Nat.le_refl _)))))) (by decide)
theorem vperm (w : BitVec 3) (d : BitVec 5) (a : BitVec 5) (b : BitVec 5) (m : BitVec 3) : Statement (.vperm w d a b m) :=
  fits_of_le rfl (pack_head w.isLt (pack_head d.isLt (pack_head a.isLt (pack_head b.isLt (pack_head m.isLt (Nat.le_refl _)))))) (by decide)
theorem vsigRead (w : BitVec 3) (d : BitVec 5) (a : BitVec 5) (m : BitVec 3) : Statement (.vsigRead w d a m) :=
  fits_of_le rfl (pack_head w.isLt (pack_head d.isLt (pack_head a.isLt (pack_head m.isLt (Nat.le_refl _))))) (by decide)
theorem vsigWrite (w : BitVec 3) (d : BitVec 5) (a : BitVec 5) (b : BitVec 5) (m : BitVec 3) : Statement (.vsigWrite w d a b m) :=
  fits_of_le rfl (pack_head w.isLt (pack_head d.isLt (pack_head a.isLt (pack_head b.isLt (pack_head m.isLt (Nat.le_refl _)))))) (by decide)
theorem vsigMintag (w : BitVec 3) (d : BitVec 5) (a : BitVec 5) (m : BitVec 3) : Statement (.vsigMintag w d a m) :=
  fits_of_le rfl (pack_head w.isLt (pack_head d.isLt (pack_head a.isLt (pack_head m.isLt (Nat.le_refl _))))) (by decide)
theorem vssig (w : BitVec 3) (d : BitVec 5) (a : BitVec 5) (b : BitVec 5) (m : BitVec 3) : Statement (.vssig w d a b m) :=
  fits_of_le rfl (pack_head w.isLt (pack_head d.isLt (pack_head a.isLt (pack_head b.isLt (pack_head m.isLt (Nat.le_refl _)))))) (by decide)
theorem vbr (w : BitVec 3) (k : BitVec 4) (c : Cond) (o : BitVec 12) : Statement (.vbr w k c o) :=
  fits_of_le rfl (pack_head w.isLt (pack_head k.isLt (pack_head (Cond.code_lt c) (pack_head o.isLt (Nat.le_refl _))))) (by decide)
theorem vjmp (w : BitVec 3) (o : BitVec 21) : Statement (.vjmp w o) :=
  fits_of_le rfl (pack_head w.isLt (pack_head o.isLt (Nat.le_refl _))) (by decide)
theorem vloop (w : BitVec 3) (k : BitVec 4) (o : BitVec 16) : Statement (.vloop w k o) :=
  fits_of_le rfl (pack_head w.isLt (pack_head k.isLt (pack_head o.isLt (Nat.le_refl _)))) (by decide)
theorem epout (w : BitVec 3) (a : BitVec 5) (e : ElemType) : Statement (.epout w a e) :=
  fits_of_le rfl (pack_head w.isLt (pack_head a.isLt (pack_head (ElemType.code_lt e) (Nat.le_refl _)))) (by decide)
theorem epiret (w : BitVec 3) : Statement (.epiret w) :=
  fits_of_le rfl (pack_head w.isLt (Nat.le_refl _)) (by decide)
theorem vWaitp (w : BitVec 3) (p : BitVec 3) : Statement (.vWaitp w p) :=
  fits_of_le rfl (pack_head w.isLt (pack_head p.isLt (Nat.le_refl _))) (by decide)
theorem vTsend (w : BitVec 3) (n : BitVec 8) (q : BitVec 3) : Statement (.vTsend w n q) :=
  fits_of_le rfl (pack_head w.isLt (pack_head n.isLt (pack_head q.isLt (Nat.le_refl _)))) (by decide)
theorem vTwait (w : BitVec 3) (n : BitVec 8) (q : BitVec 3) : Statement (.vTwait w n q) :=
  fits_of_le rfl (pack_head w.isLt (pack_head n.isLt (pack_head q.isLt (Nat.le_refl _)))) (by decide)
theorem vMark (w : BitVec 3) (m : BitVec 8) : Statement (.vMark w m) :=
  fits_of_le rfl (pack_head w.isLt (pack_head m.isLt (Nat.le_refl _))) (by decide)
theorem vsysTrap (w : BitVec 3) : Statement (.vsysTrap w) :=
  fits_of_le rfl (pack_head w.isLt (Nat.le_refl _)) (by decide)
theorem vsysTret (w : BitVec 3) : Statement (.vsysTret w) :=
  fits_of_le rfl (pack_head w.isLt (Nat.le_refl _)) (by decide)
theorem vsysCrr (w : BitVec 3) (d : BitVec 4) (r : BitVec 10) : Statement (.vsysCrr w d r) :=
  fits_of_le rfl (pack_head w.isLt (pack_head d.isLt (pack_head r.isLt (Nat.le_refl _)))) (by decide)
theorem vsysCrw (w : BitVec 3) (k : BitVec 4) (r : BitVec 10) : Statement (.vsysCrw w k r) :=
  fits_of_le rfl (pack_head w.isLt (pack_head k.isLt (pack_head r.isLt (Nat.le_refl _)))) (by decide)
theorem vsysTime (w : BitVec 3) (d : BitVec 4) : Statement (.vsysTime w d) :=
  fits_of_le rfl (pack_head w.isLt (pack_head d.isLt (Nat.le_refl _))) (by decide)
theorem mnop (w : BitVec 3) : Statement (.mnop w) :=
  fits_of_le rfl (pack_head w.isLt (Nat.le_refl _)) (by decide)
theorem mma (w : BitVec 3) (a : BitVec 4) (b : BitVec 4) (n : Bool) (s : Bool) (k : Bool) (v : Bool) : Statement (.mma w a b n s k v) :=
  fits_of_le rfl (pack_head w.isLt (pack_head a.isLt (pack_head b.isLt (pack_head (bitOf_lt n) (pack_head (bitOf_lt s) (pack_head (bitOf_lt k) (pack_head (bitOf_lt v) (Nat.le_refl _)))))))) (by decide)
theorem mmac (w : BitVec 3) (a : BitVec 4) (b : BitVec 4) (n : Bool) (s : Bool) (k : Bool) (v : Bool) : Statement (.mmac w a b n s k v) :=
  fits_of_le rfl (pack_head w.isLt (pack_head a.isLt (pack_head b.isLt (pack_head (bitOf_lt n) (pack_head (bitOf_lt s) (pack_head (bitOf_lt k) (pack_head (bitOf_lt v) (Nat.le_refl _)))))))) (by decide)
theorem mmak (w : BitVec 3) (a : BitVec 4) (b : BitVec 4) (n : Bool) (s : Bool) (v : Bool) : Statement (.mmak w a b n s v) :=
  fits_of_le rfl (pack_head w.isLt (pack_head a.isLt (pack_head b.isLt (pack_head (bitOf_lt n) (pack_head (bitOf_lt s) (pack_head (bitOf_lt v) (Nat.le_refl _))))))) (by decide)
theorem mzero (w : BitVec 3) (n : Bool) : Statement (.mzero w n) :=
  fits_of_le rfl (pack_head w.isLt (pack_head (bitOf_lt n) (Nat.le_refl _))) (by decide)
theorem mdrain (w : BitVec 3) (c : BitVec 4) (n : Bool) (v : Bool) : Statement (.mdrain w c n v) :=
  fits_of_le rfl (pack_head w.isLt (pack_head c.isLt (pack_head (bitOf_lt n) (pack_head (bitOf_lt v) (Nat.le_refl _))))) (by decide)
theorem mldacc (w : BitVec 3) (a : BitVec 4) (n : Bool) (v : Bool) : Statement (.mldacc w a n v) :=
  fits_of_le rfl (pack_head w.isLt (pack_head a.isLt (pack_head (bitOf_lt n) (pack_head (bitOf_lt v) (Nat.le_refl _))))) (by decide)
theorem msync (w : BitVec 3) : Statement (.msync w) :=
  fits_of_le rfl (pack_head w.isLt (Nat.le_refl _)) (by decide)
theorem nop : Statement (.nop) :=
  fits_of_le rfl (Nat.le_refl _) (by decide)
theorem retp : Statement (.retp) :=
  fits_of_le rfl (Nat.le_refl _) (by decide)
theorem hend : Statement (.hend) :=
  fits_of_le rfl (Nat.le_refl _) (by decide)
theorem commit : Statement (.commit) :=
  fits_of_le rfl (Nat.le_refl _) (by decide)
theorem tend : Statement (.tend) :=
  fits_of_le rfl (Nat.le_refl _) (by decide)
theorem lSysTret : Statement (.lSysTret) :=
  fits_of_le rfl (Nat.le_refl _) (by decide)
theorem cfence : Statement (.cfence) :=
  fits_of_le rfl (Nat.le_refl _) (by decide)
theorem cHalt : Statement (.cHalt) :=
  fits_of_le rfl (Nat.le_refl _) (by decide)
theorem messageArrival : Statement (.messageArrival) := fits_of_none rfl
theorem handlerBind : Statement (.handlerBind) := fits_of_none rfl
theorem epriAging : Statement (.epriAging) := fits_of_none rfl
theorem niRetry : Statement (.niRetry) := fits_of_none rfl
theorem accessPerform : Statement (.accessPerform) := fits_of_none rfl
theorem rowRequestService : Statement (.rowRequestService) := fits_of_none rfl
theorem rowOperationService : Statement (.rowOperationService) := fits_of_none rfl
theorem rowLanding : Statement (.rowLanding) := fits_of_none rfl
theorem putLanding : Statement (.putLanding) := fits_of_none rfl
theorem useCounterIncrement : Statement (.useCounterIncrement) := fits_of_none rfl
theorem pageWalk : Statement (.pageWalk) := fits_of_none rfl
theorem fscmd : Statement (.fscmd) := fits_of_none rfl
theorem lanternAccess : Statement (.lanternAccess) := fits_of_none rfl
theorem cmemEvictionResume : Statement (.cmemEvictionResume) := fits_of_none rfl
theorem cmgrant : Statement (.cmgrant) := fits_of_none rfl
theorem smquery : Statement (.smquery) := fits_of_none rfl
theorem nresume : Statement (.nresume) := fits_of_none rfl
theorem registerWrite : Statement (.registerWrite) := fits_of_none rfl
theorem copyBurst : Statement (.copyBurst) := fits_of_none rfl
theorem copyComplete : Statement (.copyComplete) := fits_of_none rfl
theorem tblrdyRead : Statement (.tblrdyRead) := fits_of_none rfl
theorem dloadFillComplete : Statement (.dloadFillComplete) := fits_of_none rfl
theorem promiseExpiry : Statement (.promiseExpiry) := fits_of_none rfl
theorem waitpComplete : Statement (.waitpComplete) := fits_of_none rfl
theorem tokenWaitComplete : Statement (.tokenWaitComplete) := fits_of_none rfl
theorem waitcComplete : Statement (.waitcComplete) := fits_of_none rfl
theorem waittExpiry : Statement (.waittExpiry) := fits_of_none rfl
theorem cfenceComplete : Statement (.cfenceComplete) := fits_of_none rfl
theorem msyncComplete : Statement (.msyncComplete) := fits_of_none rfl
theorem wfeWake : Statement (.wfeWake) := fits_of_none rfl
theorem epochAdvance : Statement (.epochAdvance) := fits_of_none rfl
theorem variableResultLanding : Statement (.variableResultLanding) := fits_of_none rfl
theorem transformComplete : Statement (.transformComplete) := fits_of_none rfl
theorem condenserComplete : Statement (.condenserComplete) := fits_of_none rfl
theorem mergeComplete : Statement (.mergeComplete) := fits_of_none rfl
theorem matrixArbiterAccept : Statement (.matrixArbiterAccept) := fits_of_none rfl
theorem matrixCommandStart : Statement (.matrixCommandStart) := fits_of_none rfl
theorem matrixCommandComplete : Statement (.matrixCommandComplete) := fits_of_none rfl
theorem epilogueStart : Statement (.epilogueStart) := fits_of_none rfl
theorem drainRowRelease : Statement (.drainRowRelease) := fits_of_none rfl
theorem watchdogExpiry : Statement (.watchdogExpiry) := fits_of_none rfl
theorem phaseEnd : Statement (.phaseEnd) := fits_of_none rfl
theorem bundleRelease : Statement (.bundleRelease) := fits_of_none rfl
theorem markerRetire : Statement (.markerRetire) := fits_of_none rfl
theorem belfryHop : Statement (.belfryHop) := fits_of_none rfl
theorem stealAttempt : Statement (.stealAttempt) := fits_of_none rfl
theorem taskMigration : Statement (.taskMigration) := fits_of_none rfl
theorem levellingInterval : Statement (.levellingInterval) := fits_of_none rfl
theorem carryGranuleFill : Statement (.carryGranuleFill) := fits_of_none rfl
theorem nodePlacement : Statement (.nodePlacement) := fits_of_none rfl
theorem branchNode : Statement (.branchNode) := fits_of_none rfl
theorem barrierNodePoll : Statement (.barrierNodePoll) := fits_of_none rfl
theorem endNode : Statement (.endNode) := fits_of_none rfl
theorem scrubStep : Statement (.scrubStep) := fits_of_none rfl
theorem launch : Statement (.launch) := fits_of_none rfl
theorem memwr : Statement (.memwr) := fits_of_none rfl
theorem memrd : Statement (.memrd) := fits_of_none rfl
theorem rddata : Statement (.rddata) := fits_of_none rfl
theorem ack : Statement (.ack) := fits_of_none rfl
theorem nack : Statement (.nack) := fits_of_none rfl
theorem window : Statement (.window) := fits_of_none rfl
theorem completionRetransmit : Statement (.completionRetransmit) := fits_of_none rfl
theorem ptpMessage : Statement (.ptpMessage) := fits_of_none rfl
theorem rowreq : Statement (.rowreq) := fits_of_none rfl
theorem rowdata : Statement (.rowdata) := fits_of_none rfl
theorem rowacc : Statement (.rowacc) := fits_of_none rfl
theorem fabricMemrd : Statement (.fabricMemrd) := fits_of_none rfl
theorem fabricMemwr : Statement (.fabricMemwr) := fits_of_none rfl
theorem atomic : Statement (.atomic) := fits_of_none rfl
theorem msg : Statement (.msg) := fits_of_none rfl
theorem fabricAck : Statement (.fabricAck) := fits_of_none rfl
theorem fabricNack : Statement (.fabricNack) := fits_of_none rfl
theorem fabricRetransmit : Statement (.fabricRetransmit) := fits_of_none rfl
theorem sensor : Statement (.sensor) := fits_of_none rfl
theorem log : Statement (.log) := fits_of_none rfl
theorem fwupdate : Statement (.fwupdate) := fits_of_none rfl
theorem identity : Statement (.identity) := fits_of_none rfl
theorem attest : Statement (.attest) := fits_of_none rfl
theorem sensorSample : Statement (.sensorSample) := fits_of_none rfl
theorem powerGating : Statement (.powerGating) := fits_of_none rfl
theorem moduleReset : Statement (.moduleReset) := fits_of_none rfl
theorem unassignedOpcode : Statement (.unassignedOpcode) := fits_of_none rfl
theorem softError : Statement (.softError) := fits_of_none rfl
theorem supervisorRestart : Statement (.supervisorRestart) := fits_of_none rfl
theorem hostPortLinkChange : Statement (.hostPortLinkChange) := fits_of_none rfl
theorem powerLoss : Statement (.powerLoss) := fits_of_none rfl
theorem ordelUnrecognisedRequest : Statement (.ordelUnrecognisedRequest) := fits_of_none rfl

end Sys2Proof.Laws.FitsWord
end

