-- ==== Sys2Proof/Laws/Quiet.lean ====
section
/-! SUPPORT. What an access does when its unit has nothing under way: loads and stores of plain places, releases, commits. -/

namespace Sys2Proof.Machine

/-! ## What `quiet` says -/

theorem State.quiet_spec {s : State} {u : UnitId} (h : s.quiet u = true) :
    s.cur = u ∧ s.delivered u = [] ∧ s.quota = none ∧ s.lateStores = false ∧ s.storesOut = [] ∧ s.unreleased u = false ∧
      s.inOrder u 0 = true ∧ s.poison = [] ∧ s.soft = [] ∧ s.hard = [] ∧ s.nothingHeld u = true := by
  simp only [State.quiet, Bool.and_eq_true, beq_iff_eq, List.isEmpty_iff, Option.isNone_iff_eq_none, Bool.not_eq_true'] at h
  obtain ⟨⟨⟨⟨⟨⟨⟨⟨⟨⟨a, b⟩, c⟩, d⟩, e⟩, f⟩, g⟩, i⟩, j⟩, k⟩, l⟩ := h
  exact ⟨a, b, c, d, e, f, g, i, j, k, l⟩

theorem State.quiet_cur {s : State} {u : UnitId} (h : s.quiet u = true) : s.cur = u := (State.quiet_spec h).1
theorem State.quiet_delivered {s : State} {u : UnitId} (h : s.quiet u = true) : s.delivered u = [] := (State.quiet_spec h).2.1
theorem State.quiet_quota {s : State} {u : UnitId} (h : s.quiet u = true) : s.quota = none := (State.quiet_spec h).2.2.1
theorem State.quiet_lateStores {s : State} {u : UnitId} (h : s.quiet u = true) : s.lateStores = false := (State.quiet_spec h).2.2.2.1
theorem State.quiet_storesOut {s : State} {u : UnitId} (h : s.quiet u = true) : s.storesOut = [] := (State.quiet_spec h).2.2.2.2.1
theorem State.quiet_unreleased {s : State} {u : UnitId} (h : s.quiet u = true) : s.unreleased u = false :=
  (State.quiet_spec h).2.2.2.2.2.1
theorem State.quiet_inOrder {s : State} {u : UnitId} (h : s.quiet u = true) : s.inOrder u 0 = true :=
  (State.quiet_spec h).2.2.2.2.2.2.1
theorem State.quiet_poison {s : State} {u : UnitId} (h : s.quiet u = true) : s.poison = [] :=
  (State.quiet_spec h).2.2.2.2.2.2.2.1
theorem State.quiet_soft {s : State} {u : UnitId} (h : s.quiet u = true) : s.soft = [] :=
  (State.quiet_spec h).2.2.2.2.2.2.2.2.1
theorem State.quiet_hard {s : State} {u : UnitId} (h : s.quiet u = true) : s.hard = [] :=
  (State.quiet_spec h).2.2.2.2.2.2.2.2.2.1
theorem State.quiet_nothingHeld {s : State} {u : UnitId} (h : s.quiet u = true) : s.nothingHeld u = true :=
  (State.quiet_spec h).2.2.2.2.2.2.2.2.2.2
theorem State.quiet_putOver {s : State} {u : UnitId} (h : s.quiet u = true) (name : W64) (n : Nat) : s.putOver u name n = false := by
  have h := State.quiet_unreleased h
  simp only [State.unreleased, State.putsOut, Bool.or_eq_false_iff, Bool.not_eq_false', List.isEmpty_iff] at h
  simp [State.putOver, h.1.2]
theorem State.quiet_flights {s : State} {u : UnitId} (h : s.quiet u = true) : s.flights = [] := by
  have := State.quiet_storesOut h
  simp only [State.storesOut, List.append_eq_nil_iff] at this
  exact this.2

/-! ## Nothing to perform, nothing to release -/

theorem State.performFlights_nil (s : State) (p : Flight → Bool) (h : s.flights = []) : s.performFlights p = s := by
  simp [State.performFlights, h]
theorem State.quiet_drain {s : State} {u : UnitId} (h : s.quiet u = true) (v : UnitId) : s.drain v = s :=
  State.performFlights_nil s _ (State.quiet_flights h)
theorem State.quiet_release {s : State} {u : UnitId} (h : s.quiet u = true) : s.release u = .ok s := by
  simp [State.release, State.quiet_drain h, State.quiet_unreleased h]
theorem State.quiet_commit {s : State} {u : UnitId} (h : s.quiet u = true) (implicit : Bool) : s.commit u implicit = .ok s := by
  have h := State.quiet_nothingHeld h
  unfold State.commit State.commitNow
  cases u <;> try rfl
  simp only [State.nothingHeld] at h
  simp only
  split at h
  · rename_i a ha; simp [ha, h]
  · rename_i ha; simp [ha]
theorem State.quiet_replayable {s : State} {u : UnitId} (h : s.quiet u = true) : s.replayable u = none := by
  have h := State.quiet_nothingHeld h
  unfold State.replayable
  cases u <;> try rfl
  simp only [State.nothingHeld] at h
  simp only
  split at h
  · rename_i a ha; simp_all
  · rename_i ha; simp [ha]
theorem State.quiet_heldBy {s : State} {u : UnitId} (h : s.quiet u = true) : s.heldBy u = [] := by
  have h := State.quiet_nothingHeld h
  unfold State.heldBy
  cases u <;> try rfl
  simp only [State.nothingHeld] at h
  simp only
  split at h
  · rename_i a ha; simp_all
  · rename_i ha; simp [ha]
theorem State.quiet_committed {s : State} {u : UnitId} (h : s.quiet u = true) (implicit : Bool) {α : Type} {k : State → Eff α} :
    (∀ r, k s = .ok r → s.committed u implicit k = .ok r) ∧
      (∀ c a t, k s = .error (.trap c a t) → s.committed u implicit k = .error (.trap c a t)) := by
  simp only [State.committed, State.quiet_commit h]
  exact ⟨fun r hr => by simp [hr], fun c a t ht => by simp [ht]⟩
theorem State.quiet_beforeAmo {s : State} {u : UnitId} (h : s.quiet u = true) (rel : Bool) {α : Type} {k : State → Eff α} {r : α}
    (hk : k s = .ok r) : s.beforeAmo u rel k = .ok r := by
  refine (State.quiet_committed h true).1 r ?_
  cases rel
  · exact hk
  · simp only [if_true, State.quiet_release h, Except.bind, hk]

/-! ## Reading -/

theorem overlay_nil (name : Nat) (old : List Byte) : overlay name old [] = old := by
  simp only [overlay, List.foldl_nil]
  apply List.ext_getElem <;> simp

theorem State.quiet_ownView {s : State} {u : UnitId} (h : s.quiet u = true) (p : Part) (bs : List Byte) : s.ownView u p bs = bs := by
  unfold State.ownView
  simp only [State.quiet_storesOut h, State.quiet_heldBy h, List.filter_nil, List.filterMap_nil, overlay_nil]
  split <;> rfl

theorem State.poisoned_nil {s : State} (h : s.poison = []) (a n : Nat) : s.poisoned a n = false := by
  simp [State.poisoned, h]
theorem State.countSoft_nil {s : State} (h : s.soft = []) (h' : s.hard = []) (a n : Nat) : s.countSoft a n = s := by
  simp [State.countSoft, h, h']

/-- A place of tile memory or scratchpad: no home, Lantern, register or other device answers there. -/
def Place.plain : Place → Bool
  | .tile .. | .scratch .. => true
  | _ => false

/-- One granule access of a load to a plain place. -/
theorem State.quiet_readPart {s : State} {u : UnitId} (h : s.quiet u = true) {w : Who} (hw : w.u = u) (hf : w.fetch = false) {p : Part}
    (hm : p.mtype = 0) (hp : p.place.plain = true) {a : Nat} (ha : s.key p.place = some a) :
    s.readPart w p = .ok (s.readKey a p.len, false, s) := by
  subst hw
  have hd := State.quiet_delivered h
  have hq := State.quiet_quota h
  unfold State.readPart
  simp only [hd, List.find?_nil, hq, hm, State.quiet_inOrder h, hf]
  simp only [State.poisoned_nil (State.quiet_poison h), State.countSoft_nil (State.quiet_soft h) (State.quiet_hard h), State.readOne, hq,
    State.quiet_ownView h, State.quiet_putOver h]
  cases hpl : p.place <;> simp_all [Place.plain]

theorem memRead_add (m : List Host.Cell) (a n l : Nat) : memRead m a (n + l) = memRead m a n ++ memRead m (a + n) l := by
  induction n generalizing a with
  | zero => simp [memRead]
  | succ n ih =>
    rw [Nat.succ_add]
    simp only [memRead, List.cons_append, ih]
    congr 3; omega

theorem State.key_add {s : State} {p : Place} (hp : p.plain = true) {a : Nat} (ha : s.key p = some a) (o : Nat) :
    s.key (p.add o) = some (a + o) := by
  cases p <;> simp_all [Place.plain, Place.add, State.key, State.tileKey, State.scratchKey]
  all_goals omega
theorem Place.plain_add {p : Place} (hp : p.plain = true) (o : Nat) : (p.add o).plain = true := by
  cases p <;> simp_all [Place.plain, Place.add]

/-- The pieces of a span cover it in order. -/
theorem readKey_granulePieces (m : List Host.Cell) : ∀ (f a n b : Nat), n = 0 ∨ n + a % 32 ≤ 32 * f →
    (granulePieces f a n).flatMap (fun (o, l) => memRead m (b + o) l) = memRead m b n := by
  intro f
  induction f with
  | zero => intro a n b h; obtain rfl : n = 0 := by omega
            rfl
  | succ f ih =>
    intro a n b h
    simp only [granulePieces]
    split
    · rename_i hn; subst hn; rfl
    · rename_i hn
      simp only [List.flatMap_cons, List.flatMap_map, Nat.add_zero]
      have hm : min n (32 - a % 32) ≤ n := Nat.min_le_left ..
      have hc : n - min n (32 - a % 32) = 0 ∨ n - min n (32 - a % 32) + (a + min n (32 - a % 32)) % 32 ≤ 32 * f := by
        by_cases hs : n ≤ 32 - a % 32
        · left; omega
        · right; rw [Nat.min_eq_right (by omega)]; omega
      have := ih (a + min n (32 - a % 32)) (n - min n (32 - a % 32)) (b + min n (32 - a % 32)) hc
      simp only [Nat.add_assoc, Nat.add_comm (min n (32 - a % 32))] at this ⊢
      rw [this]
      conv => rhs; rw [show n = min n (32 - a % 32) + (n - min n (32 - a % 32)) by omega, memRead_add]

/-- Granule accesses in plain places. -/
theorem State.quiet_readPieces {s : State} {u : UnitId} (h : s.quiet u = true) {w : Who} (hw : w.u = u) (hf : w.fetch = false) {p : Part}
    (hm : p.mtype = 0) (hp : p.place.plain = true) {a : Nat} (ha : s.key p.place = some a) : ∀ l : List (Nat × Nat),
    s.readPieces w (l.map fun (o, n) => { p with place := p.place.add o, len := n, name := p.name + BitVec.ofNat 64 o }) =
      .ok (l.flatMap fun (o, n) => s.readKey (a + o) n, false, s)
  | [] => rfl
  | (o, n) :: l => by
    have h1 := State.quiet_readPart h hw hf (p := { p with place := p.place.add o, len := n, name := p.name + BitVec.ofNat 64 o }) hm
      (Place.plain_add hp o) (State.key_add hp ha o)
    simp only [List.map_cons, State.readPieces, h1, State.quiet_readPieces h hw hf hm hp ha l, List.flatMap_cons, Bool.or_false]

/-- A load of one part in a plain place reads its bytes, and changes nothing. -/
theorem State.quiet_readParts {s : State} {u : UnitId} (h : s.quiet u = true) {w : Who} (hw : w.u = u) (hf : w.fetch = false) {p : Part}
    (hm : p.mtype = 0) (hp : p.place.plain = true) {a : Nat} (ha : s.key p.place = some a) :
    s.readParts w [p] = .ok (s.readKey a p.len, false, s) := by
  have hpc : ∃ o, p.place.pieces p.len = granulePieces (p.len / 32 + 2) o p.len := by
    cases hq : p.place <;> simp_all [Place.plain, Place.pieces] <;> exact ⟨_, rfl⟩
  obtain ⟨o, ho⟩ := hpc
  simp only [State.readParts, List.flatMap_cons, List.flatMap_nil, List.append_nil, Part.pieces, ho,
    State.quiet_readPieces h hw hf hm hp ha]
  have := readKey_granulePieces s.mem (p.len / 32 + 2) o p.len a (by omega)
  simp only [State.readKey] at this ⊢
  rw [this]

/-! ## Loads and stores of a context's own tile memory, named LOCAL -/

theorem State.resolve_local (s : State) (k c : Nat) {a : W64} {n : Nat} (h : a.toNat + n ≤ 2 ^ 21) :
    s.resolve (s.who (.ctx k c)) a n = .ok (.inl (.tile k a.toNat)) := by
  have hs : addrSpace a = 0 := by simp only [addrSpace, bits]; omega
  have ho : a.toNat + n ≤ 2097152 := h
  simp [State.resolve, hs, State.who, ho]

theorem State.locate_local (s : State) (k c : Nat) {a : W64} {n : Nat} (perm : Perm) (h : a.toNat + n ≤ 2 ^ 21) :
    s.locate (s.who (.ctx k c)) a n perm =
      .ok ([{ place := .tile k a.toNat, len := n, name := nameOf (s.who (.ctx k c)) a, raw := a }], s) := by
  simp [State.locate, State.resolve_local s k c h]

theorem State.quiet_load {s : State} {k c : Nat} (h : s.quiet (.ctx k c) = true) {a : W64} {n : Nat} (hn : a.toNat + n ≤ 2 ^ 21) :
    s.load (.ctx k c) a n = .ok (s.ownBytes k a n, s) := by
  simp only [State.load, State.loadRaw, State.locate_local s k c .r hn]
  rw [State.quiet_readParts h (by rfl) (by rfl) (p := { place := .tile k a.toNat, len := n, name := nameOf (s.who (.ctx k c)) a, raw := a })
    rfl rfl (a := s.tileKey k a.toNat) rfl]
  rfl

theorem State.quiet_loadRows {s : State} {k c : Nat} (h : s.quiet (.ctx k c) = true) {a : W64} {n : Nat} (hn : a.toNat + n ≤ 2 ^ 21) :
    s.loadRows (.ctx k c) a n = .ok (s.ownBytes k a n, s) := by
  simp only [State.loadRows]
  split
  · rename_i h0; subst h0; rfl
  · exact State.quiet_load h hn

/-! ## Stores of plain places -/

theorem OnlyMemory.refl (s : State) : OnlyMemory s s := rfl
theorem OnlyMemory.trans {s t r : State} (h : OnlyMemory s t) (h' : OnlyMemory t r) : OnlyMemory s r := by
  unfold OnlyMemory at *
  rw [h', h]
theorem OnlyMemory.of_smeta (s : State) (x : Tab (Bool × Bool × Nat)) : OnlyMemory s { s with smeta := x } := rfl
theorem OnlyMemory.foldl {α : Type} {f : State → α → State} (hf : ∀ s x, OnlyMemory s (f s x)) : ∀ (l : List α) (s : State), OnlyMemory s (l.foldl f s)
  | [], s => .refl s
  | x :: l, s => (hf s x).trans (OnlyMemory.foldl hf l (f s x))
/-- A unit with nothing under way still has nothing under way after a write. -/
theorem OnlyMemory.quiet {s t : State} (h : OnlyMemory s t) {u : UnitId} (hq : s.quiet u = true) : t.quiet u = true := by
  rw [h]; exact hq

theorem State.noteBlocks_onlyMemory (s : State) (cl off : Nat) (bs : List Byte) (w : Writer) : OnlyMemory s (s.noteBlocks cl off bs w) := by
  unfold State.noteBlocks
  split
  · exact .refl s
  · refine OnlyMemory.foldl (fun t i => ?_) _ s
    exact OnlyMemory.of_smeta t _
theorem State.writeKey_onlyMemory {s : State} (hp : s.poison = []) (hs : s.soft = []) (hh : s.hard = []) (a : Nat) (bs : List Byte) :
    OnlyMemory s (s.writeKey a bs) := by
  simp [OnlyMemory, State.writeKey, hp, hs, hh]
theorem State.writePlace_onlyMemory {s : State} (hp : s.poison = []) (hs : s.soft = []) (hh : s.hard = []) (p : Place) (bs : List Byte) (w : Writer) :
    OnlyMemory s (s.writePlace p bs w) := by
  unfold State.writePlace
  split
  · exact .refl s
  · have := State.writeKey_onlyMemory hp hs hh ‹Nat› bs
    split
    · exact this.trans (State.noteBlocks_onlyMemory ..)
    · exact this

/-- A store performed in a plain place. -/
theorem State.performStore_plain {s : State} (hp : s.poison = []) (hs : s.soft = []) (hh : s.hard = []) {f : Flight} (hb : f.bad = []) (hf : f.place.plain = true) :
    OnlyMemory s (s.performStore f) := by
  have hw : OnlyMemory s (s.writeFlight f) := by
    unfold State.writeFlight
    simp only [hb, List.foldl_nil]
    have := State.writePlace_onlyMemory hp hs hh f.place f.bytes f.wr
    split
    · exact this.trans (OnlyMemory.of_smeta ..)
    · exact this
  unfold State.performStore State.performMem
  cases hpl : f.place <;> simp_all [Place.plain]

/-- A store issued to a plain place, with nothing under way, changes memory alone. -/
theorem State.quiet_issueStore {u : UnitId} {f : Flight} (hb : f.bad = []) (hf : f.place.plain = true) {s : State} (h : s.quiet u = true) :
    OnlyMemory s (s.issueStore f) := by
  have hg : ∀ g ∈ f.pieces, g.bad = [] ∧ g.place.plain = true := by
    intro g hg
    cases hpl : f.place <;> simp [hpl, Place.plain] at hf <;>
      (simp only [Flight.pieces, hpl, Bool.false_eq_true, if_false, List.mem_map, Prod.exists] at hg
       obtain ⟨o, n, -, rfl⟩ := hg
       exact ⟨by simp [hb], rfl⟩)
  unfold State.issueStore
  generalize f.pieces = l at hg
  induction l generalizing s with
  | nil => exact .refl s
  | cons g l ih =>
    have h1 := hg g (by simp)
    have h2 : OnlyMemory s (s.performStore g) := State.performStore_plain (State.quiet_poison h) (State.quiet_soft h) (State.quiet_hard h) h1.1 h1.2
    simp only [List.foldl_cons, State.performFlights_nil s _ (State.quiet_flights h), State.quiet_lateStores h, Bool.false_and, Bool.false_eq_true,
      if_false]
    exact h2.trans (ih (h2.quiet h) fun g hm => hg g (by simp [hm]))

/-- One part of a store to a plain place is issued. -/
theorem State.quiet_writePart {s : State} {u : UnitId} (h : s.quiet u = true) {w : Who} (hw : w.u = u) {p : Part} (hm : p.mtype = 0)
    (hp : p.place.plain = true) {bs : List Byte} (wr : Writer) :
    ∃ f : Flight, f.bad = [] ∧ f.place.plain = true ∧ s.writePart w p bs wr = .ok (s.issueStore f) := by
  subst hw
  refine ⟨{ who := w.u, name := p.name, place := p.place, bytes := bs, wr := wr, pc := s.pc w.u, mtype := 0
            seq := match w.u with
              | .compute cl => (s.dense cl).cp.seq
              | .epi cl e => ((s.dense cl).epiCtx e).seq
              | _ => 0
            port := p.port }, rfl, hp, ?_⟩
  unfold State.writePart
  simp only [State.quiet_replayable h, hm, State.quiet_inOrder h, State.quiet_putOver h, if_true]
  cases hpl : p.place <;> simp [hpl, Place.plain] at hp <;> rfl

/-- A store of a context to its own tile memory, named LOCAL, completes and changes memory alone. -/
theorem State.quiet_store {s : State} {k c : Nat} (h : s.quiet (.ctx k c) = true) {a : W64} {bs : List Byte}
    (hn : a.toNat + bs.length ≤ 2 ^ 21) : ∃ t, s.store (.ctx k c) a bs = .ok t ∧ OnlyMemory s t := by
  obtain ⟨f, hb, hf, he⟩ := State.quiet_writePart h (w := s.who (.ctx k c)) rfl (bs := bs.take bs.length)
    (p := { place := .tile k a.toNat, len := bs.length, name := nameOf (s.who (.ctx k c)) a, raw := a }) rfl rfl none
  simp only [State.store, State.storeAs, State.locate_local s k c .w hn, State.writeParts, he]
  exact ⟨_, rfl, State.quiet_issueStore hb hf h⟩

theorem State.quiet_storePieces {k c : Nat} {a : W64} {bs : List Byte} : ∀ (l : List (Nat × Nat)) {s : State}, s.quiet (.ctx k c) = true →
    (∀ x ∈ l, a.toNat + x.1 + x.2 ≤ 2 ^ 21) → ∃ t, s.storePieces (.ctx k c) a bs l = .ok t ∧ OnlyMemory s t
  | [], s, _, _ => ⟨s, rfl, .refl s⟩
  | (o, n) :: l, s, h, hl => by
    have h0 := hl (o, n) (by simp)
    simp only at h0
    have ha : (a + BitVec.ofNat 64 o).toNat = a.toNat + o := by
      simp only [BitVec.toNat_add, BitVec.toNat_ofNat]; omega
    have hlen : ((bs.drop o).take n).length ≤ n := List.length_take_le ..
    obtain ⟨t, ht, hm⟩ := State.quiet_store h (a := a + BitVec.ofNat 64 o) (bs := (bs.drop o).take n) (by omega)
    obtain ⟨r, hr, hm'⟩ := State.quiet_storePieces (a := a) (bs := bs) l (hm.quiet h) fun x hx => hl x (by simp [hx])
    exact ⟨r, by simp only [State.storePieces, ht, hr], hm.trans hm'⟩

theorem granulePieces_le : ∀ (f a n : Nat) (x : Nat × Nat), x ∈ granulePieces f a n → x.1 + x.2 ≤ n
  | 0, _, _, _, h => by simp [granulePieces] at h
  | f + 1, a, n, x, h => by
    simp only [granulePieces] at h
    split at h
    · simp at h
    · simp only [List.mem_cons, List.mem_map, Prod.exists] at h
      have hm : min n (32 - a % 32) ≤ n := Nat.min_le_left ..
      rcases h with rfl | ⟨o, l, hx, rfl⟩
      · simpa using hm
      · have := granulePieces_le f _ _ _ hx
        simp only at this ⊢; omega

/-- Rows stored in own tile memory, named LOCAL. -/
theorem State.quiet_storeRows {s : State} {k c : Nat} (h : s.quiet (.ctx k c) = true) {a : W64} {bs : List Byte}
    (hn : a.toNat + bs.length ≤ 2 ^ 21) : ∃ t, s.storeRows (.ctx k c) a bs = .ok t ∧ OnlyMemory s t :=
  State.quiet_storePieces _ h fun x hx => by have := granulePieces_le _ _ _ x hx; omega

theorem State.quiet_makeRoom {s : State} {u : UnitId} (h : s.quiet u = true) (k n : Nat) : s.makeRoom u k n = .ok s := by
  simp [State.makeRoom, State.quiet_replayable h]

theorem State.quiet_roomFor {s : State} {u : UnitId} (h : s.quiet u = true) (k n : Nat) (f : State → Eff State) : s.roomFor u k n f = f s := by
  simp only [State.roomFor, State.quiet_makeRoom h, State.quiet_replayable h]
  split <;> simp_all

/-! ## Ranges of own tile memory -/

theorem State.ownOffset_local (s : State) (k c : Nat) {a : W64} {n : Nat} (h : a.toNat + n ≤ 2 ^ 21) : s.ownOffset (.ctx k c) k a n = .ok a.toNat := by
  have hs : addrSpace a = 0 := by simp only [addrSpace, bits]; omega
  simp [State.ownOffset, hs, State.resolve_local s k c h]
theorem State.rowAt_local (s : State) (k c : Nat) {a : W64} {n size : Nat} (h : a.toNat + n ≤ 2 ^ 21) (ha : a.toNat % size = 0) :
    s.rowAt (.ctx k c) k a n size = .ok a.toNat := by
  simp [State.rowAt, ha, State.ownOffset_local s k c h]
theorem State.rowRange_local (s : State) (k c : Nat) {a b : W64} {n item : Nat} (hi : 0 < item) (hb : b.toNat = a.toNat + n * item)
    (h : b.toNat ≤ 2 ^ 21) : s.rowRange (.ctx k c) k a b item = .ok (n, a.toNat) := by
  have hd : b.toNat - a.toNat = n * item := by omega
  have h1 : bits a.toNat 63 49 = bits b.toNat 63 49 := by simp only [bits]; omega
  simp only [State.rowRange, h1, hd]
  rw [if_neg (by omega), if_neg (by simp), State.ownOffset_local s k c (by omega)]
  simp [Nat.mul_div_cancel _ hi]

end Sys2Proof.Machine
end

