-- ==== Sys2Proof/Laws/Tab.lean ====
section
/-! SUPPORT. Reading and writing a table. -/

namespace Sys2Proof

@[simp] theorem Tab.get_set_self {α : Type} (d v : α) (t : Tab α) (k : Nat) : Tab.get d (Tab.set t k v) k = v := by
  induction t with
  | nil => simp [Tab.set, Tab.get]
  | cons e t ih =>
    obtain ⟨j, a⟩ := e
    simp only [Tab.set]
    split
    · simp [Tab.get]
    · split
      · simp [Tab.get]
      · rename_i h; simp [Tab.get, ih, Ne.symm h]

theorem Tab.get_set_ne {α : Type} (d v : α) (t : Tab α) {k l : Nat} (h : k ≠ l) : Tab.get d (Tab.set t k v) l = Tab.get d t l := by
  induction t with
  | nil => simp [Tab.set, Tab.get, h]
  | cons e t ih =>
    obtain ⟨j, a⟩ := e
    simp only [Tab.set]
    split
    · simp [Tab.get, h]
    · split
      · rename_i h'; subst h'; simp [Tab.get, h]
      · simp [Tab.get, ih]

@[simp] theorem Tab.set_set {α : Type} (t : Tab α) (k : Nat) (v w : α) : Tab.set (Tab.set t k v) k w = Tab.set t k w := by
  induction t with
  | nil => simp [Tab.set]
  | cons e t ih =>
    obtain ⟨j, a⟩ := e
    simp only [Tab.set]
    split
    · simp [Tab.set]
    · split
      · simp [Tab.set]
      · rename_i h1 h2; simp [Tab.set, h1, h2, ih]

@[simp] theorem Tab.set_get_self {α : Type} (d v : α) (t : Tab α) (k : Nat) :
    Tab.set (Tab.set t k v) k (Tab.get d (Tab.set t k v) k) = Tab.set t k v := by simp

end Sys2Proof
end

