-- ==== Sys2Proof/Laws/State.lean ====
section
/-! SUPPORT. One lemma per field of State per update, by rfl, and how updates of one unit compose. -/

namespace Sys2Proof.Machine

/-! ## setCore -/

@[simp] theorem State.setCore_time (s : State) (k : Nat) (x : Core) : (s.setCore k x).time = s.time := rfl
@[simp] theorem State.setCore_devns (s : State) (k : Nat) (x : Core) : (s.setCore k x).devns = s.devns := rfl
@[simp] theorem State.setCore_devFrac (s : State) (k : Nat) (x : Core) : (s.setCore k x).devFrac = s.devFrac := rfl
@[simp] theorem State.setCore_ppm (s : State) (k : Nat) (x : Core) : (s.setCore k x).ppm = s.ppm := rfl
@[simp] theorem State.setCore_ptpLocked (s : State) (k : Nat) (x : Core) : (s.setCore k x).ptpLocked = s.ptpLocked := rfl
@[simp] theorem State.setCore_ready (s : State) (k : Nat) (x : Core) : (s.setCore k x).ready = s.ready := rfl
@[simp] theorem State.setCore_powered (s : State) (k : Nat) (x : Core) : (s.setCore k x).powered = s.powered := rfl
@[simp] theorem State.setCore_cur (s : State) (k : Nat) (x : Core) : (s.setCore k x).cur = s.cur := rfl
@[simp] theorem State.setCore_agenda (s : State) (k : Nat) (x : Core) : (s.setCore k x).agenda = s.agenda := rfl
@[simp] theorem State.setCore_lateStores (s : State) (k : Nat) (x : Core) : (s.setCore k x).lateStores = s.lateStores := rfl
@[simp] theorem State.setCore_quota (s : State) (k : Nat) (x : Core) : (s.setCore k x).quota = s.quota := rfl
@[simp] theorem State.setCore_got (s : State) (k : Nat) (x : Core) : (s.setCore k x).got = s.got := rfl
@[simp] theorem State.setCore_further (s : State) (k : Nat) (x : Core) : (s.setCore k x).further = s.further := rfl
@[simp] theorem State.setCore_disturb (s : State) (k : Nat) (x : Core) : (s.setCore k x).disturb = s.disturb := rfl
@[simp] theorem State.setCore_arg (s : State) (k : Nat) (x : Core) : (s.setCore k x).arg = s.arg := rfl
@[simp] theorem State.setCore_mem (s : State) (k : Nat) (x : Core) : (s.setCore k x).mem = s.mem := rfl
@[simp] theorem State.setCore_poison (s : State) (k : Nat) (x : Core) : (s.setCore k x).poison = s.poison := rfl
@[simp] theorem State.setCore_soft (s : State) (k : Nat) (x : Core) : (s.setCore k x).soft = s.soft := rfl
@[simp] theorem State.setCore_hard (s : State) (k : Nat) (x : Core) : (s.setCore k x).hard = s.hard := rfl
@[simp] theorem State.setCore_smeta (s : State) (k : Nat) (x : Core) : (s.setCore k x).smeta = s.smeta := rfl
@[simp] theorem State.setCore_flights (s : State) (k : Nat) (x : Core) : (s.setCore k x).flights = s.flights := rfl
@[simp] theorem State.setCore_clusters (s : State) (k : Nat) (x : Core) : (s.setCore k x).clusters = s.clusters := rfl
@[simp] theorem State.setCore_sups (s : State) (k : Nat) (x : Core) : (s.setCore k x).sups = s.sups := rfl
@[simp] theorem State.setCore_ptRoot (s : State) (k : Nat) (x : Core) : (s.setCore k x).ptRoot = s.ptRoot := rfl
@[simp] theorem State.setCore_missForm (s : State) (k : Nat) (x : Core) : (s.setCore k x).missForm = s.missForm := rfl
@[simp] theorem State.setCore_sysMap (s : State) (k : Nat) (x : Core) : (s.setCore k x).sysMap = s.sysMap := rfl
@[simp] theorem State.setCore_sysCached (s : State) (k : Nat) (x : Core) : (s.setCore k x).sysCached = s.sysCached := rfl
@[simp] theorem State.setCore_windows (s : State) (k : Nat) (x : Core) : (s.setCore k x).windows = s.windows := rfl
@[simp] theorem State.setCore_launches (s : State) (k : Nat) (x : Core) : (s.setCore k x).launches = s.launches := rfl
@[simp] theorem State.setCore_nextLaunch (s : State) (k : Nat) (x : Core) : (s.setCore k x).nextLaunch = s.nextLaunch := rfl
@[simp] theorem State.setCore_nextId (s : State) (k : Nat) (x : Core) : (s.setCore k x).nextId = s.nextId := rfl
@[simp] theorem State.setCore_markersOut (s : State) (k : Nat) (x : Core) : (s.setCore k x).markersOut = s.markersOut := rfl
@[simp] theorem State.setCore_preemptMargin (s : State) (k : Nat) (x : Core) : (s.setCore k x).preemptMargin = s.preemptMargin := rfl
@[simp] theorem State.setCore_flogBase (s : State) (k : Nat) (x : Core) : (s.setCore k x).flogBase = s.flogBase := rfl
@[simp] theorem State.setCore_flogHead (s : State) (k : Nat) (x : Core) : (s.setCore k x).flogHead = s.flogHead := rfl
@[simp] theorem State.setCore_flogN (s : State) (k : Nat) (x : Core) : (s.setCore k x).flogN = s.flogN := rfl
@[simp] theorem State.setCore_flogDrop (s : State) (k : Nat) (x : Core) : (s.setCore k x).flogDrop = s.flogDrop := rfl
@[simp] theorem State.setCore_flogUsed (s : State) (k : Nat) (x : Core) : (s.setCore k x).flogUsed = s.flogUsed := rfl
@[simp] theorem State.setCore_scrubHbm (s : State) (k : Nat) (x : Core) : (s.setCore k x).scrubHbm = s.scrubHbm := rfl
@[simp] theorem State.setCore_scrubSram (s : State) (k : Nat) (x : Core) : (s.setCore k x).scrubSram = s.scrubSram := rfl
@[simp] theorem State.setCore_hostUdp (s : State) (k : Nat) (x : Core) : (s.setCore k x).hostUdp = s.hostUdp := rfl
@[simp] theorem State.setCore_hostDrop (s : State) (k : Nat) (x : Core) : (s.setCore k x).hostDrop = s.hostDrop := rfl
@[simp] theorem State.setCore_evDest (s : State) (k : Nat) (x : Core) : (s.setCore k x).evDest = s.evDest := rfl
@[simp] theorem State.setCore_sources (s : State) (k : Nat) (x : Core) : (s.setCore k x).sources = s.sources := rfl
@[simp] theorem State.setCore_hostSeq (s : State) (k : Nat) (x : Core) : (s.setCore k x).hostSeq = s.hostSeq := rfl
@[simp] theorem State.setCore_hostOut (s : State) (k : Nat) (x : Core) : (s.setCore k x).hostOut = s.hostOut := rfl
@[simp] theorem State.setCore_unacked (s : State) (k : Nat) (x : Core) : (s.setCore k x).unacked = s.unacked := rfl
@[simp] theorem State.setCore_portJobs (s : State) (k : Nat) (x : Core) : (s.setCore k x).portJobs = s.portJobs := rfl
@[simp] theorem State.setCore_hostHeld (s : State) (k : Nat) (x : Core) : (s.setCore k x).hostHeld = s.hostHeld := rfl
@[simp] theorem State.setCore_portUp (s : State) (k : Nat) (x : Core) : (s.setCore k x).portUp = s.portUp := rfl
@[simp] theorem State.setCore_extReads (s : State) (k : Nat) (x : Core) : (s.setCore k x).extReads = s.extReads := rfl
@[simp] theorem State.setCore_extWrites (s : State) (k : Nat) (x : Core) : (s.setCore k x).extWrites = s.extWrites := rfl
@[simp] theorem State.setCore_extMsgs (s : State) (k : Nat) (x : Core) : (s.setCore k x).extMsgs = s.extMsgs := rfl
@[simp] theorem State.setCore_nextExt (s : State) (k : Nat) (x : Core) : (s.setCore k x).nextExt = s.nextExt := rfl
@[simp] theorem State.setCore_ports (s : State) (k : Nat) (x : Core) : (s.setCore k x).ports = s.ports := rfl
@[simp] theorem State.setCore_ordel (s : State) (k : Nat) (x : Core) : (s.setCore k x).ordel = s.ordel := rfl
@[simp] theorem State.setCore_cmap (s : State) (k : Nat) (x : Core) : (s.setCore k x).cmap = s.cmap := rfl
@[simp] theorem State.setCore_view (s : State) (k : Nat) (x : Core) : (s.setCore k x).view = s.view := rfl
@[simp] theorem State.setCore_cmapNew (s : State) (k : Nat) (x : Core) : (s.setCore k x).cmapNew = s.cmapNew := rfl
@[simp] theorem State.setCore_smapNew (s : State) (k : Nat) (x : Core) : (s.setCore k x).smapNew = s.smapNew := rfl
@[simp] theorem State.setCore_gen (s : State) (k : Nat) (x : Core) : (s.setCore k x).gen = s.gen := rfl
@[simp] theorem State.setCore_changed (s : State) (k : Nat) (x : Core) : (s.setCore k x).changed = s.changed := rfl
@[simp] theorem State.setCore_fresh (s : State) (k : Nat) (x : Core) : (s.setCore k x).fresh = s.fresh := rfl

/-! ## onCore -/

@[simp] theorem State.onCore_time (s : State) (k : Nat) (f : Core → Core) : (s.onCore k f).time = s.time := rfl
@[simp] theorem State.onCore_devns (s : State) (k : Nat) (f : Core → Core) : (s.onCore k f).devns = s.devns := rfl
@[simp] theorem State.onCore_devFrac (s : State) (k : Nat) (f : Core → Core) : (s.onCore k f).devFrac = s.devFrac := rfl
@[simp] theorem State.onCore_ppm (s : State) (k : Nat) (f : Core → Core) : (s.onCore k f).ppm = s.ppm := rfl
@[simp] theorem State.onCore_ptpLocked (s : State) (k : Nat) (f : Core → Core) : (s.onCore k f).ptpLocked = s.ptpLocked := rfl
@[simp] theorem State.onCore_ready (s : State) (k : Nat) (f : Core → Core) : (s.onCore k f).ready = s.ready := rfl
@[simp] theorem State.onCore_powered (s : State) (k : Nat) (f : Core → Core) : (s.onCore k f).powered = s.powered := rfl
@[simp] theorem State.onCore_cur (s : State) (k : Nat) (f : Core → Core) : (s.onCore k f).cur = s.cur := rfl
@[simp] theorem State.onCore_agenda (s : State) (k : Nat) (f : Core → Core) : (s.onCore k f).agenda = s.agenda := rfl
@[simp] theorem State.onCore_lateStores (s : State) (k : Nat) (f : Core → Core) : (s.onCore k f).lateStores = s.lateStores := rfl
@[simp] theorem State.onCore_quota (s : State) (k : Nat) (f : Core → Core) : (s.onCore k f).quota = s.quota := rfl
@[simp] theorem State.onCore_got (s : State) (k : Nat) (f : Core → Core) : (s.onCore k f).got = s.got := rfl
@[simp] theorem State.onCore_further (s : State) (k : Nat) (f : Core → Core) : (s.onCore k f).further = s.further := rfl
@[simp] theorem State.onCore_disturb (s : State) (k : Nat) (f : Core → Core) : (s.onCore k f).disturb = s.disturb := rfl
@[simp] theorem State.onCore_arg (s : State) (k : Nat) (f : Core → Core) : (s.onCore k f).arg = s.arg := rfl
@[simp] theorem State.onCore_mem (s : State) (k : Nat) (f : Core → Core) : (s.onCore k f).mem = s.mem := rfl
@[simp] theorem State.onCore_poison (s : State) (k : Nat) (f : Core → Core) : (s.onCore k f).poison = s.poison := rfl
@[simp] theorem State.onCore_soft (s : State) (k : Nat) (f : Core → Core) : (s.onCore k f).soft = s.soft := rfl
@[simp] theorem State.onCore_hard (s : State) (k : Nat) (f : Core → Core) : (s.onCore k f).hard = s.hard := rfl
@[simp] theorem State.onCore_smeta (s : State) (k : Nat) (f : Core → Core) : (s.onCore k f).smeta = s.smeta := rfl
@[simp] theorem State.onCore_flights (s : State) (k : Nat) (f : Core → Core) : (s.onCore k f).flights = s.flights := rfl
@[simp] theorem State.onCore_clusters (s : State) (k : Nat) (f : Core → Core) : (s.onCore k f).clusters = s.clusters := rfl
@[simp] theorem State.onCore_sups (s : State) (k : Nat) (f : Core → Core) : (s.onCore k f).sups = s.sups := rfl
@[simp] theorem State.onCore_ptRoot (s : State) (k : Nat) (f : Core → Core) : (s.onCore k f).ptRoot = s.ptRoot := rfl
@[simp] theorem State.onCore_missForm (s : State) (k : Nat) (f : Core → Core) : (s.onCore k f).missForm = s.missForm := rfl
@[simp] theorem State.onCore_sysMap (s : State) (k : Nat) (f : Core → Core) : (s.onCore k f).sysMap = s.sysMap := rfl
@[simp] theorem State.onCore_sysCached (s : State) (k : Nat) (f : Core → Core) : (s.onCore k f).sysCached = s.sysCached := rfl
@[simp] theorem State.onCore_windows (s : State) (k : Nat) (f : Core → Core) : (s.onCore k f).windows = s.windows := rfl
@[simp] theorem State.onCore_launches (s : State) (k : Nat) (f : Core → Core) : (s.onCore k f).launches = s.launches := rfl
@[simp] theorem State.onCore_nextLaunch (s : State) (k : Nat) (f : Core → Core) : (s.onCore k f).nextLaunch = s.nextLaunch := rfl
@[simp] theorem State.onCore_nextId (s : State) (k : Nat) (f : Core → Core) : (s.onCore k f).nextId = s.nextId := rfl
@[simp] theorem State.onCore_markersOut (s : State) (k : Nat) (f : Core → Core) : (s.onCore k f).markersOut = s.markersOut := rfl
@[simp] theorem State.onCore_preemptMargin (s : State) (k : Nat) (f : Core → Core) : (s.onCore k f).preemptMargin = s.preemptMargin := rfl
@[simp] theorem State.onCore_flogBase (s : State) (k : Nat) (f : Core → Core) : (s.onCore k f).flogBase = s.flogBase := rfl
@[simp] theorem State.onCore_flogHead (s : State) (k : Nat) (f : Core → Core) : (s.onCore k f).flogHead = s.flogHead := rfl
@[simp] theorem State.onCore_flogN (s : State) (k : Nat) (f : Core → Core) : (s.onCore k f).flogN = s.flogN := rfl
@[simp] theorem State.onCore_flogDrop (s : State) (k : Nat) (f : Core → Core) : (s.onCore k f).flogDrop = s.flogDrop := rfl
@[simp] theorem State.onCore_flogUsed (s : State) (k : Nat) (f : Core → Core) : (s.onCore k f).flogUsed = s.flogUsed := rfl
@[simp] theorem State.onCore_scrubHbm (s : State) (k : Nat) (f : Core → Core) : (s.onCore k f).scrubHbm = s.scrubHbm := rfl
@[simp] theorem State.onCore_scrubSram (s : State) (k : Nat) (f : Core → Core) : (s.onCore k f).scrubSram = s.scrubSram := rfl
@[simp] theorem State.onCore_hostUdp (s : State) (k : Nat) (f : Core → Core) : (s.onCore k f).hostUdp = s.hostUdp := rfl
@[simp] theorem State.onCore_hostDrop (s : State) (k : Nat) (f : Core → Core) : (s.onCore k f).hostDrop = s.hostDrop := rfl
@[simp] theorem State.onCore_evDest (s : State) (k : Nat) (f : Core → Core) : (s.onCore k f).evDest = s.evDest := rfl
@[simp] theorem State.onCore_sources (s : State) (k : Nat) (f : Core → Core) : (s.onCore k f).sources = s.sources := rfl
@[simp] theorem State.onCore_hostSeq (s : State) (k : Nat) (f : Core → Core) : (s.onCore k f).hostSeq = s.hostSeq := rfl
@[simp] theorem State.onCore_hostOut (s : State) (k : Nat) (f : Core → Core) : (s.onCore k f).hostOut = s.hostOut := rfl
@[simp] theorem State.onCore_unacked (s : State) (k : Nat) (f : Core → Core) : (s.onCore k f).unacked = s.unacked := rfl
@[simp] theorem State.onCore_portJobs (s : State) (k : Nat) (f : Core → Core) : (s.onCore k f).portJobs = s.portJobs := rfl
@[simp] theorem State.onCore_hostHeld (s : State) (k : Nat) (f : Core → Core) : (s.onCore k f).hostHeld = s.hostHeld := rfl
@[simp] theorem State.onCore_portUp (s : State) (k : Nat) (f : Core → Core) : (s.onCore k f).portUp = s.portUp := rfl
@[simp] theorem State.onCore_extReads (s : State) (k : Nat) (f : Core → Core) : (s.onCore k f).extReads = s.extReads := rfl
@[simp] theorem State.onCore_extWrites (s : State) (k : Nat) (f : Core → Core) : (s.onCore k f).extWrites = s.extWrites := rfl
@[simp] theorem State.onCore_extMsgs (s : State) (k : Nat) (f : Core → Core) : (s.onCore k f).extMsgs = s.extMsgs := rfl
@[simp] theorem State.onCore_nextExt (s : State) (k : Nat) (f : Core → Core) : (s.onCore k f).nextExt = s.nextExt := rfl
@[simp] theorem State.onCore_ports (s : State) (k : Nat) (f : Core → Core) : (s.onCore k f).ports = s.ports := rfl
@[simp] theorem State.onCore_ordel (s : State) (k : Nat) (f : Core → Core) : (s.onCore k f).ordel = s.ordel := rfl
@[simp] theorem State.onCore_cmap (s : State) (k : Nat) (f : Core → Core) : (s.onCore k f).cmap = s.cmap := rfl
@[simp] theorem State.onCore_view (s : State) (k : Nat) (f : Core → Core) : (s.onCore k f).view = s.view := rfl
@[simp] theorem State.onCore_cmapNew (s : State) (k : Nat) (f : Core → Core) : (s.onCore k f).cmapNew = s.cmapNew := rfl
@[simp] theorem State.onCore_smapNew (s : State) (k : Nat) (f : Core → Core) : (s.onCore k f).smapNew = s.smapNew := rfl
@[simp] theorem State.onCore_gen (s : State) (k : Nat) (f : Core → Core) : (s.onCore k f).gen = s.gen := rfl
@[simp] theorem State.onCore_changed (s : State) (k : Nat) (f : Core → Core) : (s.onCore k f).changed = s.changed := rfl
@[simp] theorem State.onCore_fresh (s : State) (k : Nat) (f : Core → Core) : (s.onCore k f).fresh = s.fresh := rfl

/-! ## onCtx -/

@[simp] theorem State.onCtx_time (s : State) (k c : Nat) (f : LCtx → LCtx) : (s.onCtx k c f).time = s.time := rfl
@[simp] theorem State.onCtx_devns (s : State) (k c : Nat) (f : LCtx → LCtx) : (s.onCtx k c f).devns = s.devns := rfl
@[simp] theorem State.onCtx_devFrac (s : State) (k c : Nat) (f : LCtx → LCtx) : (s.onCtx k c f).devFrac = s.devFrac := rfl
@[simp] theorem State.onCtx_ppm (s : State) (k c : Nat) (f : LCtx → LCtx) : (s.onCtx k c f).ppm = s.ppm := rfl
@[simp] theorem State.onCtx_ptpLocked (s : State) (k c : Nat) (f : LCtx → LCtx) : (s.onCtx k c f).ptpLocked = s.ptpLocked := rfl
@[simp] theorem State.onCtx_ready (s : State) (k c : Nat) (f : LCtx → LCtx) : (s.onCtx k c f).ready = s.ready := rfl
@[simp] theorem State.onCtx_powered (s : State) (k c : Nat) (f : LCtx → LCtx) : (s.onCtx k c f).powered = s.powered := rfl
@[simp] theorem State.onCtx_cur (s : State) (k c : Nat) (f : LCtx → LCtx) : (s.onCtx k c f).cur = s.cur := rfl
@[simp] theorem State.onCtx_agenda (s : State) (k c : Nat) (f : LCtx → LCtx) : (s.onCtx k c f).agenda = s.agenda := rfl
@[simp] theorem State.onCtx_lateStores (s : State) (k c : Nat) (f : LCtx → LCtx) : (s.onCtx k c f).lateStores = s.lateStores := rfl
@[simp] theorem State.onCtx_quota (s : State) (k c : Nat) (f : LCtx → LCtx) : (s.onCtx k c f).quota = s.quota := rfl
@[simp] theorem State.onCtx_got (s : State) (k c : Nat) (f : LCtx → LCtx) : (s.onCtx k c f).got = s.got := rfl
@[simp] theorem State.onCtx_further (s : State) (k c : Nat) (f : LCtx → LCtx) : (s.onCtx k c f).further = s.further := rfl
@[simp] theorem State.onCtx_disturb (s : State) (k c : Nat) (f : LCtx → LCtx) : (s.onCtx k c f).disturb = s.disturb := rfl
@[simp] theorem State.onCtx_arg (s : State) (k c : Nat) (f : LCtx → LCtx) : (s.onCtx k c f).arg = s.arg := rfl
@[simp] theorem State.onCtx_mem (s : State) (k c : Nat) (f : LCtx → LCtx) : (s.onCtx k c f).mem = s.mem := rfl
@[simp] theorem State.onCtx_poison (s : State) (k c : Nat) (f : LCtx → LCtx) : (s.onCtx k c f).poison = s.poison := rfl
@[simp] theorem State.onCtx_soft (s : State) (k c : Nat) (f : LCtx → LCtx) : (s.onCtx k c f).soft = s.soft := rfl
@[simp] theorem State.onCtx_hard (s : State) (k c : Nat) (f : LCtx → LCtx) : (s.onCtx k c f).hard = s.hard := rfl
@[simp] theorem State.onCtx_smeta (s : State) (k c : Nat) (f : LCtx → LCtx) : (s.onCtx k c f).smeta = s.smeta := rfl
@[simp] theorem State.onCtx_flights (s : State) (k c : Nat) (f : LCtx → LCtx) : (s.onCtx k c f).flights = s.flights := rfl
@[simp] theorem State.onCtx_clusters (s : State) (k c : Nat) (f : LCtx → LCtx) : (s.onCtx k c f).clusters = s.clusters := rfl
@[simp] theorem State.onCtx_sups (s : State) (k c : Nat) (f : LCtx → LCtx) : (s.onCtx k c f).sups = s.sups := rfl
@[simp] theorem State.onCtx_ptRoot (s : State) (k c : Nat) (f : LCtx → LCtx) : (s.onCtx k c f).ptRoot = s.ptRoot := rfl
@[simp] theorem State.onCtx_missForm (s : State) (k c : Nat) (f : LCtx → LCtx) : (s.onCtx k c f).missForm = s.missForm := rfl
@[simp] theorem State.onCtx_sysMap (s : State) (k c : Nat) (f : LCtx → LCtx) : (s.onCtx k c f).sysMap = s.sysMap := rfl
@[simp] theorem State.onCtx_sysCached (s : State) (k c : Nat) (f : LCtx → LCtx) : (s.onCtx k c f).sysCached = s.sysCached := rfl
@[simp] theorem State.onCtx_windows (s : State) (k c : Nat) (f : LCtx → LCtx) : (s.onCtx k c f).windows = s.windows := rfl
@[simp] theorem State.onCtx_launches (s : State) (k c : Nat) (f : LCtx → LCtx) : (s.onCtx k c f).launches = s.launches := rfl
@[simp] theorem State.onCtx_nextLaunch (s : State) (k c : Nat) (f : LCtx → LCtx) : (s.onCtx k c f).nextLaunch = s.nextLaunch := rfl
@[simp] theorem State.onCtx_nextId (s : State) (k c : Nat) (f : LCtx → LCtx) : (s.onCtx k c f).nextId = s.nextId := rfl
@[simp] theorem State.onCtx_markersOut (s : State) (k c : Nat) (f : LCtx → LCtx) : (s.onCtx k c f).markersOut = s.markersOut := rfl
@[simp] theorem State.onCtx_preemptMargin (s : State) (k c : Nat) (f : LCtx → LCtx) : (s.onCtx k c f).preemptMargin = s.preemptMargin := rfl
@[simp] theorem State.onCtx_flogBase (s : State) (k c : Nat) (f : LCtx → LCtx) : (s.onCtx k c f).flogBase = s.flogBase := rfl
@[simp] theorem State.onCtx_flogHead (s : State) (k c : Nat) (f : LCtx → LCtx) : (s.onCtx k c f).flogHead = s.flogHead := rfl
@[simp] theorem State.onCtx_flogN (s : State) (k c : Nat) (f : LCtx → LCtx) : (s.onCtx k c f).flogN = s.flogN := rfl
@[simp] theorem State.onCtx_flogDrop (s : State) (k c : Nat) (f : LCtx → LCtx) : (s.onCtx k c f).flogDrop = s.flogDrop := rfl
@[simp] theorem State.onCtx_flogUsed (s : State) (k c : Nat) (f : LCtx → LCtx) : (s.onCtx k c f).flogUsed = s.flogUsed := rfl
@[simp] theorem State.onCtx_scrubHbm (s : State) (k c : Nat) (f : LCtx → LCtx) : (s.onCtx k c f).scrubHbm = s.scrubHbm := rfl
@[simp] theorem State.onCtx_scrubSram (s : State) (k c : Nat) (f : LCtx → LCtx) : (s.onCtx k c f).scrubSram = s.scrubSram := rfl
@[simp] theorem State.onCtx_hostUdp (s : State) (k c : Nat) (f : LCtx → LCtx) : (s.onCtx k c f).hostUdp = s.hostUdp := rfl
@[simp] theorem State.onCtx_hostDrop (s : State) (k c : Nat) (f : LCtx → LCtx) : (s.onCtx k c f).hostDrop = s.hostDrop := rfl
@[simp] theorem State.onCtx_evDest (s : State) (k c : Nat) (f : LCtx → LCtx) : (s.onCtx k c f).evDest = s.evDest := rfl
@[simp] theorem State.onCtx_sources (s : State) (k c : Nat) (f : LCtx → LCtx) : (s.onCtx k c f).sources = s.sources := rfl
@[simp] theorem State.onCtx_hostSeq (s : State) (k c : Nat) (f : LCtx → LCtx) : (s.onCtx k c f).hostSeq = s.hostSeq := rfl
@[simp] theorem State.onCtx_hostOut (s : State) (k c : Nat) (f : LCtx → LCtx) : (s.onCtx k c f).hostOut = s.hostOut := rfl
@[simp] theorem State.onCtx_unacked (s : State) (k c : Nat) (f : LCtx → LCtx) : (s.onCtx k c f).unacked = s.unacked := rfl
@[simp] theorem State.onCtx_portJobs (s : State) (k c : Nat) (f : LCtx → LCtx) : (s.onCtx k c f).portJobs = s.portJobs := rfl
@[simp] theorem State.onCtx_hostHeld (s : State) (k c : Nat) (f : LCtx → LCtx) : (s.onCtx k c f).hostHeld = s.hostHeld := rfl
@[simp] theorem State.onCtx_portUp (s : State) (k c : Nat) (f : LCtx → LCtx) : (s.onCtx k c f).portUp = s.portUp := rfl
@[simp] theorem State.onCtx_extReads (s : State) (k c : Nat) (f : LCtx → LCtx) : (s.onCtx k c f).extReads = s.extReads := rfl
@[simp] theorem State.onCtx_extWrites (s : State) (k c : Nat) (f : LCtx → LCtx) : (s.onCtx k c f).extWrites = s.extWrites := rfl
@[simp] theorem State.onCtx_extMsgs (s : State) (k c : Nat) (f : LCtx → LCtx) : (s.onCtx k c f).extMsgs = s.extMsgs := rfl
@[simp] theorem State.onCtx_nextExt (s : State) (k c : Nat) (f : LCtx → LCtx) : (s.onCtx k c f).nextExt = s.nextExt := rfl
@[simp] theorem State.onCtx_ports (s : State) (k c : Nat) (f : LCtx → LCtx) : (s.onCtx k c f).ports = s.ports := rfl
@[simp] theorem State.onCtx_ordel (s : State) (k c : Nat) (f : LCtx → LCtx) : (s.onCtx k c f).ordel = s.ordel := rfl
@[simp] theorem State.onCtx_cmap (s : State) (k c : Nat) (f : LCtx → LCtx) : (s.onCtx k c f).cmap = s.cmap := rfl
@[simp] theorem State.onCtx_view (s : State) (k c : Nat) (f : LCtx → LCtx) : (s.onCtx k c f).view = s.view := rfl
@[simp] theorem State.onCtx_cmapNew (s : State) (k c : Nat) (f : LCtx → LCtx) : (s.onCtx k c f).cmapNew = s.cmapNew := rfl
@[simp] theorem State.onCtx_smapNew (s : State) (k c : Nat) (f : LCtx → LCtx) : (s.onCtx k c f).smapNew = s.smapNew := rfl
@[simp] theorem State.onCtx_gen (s : State) (k c : Nat) (f : LCtx → LCtx) : (s.onCtx k c f).gen = s.gen := rfl
@[simp] theorem State.onCtx_changed (s : State) (k c : Nat) (f : LCtx → LCtx) : (s.onCtx k c f).changed = s.changed := rfl
@[simp] theorem State.onCtx_fresh (s : State) (k c : Nat) (f : LCtx → LCtx) : (s.onCtx k c f).fresh = s.fresh := rfl

/-! ## onCluster -/

@[simp] theorem State.onCluster_time (s : State) (cl : Nat) (f : Cluster → Cluster) : (s.onCluster cl f).time = s.time := rfl
@[simp] theorem State.onCluster_devns (s : State) (cl : Nat) (f : Cluster → Cluster) : (s.onCluster cl f).devns = s.devns := rfl
@[simp] theorem State.onCluster_devFrac (s : State) (cl : Nat) (f : Cluster → Cluster) : (s.onCluster cl f).devFrac = s.devFrac := rfl
@[simp] theorem State.onCluster_ppm (s : State) (cl : Nat) (f : Cluster → Cluster) : (s.onCluster cl f).ppm = s.ppm := rfl
@[simp] theorem State.onCluster_ptpLocked (s : State) (cl : Nat) (f : Cluster → Cluster) : (s.onCluster cl f).ptpLocked = s.ptpLocked := rfl
@[simp] theorem State.onCluster_ready (s : State) (cl : Nat) (f : Cluster → Cluster) : (s.onCluster cl f).ready = s.ready := rfl
@[simp] theorem State.onCluster_powered (s : State) (cl : Nat) (f : Cluster → Cluster) : (s.onCluster cl f).powered = s.powered := rfl
@[simp] theorem State.onCluster_cur (s : State) (cl : Nat) (f : Cluster → Cluster) : (s.onCluster cl f).cur = s.cur := rfl
@[simp] theorem State.onCluster_agenda (s : State) (cl : Nat) (f : Cluster → Cluster) : (s.onCluster cl f).agenda = s.agenda := rfl
@[simp] theorem State.onCluster_lateStores (s : State) (cl : Nat) (f : Cluster → Cluster) : (s.onCluster cl f).lateStores = s.lateStores := rfl
@[simp] theorem State.onCluster_quota (s : State) (cl : Nat) (f : Cluster → Cluster) : (s.onCluster cl f).quota = s.quota := rfl
@[simp] theorem State.onCluster_got (s : State) (cl : Nat) (f : Cluster → Cluster) : (s.onCluster cl f).got = s.got := rfl
@[simp] theorem State.onCluster_further (s : State) (cl : Nat) (f : Cluster → Cluster) : (s.onCluster cl f).further = s.further := rfl
@[simp] theorem State.onCluster_disturb (s : State) (cl : Nat) (f : Cluster → Cluster) : (s.onCluster cl f).disturb = s.disturb := rfl
@[simp] theorem State.onCluster_arg (s : State) (cl : Nat) (f : Cluster → Cluster) : (s.onCluster cl f).arg = s.arg := rfl
@[simp] theorem State.onCluster_mem (s : State) (cl : Nat) (f : Cluster → Cluster) : (s.onCluster cl f).mem = s.mem := rfl
@[simp] theorem State.onCluster_poison (s : State) (cl : Nat) (f : Cluster → Cluster) : (s.onCluster cl f).poison = s.poison := rfl
@[simp] theorem State.onCluster_soft (s : State) (cl : Nat) (f : Cluster → Cluster) : (s.onCluster cl f).soft = s.soft := rfl
@[simp] theorem State.onCluster_hard (s : State) (cl : Nat) (f : Cluster → Cluster) : (s.onCluster cl f).hard = s.hard := rfl
@[simp] theorem State.onCluster_smeta (s : State) (cl : Nat) (f : Cluster → Cluster) : (s.onCluster cl f).smeta = s.smeta := rfl
@[simp] theorem State.onCluster_flights (s : State) (cl : Nat) (f : Cluster → Cluster) : (s.onCluster cl f).flights = s.flights := rfl
@[simp] theorem State.onCluster_cores (s : State) (cl : Nat) (f : Cluster → Cluster) : (s.onCluster cl f).cores = s.cores := rfl
@[simp] theorem State.onCluster_sups (s : State) (cl : Nat) (f : Cluster → Cluster) : (s.onCluster cl f).sups = s.sups := rfl
@[simp] theorem State.onCluster_ptRoot (s : State) (cl : Nat) (f : Cluster → Cluster) : (s.onCluster cl f).ptRoot = s.ptRoot := rfl
@[simp] theorem State.onCluster_missForm (s : State) (cl : Nat) (f : Cluster → Cluster) : (s.onCluster cl f).missForm = s.missForm := rfl
@[simp] theorem State.onCluster_sysMap (s : State) (cl : Nat) (f : Cluster → Cluster) : (s.onCluster cl f).sysMap = s.sysMap := rfl
@[simp] theorem State.onCluster_sysCached (s : State) (cl : Nat) (f : Cluster → Cluster) : (s.onCluster cl f).sysCached = s.sysCached := rfl
@[simp] theorem State.onCluster_windows (s : State) (cl : Nat) (f : Cluster → Cluster) : (s.onCluster cl f).windows = s.windows := rfl
@[simp] theorem State.onCluster_launches (s : State) (cl : Nat) (f : Cluster → Cluster) : (s.onCluster cl f).launches = s.launches := rfl
@[simp] theorem State.onCluster_nextLaunch (s : State) (cl : Nat) (f : Cluster → Cluster) : (s.onCluster cl f).nextLaunch = s.nextLaunch := rfl
@[simp] theorem State.onCluster_nextId (s : State) (cl : Nat) (f : Cluster → Cluster) : (s.onCluster cl f).nextId = s.nextId := rfl
@[simp] theorem State.onCluster_markersOut (s : State) (cl : Nat) (f : Cluster → Cluster) : (s.onCluster cl f).markersOut = s.markersOut := rfl
@[simp] theorem State.onCluster_preemptMargin (s : State) (cl : Nat) (f : Cluster → Cluster) : (s.onCluster cl f).preemptMargin = s.preemptMargin := rfl
@[simp] theorem State.onCluster_flogBase (s : State) (cl : Nat) (f : Cluster → Cluster) : (s.onCluster cl f).flogBase = s.flogBase := rfl
@[simp] theorem State.onCluster_flogHead (s : State) (cl : Nat) (f : Cluster → Cluster) : (s.onCluster cl f).flogHead = s.flogHead := rfl
@[simp] theorem State.onCluster_flogN (s : State) (cl : Nat) (f : Cluster → Cluster) : (s.onCluster cl f).flogN = s.flogN := rfl
@[simp] theorem State.onCluster_flogDrop (s : State) (cl : Nat) (f : Cluster → Cluster) : (s.onCluster cl f).flogDrop = s.flogDrop := rfl
@[simp] theorem State.onCluster_flogUsed (s : State) (cl : Nat) (f : Cluster → Cluster) : (s.onCluster cl f).flogUsed = s.flogUsed := rfl
@[simp] theorem State.onCluster_scrubHbm (s : State) (cl : Nat) (f : Cluster → Cluster) : (s.onCluster cl f).scrubHbm = s.scrubHbm := rfl
@[simp] theorem State.onCluster_scrubSram (s : State) (cl : Nat) (f : Cluster → Cluster) : (s.onCluster cl f).scrubSram = s.scrubSram := rfl
@[simp] theorem State.onCluster_hostUdp (s : State) (cl : Nat) (f : Cluster → Cluster) : (s.onCluster cl f).hostUdp = s.hostUdp := rfl
@[simp] theorem State.onCluster_hostDrop (s : State) (cl : Nat) (f : Cluster → Cluster) : (s.onCluster cl f).hostDrop = s.hostDrop := rfl
@[simp] theorem State.onCluster_evDest (s : State) (cl : Nat) (f : Cluster → Cluster) : (s.onCluster cl f).evDest = s.evDest := rfl
@[simp] theorem State.onCluster_sources (s : State) (cl : Nat) (f : Cluster → Cluster) : (s.onCluster cl f).sources = s.sources := rfl
@[simp] theorem State.onCluster_hostSeq (s : State) (cl : Nat) (f : Cluster → Cluster) : (s.onCluster cl f).hostSeq = s.hostSeq := rfl
@[simp] theorem State.onCluster_hostOut (s : State) (cl : Nat) (f : Cluster → Cluster) : (s.onCluster cl f).hostOut = s.hostOut := rfl
@[simp] theorem State.onCluster_unacked (s : State) (cl : Nat) (f : Cluster → Cluster) : (s.onCluster cl f).unacked = s.unacked := rfl
@[simp] theorem State.onCluster_portJobs (s : State) (cl : Nat) (f : Cluster → Cluster) : (s.onCluster cl f).portJobs = s.portJobs := rfl
@[simp] theorem State.onCluster_hostHeld (s : State) (cl : Nat) (f : Cluster → Cluster) : (s.onCluster cl f).hostHeld = s.hostHeld := rfl
@[simp] theorem State.onCluster_portUp (s : State) (cl : Nat) (f : Cluster → Cluster) : (s.onCluster cl f).portUp = s.portUp := rfl
@[simp] theorem State.onCluster_extReads (s : State) (cl : Nat) (f : Cluster → Cluster) : (s.onCluster cl f).extReads = s.extReads := rfl
@[simp] theorem State.onCluster_extWrites (s : State) (cl : Nat) (f : Cluster → Cluster) : (s.onCluster cl f).extWrites = s.extWrites := rfl
@[simp] theorem State.onCluster_extMsgs (s : State) (cl : Nat) (f : Cluster → Cluster) : (s.onCluster cl f).extMsgs = s.extMsgs := rfl
@[simp] theorem State.onCluster_nextExt (s : State) (cl : Nat) (f : Cluster → Cluster) : (s.onCluster cl f).nextExt = s.nextExt := rfl
@[simp] theorem State.onCluster_ports (s : State) (cl : Nat) (f : Cluster → Cluster) : (s.onCluster cl f).ports = s.ports := rfl
@[simp] theorem State.onCluster_ordel (s : State) (cl : Nat) (f : Cluster → Cluster) : (s.onCluster cl f).ordel = s.ordel := rfl
@[simp] theorem State.onCluster_cmap (s : State) (cl : Nat) (f : Cluster → Cluster) : (s.onCluster cl f).cmap = s.cmap := rfl
@[simp] theorem State.onCluster_view (s : State) (cl : Nat) (f : Cluster → Cluster) : (s.onCluster cl f).view = s.view := rfl
@[simp] theorem State.onCluster_cmapNew (s : State) (cl : Nat) (f : Cluster → Cluster) : (s.onCluster cl f).cmapNew = s.cmapNew := rfl
@[simp] theorem State.onCluster_smapNew (s : State) (cl : Nat) (f : Cluster → Cluster) : (s.onCluster cl f).smapNew = s.smapNew := rfl
@[simp] theorem State.onCluster_gen (s : State) (cl : Nat) (f : Cluster → Cluster) : (s.onCluster cl f).gen = s.gen := rfl
@[simp] theorem State.onCluster_changed (s : State) (cl : Nat) (f : Cluster → Cluster) : (s.onCluster cl f).changed = s.changed := rfl
@[simp] theorem State.onCluster_fresh (s : State) (cl : Nat) (f : Cluster → Cluster) : (s.onCluster cl f).fresh = s.fresh := rfl

/-! ## onDense -/

@[simp] theorem State.onDense_time (s : State) (cl : Nat) (f : Dense → Dense) : (s.onDense cl f).time = s.time := rfl
@[simp] theorem State.onDense_devns (s : State) (cl : Nat) (f : Dense → Dense) : (s.onDense cl f).devns = s.devns := rfl
@[simp] theorem State.onDense_devFrac (s : State) (cl : Nat) (f : Dense → Dense) : (s.onDense cl f).devFrac = s.devFrac := rfl
@[simp] theorem State.onDense_ppm (s : State) (cl : Nat) (f : Dense → Dense) : (s.onDense cl f).ppm = s.ppm := rfl
@[simp] theorem State.onDense_ptpLocked (s : State) (cl : Nat) (f : Dense → Dense) : (s.onDense cl f).ptpLocked = s.ptpLocked := rfl
@[simp] theorem State.onDense_ready (s : State) (cl : Nat) (f : Dense → Dense) : (s.onDense cl f).ready = s.ready := rfl
@[simp] theorem State.onDense_powered (s : State) (cl : Nat) (f : Dense → Dense) : (s.onDense cl f).powered = s.powered := rfl
@[simp] theorem State.onDense_cur (s : State) (cl : Nat) (f : Dense → Dense) : (s.onDense cl f).cur = s.cur := rfl
@[simp] theorem State.onDense_agenda (s : State) (cl : Nat) (f : Dense → Dense) : (s.onDense cl f).agenda = s.agenda := rfl
@[simp] theorem State.onDense_lateStores (s : State) (cl : Nat) (f : Dense → Dense) : (s.onDense cl f).lateStores = s.lateStores := rfl
@[simp] theorem State.onDense_quota (s : State) (cl : Nat) (f : Dense → Dense) : (s.onDense cl f).quota = s.quota := rfl
@[simp] theorem State.onDense_got (s : State) (cl : Nat) (f : Dense → Dense) : (s.onDense cl f).got = s.got := rfl
@[simp] theorem State.onDense_further (s : State) (cl : Nat) (f : Dense → Dense) : (s.onDense cl f).further = s.further := rfl
@[simp] theorem State.onDense_disturb (s : State) (cl : Nat) (f : Dense → Dense) : (s.onDense cl f).disturb = s.disturb := rfl
@[simp] theorem State.onDense_arg (s : State) (cl : Nat) (f : Dense → Dense) : (s.onDense cl f).arg = s.arg := rfl
@[simp] theorem State.onDense_mem (s : State) (cl : Nat) (f : Dense → Dense) : (s.onDense cl f).mem = s.mem := rfl
@[simp] theorem State.onDense_poison (s : State) (cl : Nat) (f : Dense → Dense) : (s.onDense cl f).poison = s.poison := rfl
@[simp] theorem State.onDense_soft (s : State) (cl : Nat) (f : Dense → Dense) : (s.onDense cl f).soft = s.soft := rfl
@[simp] theorem State.onDense_hard (s : State) (cl : Nat) (f : Dense → Dense) : (s.onDense cl f).hard = s.hard := rfl
@[simp] theorem State.onDense_smeta (s : State) (cl : Nat) (f : Dense → Dense) : (s.onDense cl f).smeta = s.smeta := rfl
@[simp] theorem State.onDense_flights (s : State) (cl : Nat) (f : Dense → Dense) : (s.onDense cl f).flights = s.flights := rfl
@[simp] theorem State.onDense_cores (s : State) (cl : Nat) (f : Dense → Dense) : (s.onDense cl f).cores = s.cores := rfl
@[simp] theorem State.onDense_sups (s : State) (cl : Nat) (f : Dense → Dense) : (s.onDense cl f).sups = s.sups := rfl
@[simp] theorem State.onDense_ptRoot (s : State) (cl : Nat) (f : Dense → Dense) : (s.onDense cl f).ptRoot = s.ptRoot := rfl
@[simp] theorem State.onDense_missForm (s : State) (cl : Nat) (f : Dense → Dense) : (s.onDense cl f).missForm = s.missForm := rfl
@[simp] theorem State.onDense_sysMap (s : State) (cl : Nat) (f : Dense → Dense) : (s.onDense cl f).sysMap = s.sysMap := rfl
@[simp] theorem State.onDense_sysCached (s : State) (cl : Nat) (f : Dense → Dense) : (s.onDense cl f).sysCached = s.sysCached := rfl
@[simp] theorem State.onDense_windows (s : State) (cl : Nat) (f : Dense → Dense) : (s.onDense cl f).windows = s.windows := rfl
@[simp] theorem State.onDense_launches (s : State) (cl : Nat) (f : Dense → Dense) : (s.onDense cl f).launches = s.launches := rfl
@[simp] theorem State.onDense_nextLaunch (s : State) (cl : Nat) (f : Dense → Dense) : (s.onDense cl f).nextLaunch = s.nextLaunch := rfl
@[simp] theorem State.onDense_nextId (s : State) (cl : Nat) (f : Dense → Dense) : (s.onDense cl f).nextId = s.nextId := rfl
@[simp] theorem State.onDense_markersOut (s : State) (cl : Nat) (f : Dense → Dense) : (s.onDense cl f).markersOut = s.markersOut := rfl
@[simp] theorem State.onDense_preemptMargin (s : State) (cl : Nat) (f : Dense → Dense) : (s.onDense cl f).preemptMargin = s.preemptMargin := rfl
@[simp] theorem State.onDense_flogBase (s : State) (cl : Nat) (f : Dense → Dense) : (s.onDense cl f).flogBase = s.flogBase := rfl
@[simp] theorem State.onDense_flogHead (s : State) (cl : Nat) (f : Dense → Dense) : (s.onDense cl f).flogHead = s.flogHead := rfl
@[simp] theorem State.onDense_flogN (s : State) (cl : Nat) (f : Dense → Dense) : (s.onDense cl f).flogN = s.flogN := rfl
@[simp] theorem State.onDense_flogDrop (s : State) (cl : Nat) (f : Dense → Dense) : (s.onDense cl f).flogDrop = s.flogDrop := rfl
@[simp] theorem State.onDense_flogUsed (s : State) (cl : Nat) (f : Dense → Dense) : (s.onDense cl f).flogUsed = s.flogUsed := rfl
@[simp] theorem State.onDense_scrubHbm (s : State) (cl : Nat) (f : Dense → Dense) : (s.onDense cl f).scrubHbm = s.scrubHbm := rfl
@[simp] theorem State.onDense_scrubSram (s : State) (cl : Nat) (f : Dense → Dense) : (s.onDense cl f).scrubSram = s.scrubSram := rfl
@[simp] theorem State.onDense_hostUdp (s : State) (cl : Nat) (f : Dense → Dense) : (s.onDense cl f).hostUdp = s.hostUdp := rfl
@[simp] theorem State.onDense_hostDrop (s : State) (cl : Nat) (f : Dense → Dense) : (s.onDense cl f).hostDrop = s.hostDrop := rfl
@[simp] theorem State.onDense_evDest (s : State) (cl : Nat) (f : Dense → Dense) : (s.onDense cl f).evDest = s.evDest := rfl
@[simp] theorem State.onDense_sources (s : State) (cl : Nat) (f : Dense → Dense) : (s.onDense cl f).sources = s.sources := rfl
@[simp] theorem State.onDense_hostSeq (s : State) (cl : Nat) (f : Dense → Dense) : (s.onDense cl f).hostSeq = s.hostSeq := rfl
@[simp] theorem State.onDense_hostOut (s : State) (cl : Nat) (f : Dense → Dense) : (s.onDense cl f).hostOut = s.hostOut := rfl
@[simp] theorem State.onDense_unacked (s : State) (cl : Nat) (f : Dense → Dense) : (s.onDense cl f).unacked = s.unacked := rfl
@[simp] theorem State.onDense_portJobs (s : State) (cl : Nat) (f : Dense → Dense) : (s.onDense cl f).portJobs = s.portJobs := rfl
@[simp] theorem State.onDense_hostHeld (s : State) (cl : Nat) (f : Dense → Dense) : (s.onDense cl f).hostHeld = s.hostHeld := rfl
@[simp] theorem State.onDense_portUp (s : State) (cl : Nat) (f : Dense → Dense) : (s.onDense cl f).portUp = s.portUp := rfl
@[simp] theorem State.onDense_extReads (s : State) (cl : Nat) (f : Dense → Dense) : (s.onDense cl f).extReads = s.extReads := rfl
@[simp] theorem State.onDense_extWrites (s : State) (cl : Nat) (f : Dense → Dense) : (s.onDense cl f).extWrites = s.extWrites := rfl
@[simp] theorem State.onDense_extMsgs (s : State) (cl : Nat) (f : Dense → Dense) : (s.onDense cl f).extMsgs = s.extMsgs := rfl
@[simp] theorem State.onDense_nextExt (s : State) (cl : Nat) (f : Dense → Dense) : (s.onDense cl f).nextExt = s.nextExt := rfl
@[simp] theorem State.onDense_ports (s : State) (cl : Nat) (f : Dense → Dense) : (s.onDense cl f).ports = s.ports := rfl
@[simp] theorem State.onDense_ordel (s : State) (cl : Nat) (f : Dense → Dense) : (s.onDense cl f).ordel = s.ordel := rfl
@[simp] theorem State.onDense_cmap (s : State) (cl : Nat) (f : Dense → Dense) : (s.onDense cl f).cmap = s.cmap := rfl
@[simp] theorem State.onDense_view (s : State) (cl : Nat) (f : Dense → Dense) : (s.onDense cl f).view = s.view := rfl
@[simp] theorem State.onDense_cmapNew (s : State) (cl : Nat) (f : Dense → Dense) : (s.onDense cl f).cmapNew = s.cmapNew := rfl
@[simp] theorem State.onDense_smapNew (s : State) (cl : Nat) (f : Dense → Dense) : (s.onDense cl f).smapNew = s.smapNew := rfl
@[simp] theorem State.onDense_gen (s : State) (cl : Nat) (f : Dense → Dense) : (s.onDense cl f).gen = s.gen := rfl
@[simp] theorem State.onDense_changed (s : State) (cl : Nat) (f : Dense → Dense) : (s.onDense cl f).changed = s.changed := rfl
@[simp] theorem State.onDense_fresh (s : State) (cl : Nat) (f : Dense → Dense) : (s.onDense cl f).fresh = s.fresh := rfl

/-! ## onCe -/

@[simp] theorem State.onCe_time (s : State) (cl : Nat) (f : CopyEng → CopyEng) : (s.onCe cl f).time = s.time := rfl
@[simp] theorem State.onCe_devns (s : State) (cl : Nat) (f : CopyEng → CopyEng) : (s.onCe cl f).devns = s.devns := rfl
@[simp] theorem State.onCe_devFrac (s : State) (cl : Nat) (f : CopyEng → CopyEng) : (s.onCe cl f).devFrac = s.devFrac := rfl
@[simp] theorem State.onCe_ppm (s : State) (cl : Nat) (f : CopyEng → CopyEng) : (s.onCe cl f).ppm = s.ppm := rfl
@[simp] theorem State.onCe_ptpLocked (s : State) (cl : Nat) (f : CopyEng → CopyEng) : (s.onCe cl f).ptpLocked = s.ptpLocked := rfl
@[simp] theorem State.onCe_ready (s : State) (cl : Nat) (f : CopyEng → CopyEng) : (s.onCe cl f).ready = s.ready := rfl
@[simp] theorem State.onCe_powered (s : State) (cl : Nat) (f : CopyEng → CopyEng) : (s.onCe cl f).powered = s.powered := rfl
@[simp] theorem State.onCe_cur (s : State) (cl : Nat) (f : CopyEng → CopyEng) : (s.onCe cl f).cur = s.cur := rfl
@[simp] theorem State.onCe_agenda (s : State) (cl : Nat) (f : CopyEng → CopyEng) : (s.onCe cl f).agenda = s.agenda := rfl
@[simp] theorem State.onCe_lateStores (s : State) (cl : Nat) (f : CopyEng → CopyEng) : (s.onCe cl f).lateStores = s.lateStores := rfl
@[simp] theorem State.onCe_quota (s : State) (cl : Nat) (f : CopyEng → CopyEng) : (s.onCe cl f).quota = s.quota := rfl
@[simp] theorem State.onCe_got (s : State) (cl : Nat) (f : CopyEng → CopyEng) : (s.onCe cl f).got = s.got := rfl
@[simp] theorem State.onCe_further (s : State) (cl : Nat) (f : CopyEng → CopyEng) : (s.onCe cl f).further = s.further := rfl
@[simp] theorem State.onCe_disturb (s : State) (cl : Nat) (f : CopyEng → CopyEng) : (s.onCe cl f).disturb = s.disturb := rfl
@[simp] theorem State.onCe_arg (s : State) (cl : Nat) (f : CopyEng → CopyEng) : (s.onCe cl f).arg = s.arg := rfl
@[simp] theorem State.onCe_mem (s : State) (cl : Nat) (f : CopyEng → CopyEng) : (s.onCe cl f).mem = s.mem := rfl
@[simp] theorem State.onCe_poison (s : State) (cl : Nat) (f : CopyEng → CopyEng) : (s.onCe cl f).poison = s.poison := rfl
@[simp] theorem State.onCe_soft (s : State) (cl : Nat) (f : CopyEng → CopyEng) : (s.onCe cl f).soft = s.soft := rfl
@[simp] theorem State.onCe_hard (s : State) (cl : Nat) (f : CopyEng → CopyEng) : (s.onCe cl f).hard = s.hard := rfl
@[simp] theorem State.onCe_smeta (s : State) (cl : Nat) (f : CopyEng → CopyEng) : (s.onCe cl f).smeta = s.smeta := rfl
@[simp] theorem State.onCe_flights (s : State) (cl : Nat) (f : CopyEng → CopyEng) : (s.onCe cl f).flights = s.flights := rfl
@[simp] theorem State.onCe_cores (s : State) (cl : Nat) (f : CopyEng → CopyEng) : (s.onCe cl f).cores = s.cores := rfl
@[simp] theorem State.onCe_sups (s : State) (cl : Nat) (f : CopyEng → CopyEng) : (s.onCe cl f).sups = s.sups := rfl
@[simp] theorem State.onCe_ptRoot (s : State) (cl : Nat) (f : CopyEng → CopyEng) : (s.onCe cl f).ptRoot = s.ptRoot := rfl
@[simp] theorem State.onCe_missForm (s : State) (cl : Nat) (f : CopyEng → CopyEng) : (s.onCe cl f).missForm = s.missForm := rfl
@[simp] theorem State.onCe_sysMap (s : State) (cl : Nat) (f : CopyEng → CopyEng) : (s.onCe cl f).sysMap = s.sysMap := rfl
@[simp] theorem State.onCe_sysCached (s : State) (cl : Nat) (f : CopyEng → CopyEng) : (s.onCe cl f).sysCached = s.sysCached := rfl
@[simp] theorem State.onCe_windows (s : State) (cl : Nat) (f : CopyEng → CopyEng) : (s.onCe cl f).windows = s.windows := rfl
@[simp] theorem State.onCe_launches (s : State) (cl : Nat) (f : CopyEng → CopyEng) : (s.onCe cl f).launches = s.launches := rfl
@[simp] theorem State.onCe_nextLaunch (s : State) (cl : Nat) (f : CopyEng → CopyEng) : (s.onCe cl f).nextLaunch = s.nextLaunch := rfl
@[simp] theorem State.onCe_nextId (s : State) (cl : Nat) (f : CopyEng → CopyEng) : (s.onCe cl f).nextId = s.nextId := rfl
@[simp] theorem State.onCe_markersOut (s : State) (cl : Nat) (f : CopyEng → CopyEng) : (s.onCe cl f).markersOut = s.markersOut := rfl
@[simp] theorem State.onCe_preemptMargin (s : State) (cl : Nat) (f : CopyEng → CopyEng) : (s.onCe cl f).preemptMargin = s.preemptMargin := rfl
@[simp] theorem State.onCe_flogBase (s : State) (cl : Nat) (f : CopyEng → CopyEng) : (s.onCe cl f).flogBase = s.flogBase := rfl
@[simp] theorem State.onCe_flogHead (s : State) (cl : Nat) (f : CopyEng → CopyEng) : (s.onCe cl f).flogHead = s.flogHead := rfl
@[simp] theorem State.onCe_flogN (s : State) (cl : Nat) (f : CopyEng → CopyEng) : (s.onCe cl f).flogN = s.flogN := rfl
@[simp] theorem State.onCe_flogDrop (s : State) (cl : Nat) (f : CopyEng → CopyEng) : (s.onCe cl f).flogDrop = s.flogDrop := rfl
@[simp] theorem State.onCe_flogUsed (s : State) (cl : Nat) (f : CopyEng → CopyEng) : (s.onCe cl f).flogUsed = s.flogUsed := rfl
@[simp] theorem State.onCe_scrubHbm (s : State) (cl : Nat) (f : CopyEng → CopyEng) : (s.onCe cl f).scrubHbm = s.scrubHbm := rfl
@[simp] theorem State.onCe_scrubSram (s : State) (cl : Nat) (f : CopyEng → CopyEng) : (s.onCe cl f).scrubSram = s.scrubSram := rfl
@[simp] theorem State.onCe_hostUdp (s : State) (cl : Nat) (f : CopyEng → CopyEng) : (s.onCe cl f).hostUdp = s.hostUdp := rfl
@[simp] theorem State.onCe_hostDrop (s : State) (cl : Nat) (f : CopyEng → CopyEng) : (s.onCe cl f).hostDrop = s.hostDrop := rfl
@[simp] theorem State.onCe_evDest (s : State) (cl : Nat) (f : CopyEng → CopyEng) : (s.onCe cl f).evDest = s.evDest := rfl
@[simp] theorem State.onCe_sources (s : State) (cl : Nat) (f : CopyEng → CopyEng) : (s.onCe cl f).sources = s.sources := rfl
@[simp] theorem State.onCe_hostSeq (s : State) (cl : Nat) (f : CopyEng → CopyEng) : (s.onCe cl f).hostSeq = s.hostSeq := rfl
@[simp] theorem State.onCe_hostOut (s : State) (cl : Nat) (f : CopyEng → CopyEng) : (s.onCe cl f).hostOut = s.hostOut := rfl
@[simp] theorem State.onCe_unacked (s : State) (cl : Nat) (f : CopyEng → CopyEng) : (s.onCe cl f).unacked = s.unacked := rfl
@[simp] theorem State.onCe_portJobs (s : State) (cl : Nat) (f : CopyEng → CopyEng) : (s.onCe cl f).portJobs = s.portJobs := rfl
@[simp] theorem State.onCe_hostHeld (s : State) (cl : Nat) (f : CopyEng → CopyEng) : (s.onCe cl f).hostHeld = s.hostHeld := rfl
@[simp] theorem State.onCe_portUp (s : State) (cl : Nat) (f : CopyEng → CopyEng) : (s.onCe cl f).portUp = s.portUp := rfl
@[simp] theorem State.onCe_extReads (s : State) (cl : Nat) (f : CopyEng → CopyEng) : (s.onCe cl f).extReads = s.extReads := rfl
@[simp] theorem State.onCe_extWrites (s : State) (cl : Nat) (f : CopyEng → CopyEng) : (s.onCe cl f).extWrites = s.extWrites := rfl
@[simp] theorem State.onCe_extMsgs (s : State) (cl : Nat) (f : CopyEng → CopyEng) : (s.onCe cl f).extMsgs = s.extMsgs := rfl
@[simp] theorem State.onCe_nextExt (s : State) (cl : Nat) (f : CopyEng → CopyEng) : (s.onCe cl f).nextExt = s.nextExt := rfl
@[simp] theorem State.onCe_ports (s : State) (cl : Nat) (f : CopyEng → CopyEng) : (s.onCe cl f).ports = s.ports := rfl
@[simp] theorem State.onCe_ordel (s : State) (cl : Nat) (f : CopyEng → CopyEng) : (s.onCe cl f).ordel = s.ordel := rfl
@[simp] theorem State.onCe_cmap (s : State) (cl : Nat) (f : CopyEng → CopyEng) : (s.onCe cl f).cmap = s.cmap := rfl
@[simp] theorem State.onCe_view (s : State) (cl : Nat) (f : CopyEng → CopyEng) : (s.onCe cl f).view = s.view := rfl
@[simp] theorem State.onCe_cmapNew (s : State) (cl : Nat) (f : CopyEng → CopyEng) : (s.onCe cl f).cmapNew = s.cmapNew := rfl
@[simp] theorem State.onCe_smapNew (s : State) (cl : Nat) (f : CopyEng → CopyEng) : (s.onCe cl f).smapNew = s.smapNew := rfl
@[simp] theorem State.onCe_gen (s : State) (cl : Nat) (f : CopyEng → CopyEng) : (s.onCe cl f).gen = s.gen := rfl
@[simp] theorem State.onCe_changed (s : State) (cl : Nat) (f : CopyEng → CopyEng) : (s.onCe cl f).changed = s.changed := rfl
@[simp] theorem State.onCe_fresh (s : State) (cl : Nat) (f : CopyEng → CopyEng) : (s.onCe cl f).fresh = s.fresh := rfl

/-! ## onEpi -/

@[simp] theorem State.onEpi_time (s : State) (cl e : Nat) (f : Epi → Epi) : (s.onEpi cl e f).time = s.time := rfl
@[simp] theorem State.onEpi_devns (s : State) (cl e : Nat) (f : Epi → Epi) : (s.onEpi cl e f).devns = s.devns := rfl
@[simp] theorem State.onEpi_devFrac (s : State) (cl e : Nat) (f : Epi → Epi) : (s.onEpi cl e f).devFrac = s.devFrac := rfl
@[simp] theorem State.onEpi_ppm (s : State) (cl e : Nat) (f : Epi → Epi) : (s.onEpi cl e f).ppm = s.ppm := rfl
@[simp] theorem State.onEpi_ptpLocked (s : State) (cl e : Nat) (f : Epi → Epi) : (s.onEpi cl e f).ptpLocked = s.ptpLocked := rfl
@[simp] theorem State.onEpi_ready (s : State) (cl e : Nat) (f : Epi → Epi) : (s.onEpi cl e f).ready = s.ready := rfl
@[simp] theorem State.onEpi_powered (s : State) (cl e : Nat) (f : Epi → Epi) : (s.onEpi cl e f).powered = s.powered := rfl
@[simp] theorem State.onEpi_cur (s : State) (cl e : Nat) (f : Epi → Epi) : (s.onEpi cl e f).cur = s.cur := rfl
@[simp] theorem State.onEpi_agenda (s : State) (cl e : Nat) (f : Epi → Epi) : (s.onEpi cl e f).agenda = s.agenda := rfl
@[simp] theorem State.onEpi_lateStores (s : State) (cl e : Nat) (f : Epi → Epi) : (s.onEpi cl e f).lateStores = s.lateStores := rfl
@[simp] theorem State.onEpi_quota (s : State) (cl e : Nat) (f : Epi → Epi) : (s.onEpi cl e f).quota = s.quota := rfl
@[simp] theorem State.onEpi_got (s : State) (cl e : Nat) (f : Epi → Epi) : (s.onEpi cl e f).got = s.got := rfl
@[simp] theorem State.onEpi_further (s : State) (cl e : Nat) (f : Epi → Epi) : (s.onEpi cl e f).further = s.further := rfl
@[simp] theorem State.onEpi_disturb (s : State) (cl e : Nat) (f : Epi → Epi) : (s.onEpi cl e f).disturb = s.disturb := rfl
@[simp] theorem State.onEpi_arg (s : State) (cl e : Nat) (f : Epi → Epi) : (s.onEpi cl e f).arg = s.arg := rfl
@[simp] theorem State.onEpi_mem (s : State) (cl e : Nat) (f : Epi → Epi) : (s.onEpi cl e f).mem = s.mem := rfl
@[simp] theorem State.onEpi_poison (s : State) (cl e : Nat) (f : Epi → Epi) : (s.onEpi cl e f).poison = s.poison := rfl
@[simp] theorem State.onEpi_soft (s : State) (cl e : Nat) (f : Epi → Epi) : (s.onEpi cl e f).soft = s.soft := rfl
@[simp] theorem State.onEpi_hard (s : State) (cl e : Nat) (f : Epi → Epi) : (s.onEpi cl e f).hard = s.hard := rfl
@[simp] theorem State.onEpi_smeta (s : State) (cl e : Nat) (f : Epi → Epi) : (s.onEpi cl e f).smeta = s.smeta := rfl
@[simp] theorem State.onEpi_flights (s : State) (cl e : Nat) (f : Epi → Epi) : (s.onEpi cl e f).flights = s.flights := rfl
@[simp] theorem State.onEpi_cores (s : State) (cl e : Nat) (f : Epi → Epi) : (s.onEpi cl e f).cores = s.cores := rfl
@[simp] theorem State.onEpi_sups (s : State) (cl e : Nat) (f : Epi → Epi) : (s.onEpi cl e f).sups = s.sups := rfl
@[simp] theorem State.onEpi_ptRoot (s : State) (cl e : Nat) (f : Epi → Epi) : (s.onEpi cl e f).ptRoot = s.ptRoot := rfl
@[simp] theorem State.onEpi_missForm (s : State) (cl e : Nat) (f : Epi → Epi) : (s.onEpi cl e f).missForm = s.missForm := rfl
@[simp] theorem State.onEpi_sysMap (s : State) (cl e : Nat) (f : Epi → Epi) : (s.onEpi cl e f).sysMap = s.sysMap := rfl
@[simp] theorem State.onEpi_sysCached (s : State) (cl e : Nat) (f : Epi → Epi) : (s.onEpi cl e f).sysCached = s.sysCached := rfl
@[simp] theorem State.onEpi_windows (s : State) (cl e : Nat) (f : Epi → Epi) : (s.onEpi cl e f).windows = s.windows := rfl
@[simp] theorem State.onEpi_launches (s : State) (cl e : Nat) (f : Epi → Epi) : (s.onEpi cl e f).launches = s.launches := rfl
@[simp] theorem State.onEpi_nextLaunch (s : State) (cl e : Nat) (f : Epi → Epi) : (s.onEpi cl e f).nextLaunch = s.nextLaunch := rfl
@[simp] theorem State.onEpi_nextId (s : State) (cl e : Nat) (f : Epi → Epi) : (s.onEpi cl e f).nextId = s.nextId := rfl
@[simp] theorem State.onEpi_markersOut (s : State) (cl e : Nat) (f : Epi → Epi) : (s.onEpi cl e f).markersOut = s.markersOut := rfl
@[simp] theorem State.onEpi_preemptMargin (s : State) (cl e : Nat) (f : Epi → Epi) : (s.onEpi cl e f).preemptMargin = s.preemptMargin := rfl
@[simp] theorem State.onEpi_flogBase (s : State) (cl e : Nat) (f : Epi → Epi) : (s.onEpi cl e f).flogBase = s.flogBase := rfl
@[simp] theorem State.onEpi_flogHead (s : State) (cl e : Nat) (f : Epi → Epi) : (s.onEpi cl e f).flogHead = s.flogHead := rfl
@[simp] theorem State.onEpi_flogN (s : State) (cl e : Nat) (f : Epi → Epi) : (s.onEpi cl e f).flogN = s.flogN := rfl
@[simp] theorem State.onEpi_flogDrop (s : State) (cl e : Nat) (f : Epi → Epi) : (s.onEpi cl e f).flogDrop = s.flogDrop := rfl
@[simp] theorem State.onEpi_flogUsed (s : State) (cl e : Nat) (f : Epi → Epi) : (s.onEpi cl e f).flogUsed = s.flogUsed := rfl
@[simp] theorem State.onEpi_scrubHbm (s : State) (cl e : Nat) (f : Epi → Epi) : (s.onEpi cl e f).scrubHbm = s.scrubHbm := rfl
@[simp] theorem State.onEpi_scrubSram (s : State) (cl e : Nat) (f : Epi → Epi) : (s.onEpi cl e f).scrubSram = s.scrubSram := rfl
@[simp] theorem State.onEpi_hostUdp (s : State) (cl e : Nat) (f : Epi → Epi) : (s.onEpi cl e f).hostUdp = s.hostUdp := rfl
@[simp] theorem State.onEpi_hostDrop (s : State) (cl e : Nat) (f : Epi → Epi) : (s.onEpi cl e f).hostDrop = s.hostDrop := rfl
@[simp] theorem State.onEpi_evDest (s : State) (cl e : Nat) (f : Epi → Epi) : (s.onEpi cl e f).evDest = s.evDest := rfl
@[simp] theorem State.onEpi_sources (s : State) (cl e : Nat) (f : Epi → Epi) : (s.onEpi cl e f).sources = s.sources := rfl
@[simp] theorem State.onEpi_hostSeq (s : State) (cl e : Nat) (f : Epi → Epi) : (s.onEpi cl e f).hostSeq = s.hostSeq := rfl
@[simp] theorem State.onEpi_hostOut (s : State) (cl e : Nat) (f : Epi → Epi) : (s.onEpi cl e f).hostOut = s.hostOut := rfl
@[simp] theorem State.onEpi_unacked (s : State) (cl e : Nat) (f : Epi → Epi) : (s.onEpi cl e f).unacked = s.unacked := rfl
@[simp] theorem State.onEpi_portJobs (s : State) (cl e : Nat) (f : Epi → Epi) : (s.onEpi cl e f).portJobs = s.portJobs := rfl
@[simp] theorem State.onEpi_hostHeld (s : State) (cl e : Nat) (f : Epi → Epi) : (s.onEpi cl e f).hostHeld = s.hostHeld := rfl
@[simp] theorem State.onEpi_portUp (s : State) (cl e : Nat) (f : Epi → Epi) : (s.onEpi cl e f).portUp = s.portUp := rfl
@[simp] theorem State.onEpi_extReads (s : State) (cl e : Nat) (f : Epi → Epi) : (s.onEpi cl e f).extReads = s.extReads := rfl
@[simp] theorem State.onEpi_extWrites (s : State) (cl e : Nat) (f : Epi → Epi) : (s.onEpi cl e f).extWrites = s.extWrites := rfl
@[simp] theorem State.onEpi_extMsgs (s : State) (cl e : Nat) (f : Epi → Epi) : (s.onEpi cl e f).extMsgs = s.extMsgs := rfl
@[simp] theorem State.onEpi_nextExt (s : State) (cl e : Nat) (f : Epi → Epi) : (s.onEpi cl e f).nextExt = s.nextExt := rfl
@[simp] theorem State.onEpi_ports (s : State) (cl e : Nat) (f : Epi → Epi) : (s.onEpi cl e f).ports = s.ports := rfl
@[simp] theorem State.onEpi_ordel (s : State) (cl e : Nat) (f : Epi → Epi) : (s.onEpi cl e f).ordel = s.ordel := rfl
@[simp] theorem State.onEpi_cmap (s : State) (cl e : Nat) (f : Epi → Epi) : (s.onEpi cl e f).cmap = s.cmap := rfl
@[simp] theorem State.onEpi_view (s : State) (cl e : Nat) (f : Epi → Epi) : (s.onEpi cl e f).view = s.view := rfl
@[simp] theorem State.onEpi_cmapNew (s : State) (cl e : Nat) (f : Epi → Epi) : (s.onEpi cl e f).cmapNew = s.cmapNew := rfl
@[simp] theorem State.onEpi_smapNew (s : State) (cl e : Nat) (f : Epi → Epi) : (s.onEpi cl e f).smapNew = s.smapNew := rfl
@[simp] theorem State.onEpi_gen (s : State) (cl e : Nat) (f : Epi → Epi) : (s.onEpi cl e f).gen = s.gen := rfl
@[simp] theorem State.onEpi_changed (s : State) (cl e : Nat) (f : Epi → Epi) : (s.onEpi cl e f).changed = s.changed := rfl
@[simp] theorem State.onEpi_fresh (s : State) (cl e : Nat) (f : Epi → Epi) : (s.onEpi cl e f).fresh = s.fresh := rfl

/-! ## onSup -/

@[simp] theorem State.onSup_time (s : State) (n : Nat) (f : Sup → Sup) : (s.onSup n f).time = s.time := rfl
@[simp] theorem State.onSup_devns (s : State) (n : Nat) (f : Sup → Sup) : (s.onSup n f).devns = s.devns := rfl
@[simp] theorem State.onSup_devFrac (s : State) (n : Nat) (f : Sup → Sup) : (s.onSup n f).devFrac = s.devFrac := rfl
@[simp] theorem State.onSup_ppm (s : State) (n : Nat) (f : Sup → Sup) : (s.onSup n f).ppm = s.ppm := rfl
@[simp] theorem State.onSup_ptpLocked (s : State) (n : Nat) (f : Sup → Sup) : (s.onSup n f).ptpLocked = s.ptpLocked := rfl
@[simp] theorem State.onSup_ready (s : State) (n : Nat) (f : Sup → Sup) : (s.onSup n f).ready = s.ready := rfl
@[simp] theorem State.onSup_powered (s : State) (n : Nat) (f : Sup → Sup) : (s.onSup n f).powered = s.powered := rfl
@[simp] theorem State.onSup_cur (s : State) (n : Nat) (f : Sup → Sup) : (s.onSup n f).cur = s.cur := rfl
@[simp] theorem State.onSup_agenda (s : State) (n : Nat) (f : Sup → Sup) : (s.onSup n f).agenda = s.agenda := rfl
@[simp] theorem State.onSup_lateStores (s : State) (n : Nat) (f : Sup → Sup) : (s.onSup n f).lateStores = s.lateStores := rfl
@[simp] theorem State.onSup_quota (s : State) (n : Nat) (f : Sup → Sup) : (s.onSup n f).quota = s.quota := rfl
@[simp] theorem State.onSup_got (s : State) (n : Nat) (f : Sup → Sup) : (s.onSup n f).got = s.got := rfl
@[simp] theorem State.onSup_further (s : State) (n : Nat) (f : Sup → Sup) : (s.onSup n f).further = s.further := rfl
@[simp] theorem State.onSup_disturb (s : State) (n : Nat) (f : Sup → Sup) : (s.onSup n f).disturb = s.disturb := rfl
@[simp] theorem State.onSup_arg (s : State) (n : Nat) (f : Sup → Sup) : (s.onSup n f).arg = s.arg := rfl
@[simp] theorem State.onSup_mem (s : State) (n : Nat) (f : Sup → Sup) : (s.onSup n f).mem = s.mem := rfl
@[simp] theorem State.onSup_poison (s : State) (n : Nat) (f : Sup → Sup) : (s.onSup n f).poison = s.poison := rfl
@[simp] theorem State.onSup_soft (s : State) (n : Nat) (f : Sup → Sup) : (s.onSup n f).soft = s.soft := rfl
@[simp] theorem State.onSup_hard (s : State) (n : Nat) (f : Sup → Sup) : (s.onSup n f).hard = s.hard := rfl
@[simp] theorem State.onSup_smeta (s : State) (n : Nat) (f : Sup → Sup) : (s.onSup n f).smeta = s.smeta := rfl
@[simp] theorem State.onSup_flights (s : State) (n : Nat) (f : Sup → Sup) : (s.onSup n f).flights = s.flights := rfl
@[simp] theorem State.onSup_cores (s : State) (n : Nat) (f : Sup → Sup) : (s.onSup n f).cores = s.cores := rfl
@[simp] theorem State.onSup_clusters (s : State) (n : Nat) (f : Sup → Sup) : (s.onSup n f).clusters = s.clusters := rfl
@[simp] theorem State.onSup_ptRoot (s : State) (n : Nat) (f : Sup → Sup) : (s.onSup n f).ptRoot = s.ptRoot := rfl
@[simp] theorem State.onSup_missForm (s : State) (n : Nat) (f : Sup → Sup) : (s.onSup n f).missForm = s.missForm := rfl
@[simp] theorem State.onSup_sysMap (s : State) (n : Nat) (f : Sup → Sup) : (s.onSup n f).sysMap = s.sysMap := rfl
@[simp] theorem State.onSup_sysCached (s : State) (n : Nat) (f : Sup → Sup) : (s.onSup n f).sysCached = s.sysCached := rfl
@[simp] theorem State.onSup_windows (s : State) (n : Nat) (f : Sup → Sup) : (s.onSup n f).windows = s.windows := rfl
@[simp] theorem State.onSup_launches (s : State) (n : Nat) (f : Sup → Sup) : (s.onSup n f).launches = s.launches := rfl
@[simp] theorem State.onSup_nextLaunch (s : State) (n : Nat) (f : Sup → Sup) : (s.onSup n f).nextLaunch = s.nextLaunch := rfl
@[simp] theorem State.onSup_nextId (s : State) (n : Nat) (f : Sup → Sup) : (s.onSup n f).nextId = s.nextId := rfl
@[simp] theorem State.onSup_markersOut (s : State) (n : Nat) (f : Sup → Sup) : (s.onSup n f).markersOut = s.markersOut := rfl
@[simp] theorem State.onSup_preemptMargin (s : State) (n : Nat) (f : Sup → Sup) : (s.onSup n f).preemptMargin = s.preemptMargin := rfl
@[simp] theorem State.onSup_flogBase (s : State) (n : Nat) (f : Sup → Sup) : (s.onSup n f).flogBase = s.flogBase := rfl
@[simp] theorem State.onSup_flogHead (s : State) (n : Nat) (f : Sup → Sup) : (s.onSup n f).flogHead = s.flogHead := rfl
@[simp] theorem State.onSup_flogN (s : State) (n : Nat) (f : Sup → Sup) : (s.onSup n f).flogN = s.flogN := rfl
@[simp] theorem State.onSup_flogDrop (s : State) (n : Nat) (f : Sup → Sup) : (s.onSup n f).flogDrop = s.flogDrop := rfl
@[simp] theorem State.onSup_flogUsed (s : State) (n : Nat) (f : Sup → Sup) : (s.onSup n f).flogUsed = s.flogUsed := rfl
@[simp] theorem State.onSup_scrubHbm (s : State) (n : Nat) (f : Sup → Sup) : (s.onSup n f).scrubHbm = s.scrubHbm := rfl
@[simp] theorem State.onSup_scrubSram (s : State) (n : Nat) (f : Sup → Sup) : (s.onSup n f).scrubSram = s.scrubSram := rfl
@[simp] theorem State.onSup_hostUdp (s : State) (n : Nat) (f : Sup → Sup) : (s.onSup n f).hostUdp = s.hostUdp := rfl
@[simp] theorem State.onSup_hostDrop (s : State) (n : Nat) (f : Sup → Sup) : (s.onSup n f).hostDrop = s.hostDrop := rfl
@[simp] theorem State.onSup_evDest (s : State) (n : Nat) (f : Sup → Sup) : (s.onSup n f).evDest = s.evDest := rfl
@[simp] theorem State.onSup_sources (s : State) (n : Nat) (f : Sup → Sup) : (s.onSup n f).sources = s.sources := rfl
@[simp] theorem State.onSup_hostSeq (s : State) (n : Nat) (f : Sup → Sup) : (s.onSup n f).hostSeq = s.hostSeq := rfl
@[simp] theorem State.onSup_hostOut (s : State) (n : Nat) (f : Sup → Sup) : (s.onSup n f).hostOut = s.hostOut := rfl
@[simp] theorem State.onSup_unacked (s : State) (n : Nat) (f : Sup → Sup) : (s.onSup n f).unacked = s.unacked := rfl
@[simp] theorem State.onSup_portJobs (s : State) (n : Nat) (f : Sup → Sup) : (s.onSup n f).portJobs = s.portJobs := rfl
@[simp] theorem State.onSup_hostHeld (s : State) (n : Nat) (f : Sup → Sup) : (s.onSup n f).hostHeld = s.hostHeld := rfl
@[simp] theorem State.onSup_portUp (s : State) (n : Nat) (f : Sup → Sup) : (s.onSup n f).portUp = s.portUp := rfl
@[simp] theorem State.onSup_extReads (s : State) (n : Nat) (f : Sup → Sup) : (s.onSup n f).extReads = s.extReads := rfl
@[simp] theorem State.onSup_extWrites (s : State) (n : Nat) (f : Sup → Sup) : (s.onSup n f).extWrites = s.extWrites := rfl
@[simp] theorem State.onSup_extMsgs (s : State) (n : Nat) (f : Sup → Sup) : (s.onSup n f).extMsgs = s.extMsgs := rfl
@[simp] theorem State.onSup_nextExt (s : State) (n : Nat) (f : Sup → Sup) : (s.onSup n f).nextExt = s.nextExt := rfl
@[simp] theorem State.onSup_ports (s : State) (n : Nat) (f : Sup → Sup) : (s.onSup n f).ports = s.ports := rfl
@[simp] theorem State.onSup_ordel (s : State) (n : Nat) (f : Sup → Sup) : (s.onSup n f).ordel = s.ordel := rfl
@[simp] theorem State.onSup_cmap (s : State) (n : Nat) (f : Sup → Sup) : (s.onSup n f).cmap = s.cmap := rfl
@[simp] theorem State.onSup_view (s : State) (n : Nat) (f : Sup → Sup) : (s.onSup n f).view = s.view := rfl
@[simp] theorem State.onSup_cmapNew (s : State) (n : Nat) (f : Sup → Sup) : (s.onSup n f).cmapNew = s.cmapNew := rfl
@[simp] theorem State.onSup_smapNew (s : State) (n : Nat) (f : Sup → Sup) : (s.onSup n f).smapNew = s.smapNew := rfl
@[simp] theorem State.onSup_gen (s : State) (n : Nat) (f : Sup → Sup) : (s.onSup n f).gen = s.gen := rfl
@[simp] theorem State.onSup_changed (s : State) (n : Nat) (f : Sup → Sup) : (s.onSup n f).changed = s.changed := rfl
@[simp] theorem State.onSup_fresh (s : State) (n : Nat) (f : Sup → Sup) : (s.onSup n f).fresh = s.fresh := rfl

/-! ## onPort -/

@[simp] theorem State.onPort_time (s : State) (n : Nat) (f : Port → Port) : (s.onPort n f).time = s.time := rfl
@[simp] theorem State.onPort_devns (s : State) (n : Nat) (f : Port → Port) : (s.onPort n f).devns = s.devns := rfl
@[simp] theorem State.onPort_devFrac (s : State) (n : Nat) (f : Port → Port) : (s.onPort n f).devFrac = s.devFrac := rfl
@[simp] theorem State.onPort_ppm (s : State) (n : Nat) (f : Port → Port) : (s.onPort n f).ppm = s.ppm := rfl
@[simp] theorem State.onPort_ptpLocked (s : State) (n : Nat) (f : Port → Port) : (s.onPort n f).ptpLocked = s.ptpLocked := rfl
@[simp] theorem State.onPort_ready (s : State) (n : Nat) (f : Port → Port) : (s.onPort n f).ready = s.ready := rfl
@[simp] theorem State.onPort_powered (s : State) (n : Nat) (f : Port → Port) : (s.onPort n f).powered = s.powered := rfl
@[simp] theorem State.onPort_cur (s : State) (n : Nat) (f : Port → Port) : (s.onPort n f).cur = s.cur := rfl
@[simp] theorem State.onPort_agenda (s : State) (n : Nat) (f : Port → Port) : (s.onPort n f).agenda = s.agenda := rfl
@[simp] theorem State.onPort_lateStores (s : State) (n : Nat) (f : Port → Port) : (s.onPort n f).lateStores = s.lateStores := rfl
@[simp] theorem State.onPort_quota (s : State) (n : Nat) (f : Port → Port) : (s.onPort n f).quota = s.quota := rfl
@[simp] theorem State.onPort_got (s : State) (n : Nat) (f : Port → Port) : (s.onPort n f).got = s.got := rfl
@[simp] theorem State.onPort_further (s : State) (n : Nat) (f : Port → Port) : (s.onPort n f).further = s.further := rfl
@[simp] theorem State.onPort_disturb (s : State) (n : Nat) (f : Port → Port) : (s.onPort n f).disturb = s.disturb := rfl
@[simp] theorem State.onPort_arg (s : State) (n : Nat) (f : Port → Port) : (s.onPort n f).arg = s.arg := rfl
@[simp] theorem State.onPort_mem (s : State) (n : Nat) (f : Port → Port) : (s.onPort n f).mem = s.mem := rfl
@[simp] theorem State.onPort_poison (s : State) (n : Nat) (f : Port → Port) : (s.onPort n f).poison = s.poison := rfl
@[simp] theorem State.onPort_soft (s : State) (n : Nat) (f : Port → Port) : (s.onPort n f).soft = s.soft := rfl
@[simp] theorem State.onPort_hard (s : State) (n : Nat) (f : Port → Port) : (s.onPort n f).hard = s.hard := rfl
@[simp] theorem State.onPort_smeta (s : State) (n : Nat) (f : Port → Port) : (s.onPort n f).smeta = s.smeta := rfl
@[simp] theorem State.onPort_flights (s : State) (n : Nat) (f : Port → Port) : (s.onPort n f).flights = s.flights := rfl
@[simp] theorem State.onPort_cores (s : State) (n : Nat) (f : Port → Port) : (s.onPort n f).cores = s.cores := rfl
@[simp] theorem State.onPort_clusters (s : State) (n : Nat) (f : Port → Port) : (s.onPort n f).clusters = s.clusters := rfl
@[simp] theorem State.onPort_sups (s : State) (n : Nat) (f : Port → Port) : (s.onPort n f).sups = s.sups := rfl
@[simp] theorem State.onPort_ptRoot (s : State) (n : Nat) (f : Port → Port) : (s.onPort n f).ptRoot = s.ptRoot := rfl
@[simp] theorem State.onPort_missForm (s : State) (n : Nat) (f : Port → Port) : (s.onPort n f).missForm = s.missForm := rfl
@[simp] theorem State.onPort_sysMap (s : State) (n : Nat) (f : Port → Port) : (s.onPort n f).sysMap = s.sysMap := rfl
@[simp] theorem State.onPort_sysCached (s : State) (n : Nat) (f : Port → Port) : (s.onPort n f).sysCached = s.sysCached := rfl
@[simp] theorem State.onPort_windows (s : State) (n : Nat) (f : Port → Port) : (s.onPort n f).windows = s.windows := rfl
@[simp] theorem State.onPort_launches (s : State) (n : Nat) (f : Port → Port) : (s.onPort n f).launches = s.launches := rfl
@[simp] theorem State.onPort_nextLaunch (s : State) (n : Nat) (f : Port → Port) : (s.onPort n f).nextLaunch = s.nextLaunch := rfl
@[simp] theorem State.onPort_nextId (s : State) (n : Nat) (f : Port → Port) : (s.onPort n f).nextId = s.nextId := rfl
@[simp] theorem State.onPort_markersOut (s : State) (n : Nat) (f : Port → Port) : (s.onPort n f).markersOut = s.markersOut := rfl
@[simp] theorem State.onPort_preemptMargin (s : State) (n : Nat) (f : Port → Port) : (s.onPort n f).preemptMargin = s.preemptMargin := rfl
@[simp] theorem State.onPort_flogBase (s : State) (n : Nat) (f : Port → Port) : (s.onPort n f).flogBase = s.flogBase := rfl
@[simp] theorem State.onPort_flogHead (s : State) (n : Nat) (f : Port → Port) : (s.onPort n f).flogHead = s.flogHead := rfl
@[simp] theorem State.onPort_flogN (s : State) (n : Nat) (f : Port → Port) : (s.onPort n f).flogN = s.flogN := rfl
@[simp] theorem State.onPort_flogDrop (s : State) (n : Nat) (f : Port → Port) : (s.onPort n f).flogDrop = s.flogDrop := rfl
@[simp] theorem State.onPort_flogUsed (s : State) (n : Nat) (f : Port → Port) : (s.onPort n f).flogUsed = s.flogUsed := rfl
@[simp] theorem State.onPort_scrubHbm (s : State) (n : Nat) (f : Port → Port) : (s.onPort n f).scrubHbm = s.scrubHbm := rfl
@[simp] theorem State.onPort_scrubSram (s : State) (n : Nat) (f : Port → Port) : (s.onPort n f).scrubSram = s.scrubSram := rfl
@[simp] theorem State.onPort_hostUdp (s : State) (n : Nat) (f : Port → Port) : (s.onPort n f).hostUdp = s.hostUdp := rfl
@[simp] theorem State.onPort_hostDrop (s : State) (n : Nat) (f : Port → Port) : (s.onPort n f).hostDrop = s.hostDrop := rfl
@[simp] theorem State.onPort_evDest (s : State) (n : Nat) (f : Port → Port) : (s.onPort n f).evDest = s.evDest := rfl
@[simp] theorem State.onPort_sources (s : State) (n : Nat) (f : Port → Port) : (s.onPort n f).sources = s.sources := rfl
@[simp] theorem State.onPort_hostSeq (s : State) (n : Nat) (f : Port → Port) : (s.onPort n f).hostSeq = s.hostSeq := rfl
@[simp] theorem State.onPort_hostOut (s : State) (n : Nat) (f : Port → Port) : (s.onPort n f).hostOut = s.hostOut := rfl
@[simp] theorem State.onPort_unacked (s : State) (n : Nat) (f : Port → Port) : (s.onPort n f).unacked = s.unacked := rfl
@[simp] theorem State.onPort_portJobs (s : State) (n : Nat) (f : Port → Port) : (s.onPort n f).portJobs = s.portJobs := rfl
@[simp] theorem State.onPort_hostHeld (s : State) (n : Nat) (f : Port → Port) : (s.onPort n f).hostHeld = s.hostHeld := rfl
@[simp] theorem State.onPort_portUp (s : State) (n : Nat) (f : Port → Port) : (s.onPort n f).portUp = s.portUp := rfl
@[simp] theorem State.onPort_extReads (s : State) (n : Nat) (f : Port → Port) : (s.onPort n f).extReads = s.extReads := rfl
@[simp] theorem State.onPort_extWrites (s : State) (n : Nat) (f : Port → Port) : (s.onPort n f).extWrites = s.extWrites := rfl
@[simp] theorem State.onPort_extMsgs (s : State) (n : Nat) (f : Port → Port) : (s.onPort n f).extMsgs = s.extMsgs := rfl
@[simp] theorem State.onPort_nextExt (s : State) (n : Nat) (f : Port → Port) : (s.onPort n f).nextExt = s.nextExt := rfl
@[simp] theorem State.onPort_ordel (s : State) (n : Nat) (f : Port → Port) : (s.onPort n f).ordel = s.ordel := rfl
@[simp] theorem State.onPort_cmap (s : State) (n : Nat) (f : Port → Port) : (s.onPort n f).cmap = s.cmap := rfl
@[simp] theorem State.onPort_view (s : State) (n : Nat) (f : Port → Port) : (s.onPort n f).view = s.view := rfl
@[simp] theorem State.onPort_cmapNew (s : State) (n : Nat) (f : Port → Port) : (s.onPort n f).cmapNew = s.cmapNew := rfl
@[simp] theorem State.onPort_smapNew (s : State) (n : Nat) (f : Port → Port) : (s.onPort n f).smapNew = s.smapNew := rfl
@[simp] theorem State.onPort_gen (s : State) (n : Nat) (f : Port → Port) : (s.onPort n f).gen = s.gen := rfl
@[simp] theorem State.onPort_changed (s : State) (n : Nat) (f : Port → Port) : (s.onPort n f).changed = s.changed := rfl
@[simp] theorem State.onPort_fresh (s : State) (n : Nat) (f : Port → Port) : (s.onPort n f).fresh = s.fresh := rfl

/-! ## onOrdel -/

@[simp] theorem State.onOrdel_time (s : State) (f : Ordel → Ordel) : (s.onOrdel f).time = s.time := rfl
@[simp] theorem State.onOrdel_devns (s : State) (f : Ordel → Ordel) : (s.onOrdel f).devns = s.devns := rfl
@[simp] theorem State.onOrdel_devFrac (s : State) (f : Ordel → Ordel) : (s.onOrdel f).devFrac = s.devFrac := rfl
@[simp] theorem State.onOrdel_ppm (s : State) (f : Ordel → Ordel) : (s.onOrdel f).ppm = s.ppm := rfl
@[simp] theorem State.onOrdel_ptpLocked (s : State) (f : Ordel → Ordel) : (s.onOrdel f).ptpLocked = s.ptpLocked := rfl
@[simp] theorem State.onOrdel_ready (s : State) (f : Ordel → Ordel) : (s.onOrdel f).ready = s.ready := rfl
@[simp] theorem State.onOrdel_powered (s : State) (f : Ordel → Ordel) : (s.onOrdel f).powered = s.powered := rfl
@[simp] theorem State.onOrdel_cur (s : State) (f : Ordel → Ordel) : (s.onOrdel f).cur = s.cur := rfl
@[simp] theorem State.onOrdel_agenda (s : State) (f : Ordel → Ordel) : (s.onOrdel f).agenda = s.agenda := rfl
@[simp] theorem State.onOrdel_lateStores (s : State) (f : Ordel → Ordel) : (s.onOrdel f).lateStores = s.lateStores := rfl
@[simp] theorem State.onOrdel_quota (s : State) (f : Ordel → Ordel) : (s.onOrdel f).quota = s.quota := rfl
@[simp] theorem State.onOrdel_got (s : State) (f : Ordel → Ordel) : (s.onOrdel f).got = s.got := rfl
@[simp] theorem State.onOrdel_further (s : State) (f : Ordel → Ordel) : (s.onOrdel f).further = s.further := rfl
@[simp] theorem State.onOrdel_disturb (s : State) (f : Ordel → Ordel) : (s.onOrdel f).disturb = s.disturb := rfl
@[simp] theorem State.onOrdel_arg (s : State) (f : Ordel → Ordel) : (s.onOrdel f).arg = s.arg := rfl
@[simp] theorem State.onOrdel_mem (s : State) (f : Ordel → Ordel) : (s.onOrdel f).mem = s.mem := rfl
@[simp] theorem State.onOrdel_poison (s : State) (f : Ordel → Ordel) : (s.onOrdel f).poison = s.poison := rfl
@[simp] theorem State.onOrdel_soft (s : State) (f : Ordel → Ordel) : (s.onOrdel f).soft = s.soft := rfl
@[simp] theorem State.onOrdel_hard (s : State) (f : Ordel → Ordel) : (s.onOrdel f).hard = s.hard := rfl
@[simp] theorem State.onOrdel_smeta (s : State) (f : Ordel → Ordel) : (s.onOrdel f).smeta = s.smeta := rfl
@[simp] theorem State.onOrdel_flights (s : State) (f : Ordel → Ordel) : (s.onOrdel f).flights = s.flights := rfl
@[simp] theorem State.onOrdel_cores (s : State) (f : Ordel → Ordel) : (s.onOrdel f).cores = s.cores := rfl
@[simp] theorem State.onOrdel_clusters (s : State) (f : Ordel → Ordel) : (s.onOrdel f).clusters = s.clusters := rfl
@[simp] theorem State.onOrdel_sups (s : State) (f : Ordel → Ordel) : (s.onOrdel f).sups = s.sups := rfl
@[simp] theorem State.onOrdel_ptRoot (s : State) (f : Ordel → Ordel) : (s.onOrdel f).ptRoot = s.ptRoot := rfl
@[simp] theorem State.onOrdel_missForm (s : State) (f : Ordel → Ordel) : (s.onOrdel f).missForm = s.missForm := rfl
@[simp] theorem State.onOrdel_sysMap (s : State) (f : Ordel → Ordel) : (s.onOrdel f).sysMap = s.sysMap := rfl
@[simp] theorem State.onOrdel_sysCached (s : State) (f : Ordel → Ordel) : (s.onOrdel f).sysCached = s.sysCached := rfl
@[simp] theorem State.onOrdel_windows (s : State) (f : Ordel → Ordel) : (s.onOrdel f).windows = s.windows := rfl
@[simp] theorem State.onOrdel_launches (s : State) (f : Ordel → Ordel) : (s.onOrdel f).launches = s.launches := rfl
@[simp] theorem State.onOrdel_nextLaunch (s : State) (f : Ordel → Ordel) : (s.onOrdel f).nextLaunch = s.nextLaunch := rfl
@[simp] theorem State.onOrdel_nextId (s : State) (f : Ordel → Ordel) : (s.onOrdel f).nextId = s.nextId := rfl
@[simp] theorem State.onOrdel_markersOut (s : State) (f : Ordel → Ordel) : (s.onOrdel f).markersOut = s.markersOut := rfl
@[simp] theorem State.onOrdel_preemptMargin (s : State) (f : Ordel → Ordel) : (s.onOrdel f).preemptMargin = s.preemptMargin := rfl
@[simp] theorem State.onOrdel_flogBase (s : State) (f : Ordel → Ordel) : (s.onOrdel f).flogBase = s.flogBase := rfl
@[simp] theorem State.onOrdel_flogHead (s : State) (f : Ordel → Ordel) : (s.onOrdel f).flogHead = s.flogHead := rfl
@[simp] theorem State.onOrdel_flogN (s : State) (f : Ordel → Ordel) : (s.onOrdel f).flogN = s.flogN := rfl
@[simp] theorem State.onOrdel_flogDrop (s : State) (f : Ordel → Ordel) : (s.onOrdel f).flogDrop = s.flogDrop := rfl
@[simp] theorem State.onOrdel_flogUsed (s : State) (f : Ordel → Ordel) : (s.onOrdel f).flogUsed = s.flogUsed := rfl
@[simp] theorem State.onOrdel_scrubHbm (s : State) (f : Ordel → Ordel) : (s.onOrdel f).scrubHbm = s.scrubHbm := rfl
@[simp] theorem State.onOrdel_scrubSram (s : State) (f : Ordel → Ordel) : (s.onOrdel f).scrubSram = s.scrubSram := rfl
@[simp] theorem State.onOrdel_hostUdp (s : State) (f : Ordel → Ordel) : (s.onOrdel f).hostUdp = s.hostUdp := rfl
@[simp] theorem State.onOrdel_hostDrop (s : State) (f : Ordel → Ordel) : (s.onOrdel f).hostDrop = s.hostDrop := rfl
@[simp] theorem State.onOrdel_evDest (s : State) (f : Ordel → Ordel) : (s.onOrdel f).evDest = s.evDest := rfl
@[simp] theorem State.onOrdel_sources (s : State) (f : Ordel → Ordel) : (s.onOrdel f).sources = s.sources := rfl
@[simp] theorem State.onOrdel_hostSeq (s : State) (f : Ordel → Ordel) : (s.onOrdel f).hostSeq = s.hostSeq := rfl
@[simp] theorem State.onOrdel_hostOut (s : State) (f : Ordel → Ordel) : (s.onOrdel f).hostOut = s.hostOut := rfl
@[simp] theorem State.onOrdel_unacked (s : State) (f : Ordel → Ordel) : (s.onOrdel f).unacked = s.unacked := rfl
@[simp] theorem State.onOrdel_portJobs (s : State) (f : Ordel → Ordel) : (s.onOrdel f).portJobs = s.portJobs := rfl
@[simp] theorem State.onOrdel_hostHeld (s : State) (f : Ordel → Ordel) : (s.onOrdel f).hostHeld = s.hostHeld := rfl
@[simp] theorem State.onOrdel_portUp (s : State) (f : Ordel → Ordel) : (s.onOrdel f).portUp = s.portUp := rfl
@[simp] theorem State.onOrdel_extReads (s : State) (f : Ordel → Ordel) : (s.onOrdel f).extReads = s.extReads := rfl
@[simp] theorem State.onOrdel_extWrites (s : State) (f : Ordel → Ordel) : (s.onOrdel f).extWrites = s.extWrites := rfl
@[simp] theorem State.onOrdel_extMsgs (s : State) (f : Ordel → Ordel) : (s.onOrdel f).extMsgs = s.extMsgs := rfl
@[simp] theorem State.onOrdel_nextExt (s : State) (f : Ordel → Ordel) : (s.onOrdel f).nextExt = s.nextExt := rfl
@[simp] theorem State.onOrdel_ports (s : State) (f : Ordel → Ordel) : (s.onOrdel f).ports = s.ports := rfl
@[simp] theorem State.onOrdel_cmap (s : State) (f : Ordel → Ordel) : (s.onOrdel f).cmap = s.cmap := rfl
@[simp] theorem State.onOrdel_view (s : State) (f : Ordel → Ordel) : (s.onOrdel f).view = s.view := rfl
@[simp] theorem State.onOrdel_cmapNew (s : State) (f : Ordel → Ordel) : (s.onOrdel f).cmapNew = s.cmapNew := rfl
@[simp] theorem State.onOrdel_smapNew (s : State) (f : Ordel → Ordel) : (s.onOrdel f).smapNew = s.smapNew := rfl
@[simp] theorem State.onOrdel_gen (s : State) (f : Ordel → Ordel) : (s.onOrdel f).gen = s.gen := rfl
@[simp] theorem State.onOrdel_changed (s : State) (f : Ordel → Ordel) : (s.onOrdel f).changed = s.changed := rfl
@[simp] theorem State.onOrdel_fresh (s : State) (f : Ordel → Ordel) : (s.onOrdel f).fresh = s.fresh := rfl

/-! ## onLaunch -/

@[simp] theorem State.onLaunch_time (s : State) (n : Nat) (f : Launch → Launch) : (s.onLaunch n f).time = s.time := rfl
@[simp] theorem State.onLaunch_devns (s : State) (n : Nat) (f : Launch → Launch) : (s.onLaunch n f).devns = s.devns := rfl
@[simp] theorem State.onLaunch_devFrac (s : State) (n : Nat) (f : Launch → Launch) : (s.onLaunch n f).devFrac = s.devFrac := rfl
@[simp] theorem State.onLaunch_ppm (s : State) (n : Nat) (f : Launch → Launch) : (s.onLaunch n f).ppm = s.ppm := rfl
@[simp] theorem State.onLaunch_ptpLocked (s : State) (n : Nat) (f : Launch → Launch) : (s.onLaunch n f).ptpLocked = s.ptpLocked := rfl
@[simp] theorem State.onLaunch_ready (s : State) (n : Nat) (f : Launch → Launch) : (s.onLaunch n f).ready = s.ready := rfl
@[simp] theorem State.onLaunch_powered (s : State) (n : Nat) (f : Launch → Launch) : (s.onLaunch n f).powered = s.powered := rfl
@[simp] theorem State.onLaunch_cur (s : State) (n : Nat) (f : Launch → Launch) : (s.onLaunch n f).cur = s.cur := rfl
@[simp] theorem State.onLaunch_agenda (s : State) (n : Nat) (f : Launch → Launch) : (s.onLaunch n f).agenda = s.agenda := rfl
@[simp] theorem State.onLaunch_lateStores (s : State) (n : Nat) (f : Launch → Launch) : (s.onLaunch n f).lateStores = s.lateStores := rfl
@[simp] theorem State.onLaunch_quota (s : State) (n : Nat) (f : Launch → Launch) : (s.onLaunch n f).quota = s.quota := rfl
@[simp] theorem State.onLaunch_got (s : State) (n : Nat) (f : Launch → Launch) : (s.onLaunch n f).got = s.got := rfl
@[simp] theorem State.onLaunch_further (s : State) (n : Nat) (f : Launch → Launch) : (s.onLaunch n f).further = s.further := rfl
@[simp] theorem State.onLaunch_disturb (s : State) (n : Nat) (f : Launch → Launch) : (s.onLaunch n f).disturb = s.disturb := rfl
@[simp] theorem State.onLaunch_arg (s : State) (n : Nat) (f : Launch → Launch) : (s.onLaunch n f).arg = s.arg := rfl
@[simp] theorem State.onLaunch_mem (s : State) (n : Nat) (f : Launch → Launch) : (s.onLaunch n f).mem = s.mem := rfl
@[simp] theorem State.onLaunch_poison (s : State) (n : Nat) (f : Launch → Launch) : (s.onLaunch n f).poison = s.poison := rfl
@[simp] theorem State.onLaunch_soft (s : State) (n : Nat) (f : Launch → Launch) : (s.onLaunch n f).soft = s.soft := rfl
@[simp] theorem State.onLaunch_hard (s : State) (n : Nat) (f : Launch → Launch) : (s.onLaunch n f).hard = s.hard := rfl
@[simp] theorem State.onLaunch_smeta (s : State) (n : Nat) (f : Launch → Launch) : (s.onLaunch n f).smeta = s.smeta := rfl
@[simp] theorem State.onLaunch_flights (s : State) (n : Nat) (f : Launch → Launch) : (s.onLaunch n f).flights = s.flights := rfl
@[simp] theorem State.onLaunch_cores (s : State) (n : Nat) (f : Launch → Launch) : (s.onLaunch n f).cores = s.cores := rfl
@[simp] theorem State.onLaunch_clusters (s : State) (n : Nat) (f : Launch → Launch) : (s.onLaunch n f).clusters = s.clusters := rfl
@[simp] theorem State.onLaunch_sups (s : State) (n : Nat) (f : Launch → Launch) : (s.onLaunch n f).sups = s.sups := rfl
@[simp] theorem State.onLaunch_ptRoot (s : State) (n : Nat) (f : Launch → Launch) : (s.onLaunch n f).ptRoot = s.ptRoot := rfl
@[simp] theorem State.onLaunch_missForm (s : State) (n : Nat) (f : Launch → Launch) : (s.onLaunch n f).missForm = s.missForm := rfl
@[simp] theorem State.onLaunch_sysMap (s : State) (n : Nat) (f : Launch → Launch) : (s.onLaunch n f).sysMap = s.sysMap := rfl
@[simp] theorem State.onLaunch_sysCached (s : State) (n : Nat) (f : Launch → Launch) : (s.onLaunch n f).sysCached = s.sysCached := rfl
@[simp] theorem State.onLaunch_windows (s : State) (n : Nat) (f : Launch → Launch) : (s.onLaunch n f).windows = s.windows := rfl
@[simp] theorem State.onLaunch_nextLaunch (s : State) (n : Nat) (f : Launch → Launch) : (s.onLaunch n f).nextLaunch = s.nextLaunch := rfl
@[simp] theorem State.onLaunch_nextId (s : State) (n : Nat) (f : Launch → Launch) : (s.onLaunch n f).nextId = s.nextId := rfl
@[simp] theorem State.onLaunch_markersOut (s : State) (n : Nat) (f : Launch → Launch) : (s.onLaunch n f).markersOut = s.markersOut := rfl
@[simp] theorem State.onLaunch_preemptMargin (s : State) (n : Nat) (f : Launch → Launch) : (s.onLaunch n f).preemptMargin = s.preemptMargin := rfl
@[simp] theorem State.onLaunch_flogBase (s : State) (n : Nat) (f : Launch → Launch) : (s.onLaunch n f).flogBase = s.flogBase := rfl
@[simp] theorem State.onLaunch_flogHead (s : State) (n : Nat) (f : Launch → Launch) : (s.onLaunch n f).flogHead = s.flogHead := rfl
@[simp] theorem State.onLaunch_flogN (s : State) (n : Nat) (f : Launch → Launch) : (s.onLaunch n f).flogN = s.flogN := rfl
@[simp] theorem State.onLaunch_flogDrop (s : State) (n : Nat) (f : Launch → Launch) : (s.onLaunch n f).flogDrop = s.flogDrop := rfl
@[simp] theorem State.onLaunch_flogUsed (s : State) (n : Nat) (f : Launch → Launch) : (s.onLaunch n f).flogUsed = s.flogUsed := rfl
@[simp] theorem State.onLaunch_scrubHbm (s : State) (n : Nat) (f : Launch → Launch) : (s.onLaunch n f).scrubHbm = s.scrubHbm := rfl
@[simp] theorem State.onLaunch_scrubSram (s : State) (n : Nat) (f : Launch → Launch) : (s.onLaunch n f).scrubSram = s.scrubSram := rfl
@[simp] theorem State.onLaunch_hostUdp (s : State) (n : Nat) (f : Launch → Launch) : (s.onLaunch n f).hostUdp = s.hostUdp := rfl
@[simp] theorem State.onLaunch_hostDrop (s : State) (n : Nat) (f : Launch → Launch) : (s.onLaunch n f).hostDrop = s.hostDrop := rfl
@[simp] theorem State.onLaunch_evDest (s : State) (n : Nat) (f : Launch → Launch) : (s.onLaunch n f).evDest = s.evDest := rfl
@[simp] theorem State.onLaunch_sources (s : State) (n : Nat) (f : Launch → Launch) : (s.onLaunch n f).sources = s.sources := rfl
@[simp] theorem State.onLaunch_hostSeq (s : State) (n : Nat) (f : Launch → Launch) : (s.onLaunch n f).hostSeq = s.hostSeq := rfl
@[simp] theorem State.onLaunch_hostOut (s : State) (n : Nat) (f : Launch → Launch) : (s.onLaunch n f).hostOut = s.hostOut := rfl
@[simp] theorem State.onLaunch_unacked (s : State) (n : Nat) (f : Launch → Launch) : (s.onLaunch n f).unacked = s.unacked := rfl
@[simp] theorem State.onLaunch_portJobs (s : State) (n : Nat) (f : Launch → Launch) : (s.onLaunch n f).portJobs = s.portJobs := rfl
@[simp] theorem State.onLaunch_hostHeld (s : State) (n : Nat) (f : Launch → Launch) : (s.onLaunch n f).hostHeld = s.hostHeld := rfl
@[simp] theorem State.onLaunch_portUp (s : State) (n : Nat) (f : Launch → Launch) : (s.onLaunch n f).portUp = s.portUp := rfl
@[simp] theorem State.onLaunch_extReads (s : State) (n : Nat) (f : Launch → Launch) : (s.onLaunch n f).extReads = s.extReads := rfl
@[simp] theorem State.onLaunch_extWrites (s : State) (n : Nat) (f : Launch → Launch) : (s.onLaunch n f).extWrites = s.extWrites := rfl
@[simp] theorem State.onLaunch_extMsgs (s : State) (n : Nat) (f : Launch → Launch) : (s.onLaunch n f).extMsgs = s.extMsgs := rfl
@[simp] theorem State.onLaunch_nextExt (s : State) (n : Nat) (f : Launch → Launch) : (s.onLaunch n f).nextExt = s.nextExt := rfl
@[simp] theorem State.onLaunch_ports (s : State) (n : Nat) (f : Launch → Launch) : (s.onLaunch n f).ports = s.ports := rfl
@[simp] theorem State.onLaunch_ordel (s : State) (n : Nat) (f : Launch → Launch) : (s.onLaunch n f).ordel = s.ordel := rfl
@[simp] theorem State.onLaunch_cmap (s : State) (n : Nat) (f : Launch → Launch) : (s.onLaunch n f).cmap = s.cmap := rfl
@[simp] theorem State.onLaunch_view (s : State) (n : Nat) (f : Launch → Launch) : (s.onLaunch n f).view = s.view := rfl
@[simp] theorem State.onLaunch_cmapNew (s : State) (n : Nat) (f : Launch → Launch) : (s.onLaunch n f).cmapNew = s.cmapNew := rfl
@[simp] theorem State.onLaunch_smapNew (s : State) (n : Nat) (f : Launch → Launch) : (s.onLaunch n f).smapNew = s.smapNew := rfl
@[simp] theorem State.onLaunch_gen (s : State) (n : Nat) (f : Launch → Launch) : (s.onLaunch n f).gen = s.gen := rfl
@[simp] theorem State.onLaunch_changed (s : State) (n : Nat) (f : Launch → Launch) : (s.onLaunch n f).changed = s.changed := rfl
@[simp] theorem State.onLaunch_fresh (s : State) (n : Nat) (f : Launch → Launch) : (s.onLaunch n f).fresh = s.fresh := rfl

/-! ## stamp -/

@[simp] theorem State.stamp_time (s : State) : (s.stamp).time = s.time := rfl
@[simp] theorem State.stamp_devns (s : State) : (s.stamp).devns = s.devns := rfl
@[simp] theorem State.stamp_devFrac (s : State) : (s.stamp).devFrac = s.devFrac := rfl
@[simp] theorem State.stamp_ppm (s : State) : (s.stamp).ppm = s.ppm := rfl
@[simp] theorem State.stamp_ptpLocked (s : State) : (s.stamp).ptpLocked = s.ptpLocked := rfl
@[simp] theorem State.stamp_ready (s : State) : (s.stamp).ready = s.ready := rfl
@[simp] theorem State.stamp_powered (s : State) : (s.stamp).powered = s.powered := rfl
@[simp] theorem State.stamp_cur (s : State) : (s.stamp).cur = s.cur := rfl
@[simp] theorem State.stamp_agenda (s : State) : (s.stamp).agenda = s.agenda := rfl
@[simp] theorem State.stamp_lateStores (s : State) : (s.stamp).lateStores = s.lateStores := rfl
@[simp] theorem State.stamp_quota (s : State) : (s.stamp).quota = s.quota := rfl
@[simp] theorem State.stamp_got (s : State) : (s.stamp).got = s.got := rfl
@[simp] theorem State.stamp_further (s : State) : (s.stamp).further = s.further := rfl
@[simp] theorem State.stamp_disturb (s : State) : (s.stamp).disturb = s.disturb := rfl
@[simp] theorem State.stamp_arg (s : State) : (s.stamp).arg = s.arg := rfl
@[simp] theorem State.stamp_mem (s : State) : (s.stamp).mem = s.mem := rfl
@[simp] theorem State.stamp_poison (s : State) : (s.stamp).poison = s.poison := rfl
@[simp] theorem State.stamp_soft (s : State) : (s.stamp).soft = s.soft := rfl
@[simp] theorem State.stamp_hard (s : State) : (s.stamp).hard = s.hard := rfl
@[simp] theorem State.stamp_smeta (s : State) : (s.stamp).smeta = s.smeta := rfl
@[simp] theorem State.stamp_flights (s : State) : (s.stamp).flights = s.flights := rfl
@[simp] theorem State.stamp_cores (s : State) : (s.stamp).cores = s.cores := rfl
@[simp] theorem State.stamp_clusters (s : State) : (s.stamp).clusters = s.clusters := rfl
@[simp] theorem State.stamp_sups (s : State) : (s.stamp).sups = s.sups := rfl
@[simp] theorem State.stamp_ptRoot (s : State) : (s.stamp).ptRoot = s.ptRoot := rfl
@[simp] theorem State.stamp_missForm (s : State) : (s.stamp).missForm = s.missForm := rfl
@[simp] theorem State.stamp_sysMap (s : State) : (s.stamp).sysMap = s.sysMap := rfl
@[simp] theorem State.stamp_sysCached (s : State) : (s.stamp).sysCached = s.sysCached := rfl
@[simp] theorem State.stamp_windows (s : State) : (s.stamp).windows = s.windows := rfl
@[simp] theorem State.stamp_launches (s : State) : (s.stamp).launches = s.launches := rfl
@[simp] theorem State.stamp_nextLaunch (s : State) : (s.stamp).nextLaunch = s.nextLaunch := rfl
@[simp] theorem State.stamp_markersOut (s : State) : (s.stamp).markersOut = s.markersOut := rfl
@[simp] theorem State.stamp_preemptMargin (s : State) : (s.stamp).preemptMargin = s.preemptMargin := rfl
@[simp] theorem State.stamp_flogBase (s : State) : (s.stamp).flogBase = s.flogBase := rfl
@[simp] theorem State.stamp_flogHead (s : State) : (s.stamp).flogHead = s.flogHead := rfl
@[simp] theorem State.stamp_flogN (s : State) : (s.stamp).flogN = s.flogN := rfl
@[simp] theorem State.stamp_flogDrop (s : State) : (s.stamp).flogDrop = s.flogDrop := rfl
@[simp] theorem State.stamp_flogUsed (s : State) : (s.stamp).flogUsed = s.flogUsed := rfl
@[simp] theorem State.stamp_scrubHbm (s : State) : (s.stamp).scrubHbm = s.scrubHbm := rfl
@[simp] theorem State.stamp_scrubSram (s : State) : (s.stamp).scrubSram = s.scrubSram := rfl
@[simp] theorem State.stamp_hostUdp (s : State) : (s.stamp).hostUdp = s.hostUdp := rfl
@[simp] theorem State.stamp_hostDrop (s : State) : (s.stamp).hostDrop = s.hostDrop := rfl
@[simp] theorem State.stamp_evDest (s : State) : (s.stamp).evDest = s.evDest := rfl
@[simp] theorem State.stamp_sources (s : State) : (s.stamp).sources = s.sources := rfl
@[simp] theorem State.stamp_hostSeq (s : State) : (s.stamp).hostSeq = s.hostSeq := rfl
@[simp] theorem State.stamp_hostOut (s : State) : (s.stamp).hostOut = s.hostOut := rfl
@[simp] theorem State.stamp_unacked (s : State) : (s.stamp).unacked = s.unacked := rfl
@[simp] theorem State.stamp_portJobs (s : State) : (s.stamp).portJobs = s.portJobs := rfl
@[simp] theorem State.stamp_hostHeld (s : State) : (s.stamp).hostHeld = s.hostHeld := rfl
@[simp] theorem State.stamp_portUp (s : State) : (s.stamp).portUp = s.portUp := rfl
@[simp] theorem State.stamp_extReads (s : State) : (s.stamp).extReads = s.extReads := rfl
@[simp] theorem State.stamp_extWrites (s : State) : (s.stamp).extWrites = s.extWrites := rfl
@[simp] theorem State.stamp_extMsgs (s : State) : (s.stamp).extMsgs = s.extMsgs := rfl
@[simp] theorem State.stamp_nextExt (s : State) : (s.stamp).nextExt = s.nextExt := rfl
@[simp] theorem State.stamp_ports (s : State) : (s.stamp).ports = s.ports := rfl
@[simp] theorem State.stamp_ordel (s : State) : (s.stamp).ordel = s.ordel := rfl
@[simp] theorem State.stamp_cmap (s : State) : (s.stamp).cmap = s.cmap := rfl
@[simp] theorem State.stamp_view (s : State) : (s.stamp).view = s.view := rfl
@[simp] theorem State.stamp_cmapNew (s : State) : (s.stamp).cmapNew = s.cmapNew := rfl
@[simp] theorem State.stamp_smapNew (s : State) : (s.stamp).smapNew = s.smapNew := rfl
@[simp] theorem State.stamp_gen (s : State) : (s.stamp).gen = s.gen := rfl
@[simp] theorem State.stamp_changed (s : State) : (s.stamp).changed = s.changed := rfl
@[simp] theorem State.stamp_fresh (s : State) : (s.stamp).fresh = s.fresh := rfl

/-! ## Where a unit's state is kept -/

@[simp] theorem State.physCl_setCore (s : State) (k : Nat) (x : Core) (cl : Nat) : (s.setCore k x).physCl cl = s.physCl cl := rfl
@[simp] theorem State.physCl_onCore (s : State) (k : Nat) (f : Core → Core) (cl : Nat) : (s.onCore k f).physCl cl = s.physCl cl := rfl
@[simp] theorem State.physCl_onCtx (s : State) (k c : Nat) (f : LCtx → LCtx) (cl : Nat) : (s.onCtx k c f).physCl cl = s.physCl cl := rfl
@[simp] theorem State.physCl_onCluster (s : State) (k : Nat) (f : Cluster → Cluster) (cl : Nat) :
    (s.onCluster k f).physCl cl = s.physCl cl := rfl
@[simp] theorem State.physCl_onDense (s : State) (k : Nat) (f : Dense → Dense) (cl : Nat) :
    (s.onDense k f).physCl cl = s.physCl cl := rfl
@[simp] theorem State.physCl_onSup (s : State) (k : Nat) (f : Sup → Sup) (cl : Nat) : (s.onSup k f).physCl cl = s.physCl cl := rfl
@[simp] theorem State.physCore_onCore (s : State) (k : Nat) (f : Core → Core) (j : Nat) :
    (s.onCore k f).physCore j = s.physCore j := rfl
@[simp] theorem State.physCore_onCtx (s : State) (k c : Nat) (f : LCtx → LCtx) (j : Nat) :
    (s.onCtx k c f).physCore j = s.physCore j := rfl
@[simp] theorem State.physCore_onCluster (s : State) (k : Nat) (f : Cluster → Cluster) (j : Nat) :
    (s.onCluster k f).physCore j = s.physCore j := rfl
@[simp] theorem State.physCore_onDense (s : State) (k : Nat) (f : Dense → Dense) (j : Nat) :
    (s.onDense k f).physCore j = s.physCore j := rfl
@[simp] theorem State.physCore_onSup (s : State) (k : Nat) (f : Sup → Sup) (j : Nat) :
    (s.onSup k f).physCore j = s.physCore j := rfl

/-! ## Reading a unit after its update -/

@[simp] theorem State.core_onCore (s : State) (k : Nat) (f : Core → Core) : (s.onCore k f).core k = f (s.core k) := by
  simp [State.onCore, State.core, State.setCore, State.physCore, State.physCl]
@[simp] theorem Core.ctx_setCtx (x : Core) (c : Nat) (y : LCtx) : (x.setCtx c y).ctx c = y := by simp [Core.ctx, Core.setCtx]
@[simp] theorem Core.setCtx_setCtx (x : Core) (c : Nat) (y z : LCtx) : (x.setCtx c y).setCtx c z = x.setCtx c z := by
  simp [Core.setCtx]
theorem Core.ctx_setCtx_ne (x : Core) {c d : Nat} (y : LCtx) (h : c ≠ d) : (x.setCtx c y).ctx d = x.ctx d := by
  simp [Core.ctx, Core.setCtx, Tab.get_set_ne _ _ _ h]
@[simp] theorem State.ctx_onCtx (s : State) (k c : Nat) (f : LCtx → LCtx) : (s.onCtx k c f).ctx k c = f (s.ctx k c) := by
  simp [State.onCtx, State.ctx]
theorem State.ctx_onCtx_ne (s : State) (k : Nat) {c d : Nat} (f : LCtx → LCtx) (h : c ≠ d) :
    (s.onCtx k c f).ctx k d = s.ctx k d := by simp [State.onCtx, State.ctx, Core.ctx_setCtx_ne _ _ h]
@[simp] theorem State.onCore_onCore (s : State) (k : Nat) (f g : Core → Core) :
    (s.onCore k f).onCore k g = s.onCore k fun x => g (f x) := by
  show (s.onCore k f).setCore k (g ((s.onCore k f).core k)) = s.setCore k (g (f (s.core k)))
  rw [State.core_onCore]
  simp [State.onCore, State.setCore, State.physCore, State.physCl]
@[simp] theorem State.onCtx_onCtx (s : State) (k c : Nat) (f g : LCtx → LCtx) :
    (s.onCtx k c f).onCtx k c g = s.onCtx k c fun x => g (f x) := by
  simp [State.onCtx]

@[simp] theorem State.cluster_onCluster (s : State) (cl : Nat) (f : Cluster → Cluster) :
    (s.onCluster cl f).cluster cl = f (s.cluster cl) := by
  simp [State.onCluster, State.cluster, State.setCluster, State.physCl]
@[simp] theorem State.onCluster_onCluster (s : State) (cl : Nat) (f g : Cluster → Cluster) :
    (s.onCluster cl f).onCluster cl g = s.onCluster cl fun x => g (f x) := by
  show (s.onCluster cl f).setCluster cl (g ((s.onCluster cl f).cluster cl)) = s.setCluster cl (g (f (s.cluster cl)))
  rw [State.cluster_onCluster]
  simp [State.onCluster, State.setCluster, State.physCl]
@[simp] theorem State.dense_onDense (s : State) (cl : Nat) (f : Dense → Dense) : (s.onDense cl f).dense cl = f (s.dense cl) := by
  simp [State.onDense, State.dense]
@[simp] theorem State.onDense_onDense (s : State) (cl : Nat) (f g : Dense → Dense) :
    (s.onDense cl f).onDense cl g = s.onDense cl fun x => g (f x) := by simp [State.onDense]
@[simp] theorem Dense.epiCtx_setEpi (d : Dense) (e : Nat) (x : Epi) : (d.setEpi e x).epiCtx e = x := by
  simp [Dense.epiCtx, Dense.setEpi]
@[simp] theorem Dense.setEpi_setEpi (d : Dense) (e : Nat) (x y : Epi) : (d.setEpi e x).setEpi e y = d.setEpi e y := by
  simp [Dense.setEpi]
@[simp] theorem State.sup_onSup (s : State) (n : Nat) (f : Sup → Sup) : (s.onSup n f).sup n = f (s.sup n) := by
  simp [State.onSup, State.sup]
@[simp] theorem State.onSup_onSup (s : State) (n : Nat) (f g : Sup → Sup) :
    (s.onSup n f).onSup n g = s.onSup n fun x => g (f x) := by simp [State.onSup, State.sup]

/-! ## A word's end -/

/-- A retired word of a context leaves its PC past it, no wait, and what it was delivered is dropped. -/
theorem State.done_ctx (s : State) (k c idle : Nat) :
    ((s.retire (.ctx k c) idle).dropDelivered (.ctx k c)) =
      s.onCtx k c fun x => { x with pc := x.pc + 4, wait := .none, readyAt := s.time + 1 + idle, delivered := [] } := by
  simp only [State.retire, State.retireTo, State.pc, State.setPc, State.setWait, State.setReadyAt, State.dropDelivered,
    State.onCtx_onCtx, State.ctx_onCtx]
  split
  · rename_i h
    simp only [List.isEmpty_iff] at h
    simp only [State.onCtx, State.onCore, State.ctx] at h ⊢
    rw [← h]
  · rfl

end Sys2Proof.Machine
end

