-- ==== Sys2Proof/Laws/Words.lean ====
section
/-! SUPPORT. What the operations that every word's meaning ends with can do: settling, collecting flags, ending a lane word,
branching, tokens, waits and traps. A proof cites these and does not unfold them. -/

namespace Sys2Proof.Machine

/-! ## Settling: the five ways a word of a unit ends -/

theorem State.settle_done (s t : State) (u : UnitId) (idle : Nat) : s.settle u (.ok (t.retire u idle)) = t.past u idle := rfl
theorem State.settle_ok (s t : State) (u : UnitId) : s.settle u (.ok t) = t.dropDelivered u := rfl
theorem State.settle_trap (s t : State) (u : UnitId) (c : Cause) (a : W64) :
    s.settle u (.error (.trap c a t)) = (t.dropDelivered u).raise u c a := rfl
theorem State.settle_park (s : State) (u : UnitId) (h : Nat) (p : Parked) : s.settle u (.error (.park h p)) = s.parkUnit u h p := rfl
theorem State.settle_ext (s : State) (u : UnitId) (q : ExtAsk) : s.settle u (.error (.ext q)) = s.sendAsk u q none := rfl
theorem State.settle_wait (s : State) (u : UnitId) (w : Wait) :
    s.settle u (.error (.wait w)) = (s.setWait u w).setReadyAt u (s.time + 1) := rfl

/-- A word of a context that falls through changes that context alone. -/
theorem State.past_ctx (s : State) (k c idle : Nat) : s.past (.ctx k c) idle = s.onCtx k c fun x => x.past s.time idle := by
  simp only [State.past, State.done_ctx]; rfl

/-- A word of a context that continues at an address changes that context alone. -/
theorem State.settle_retireTo (s t : State) (k c : Nat) (pc : W32) (idle : Nat) :
    s.settle (.ctx k c) (.ok (t.retireTo (.ctx k c) pc idle)) =
      t.onCtx k c fun x => { x with pc := pc, wait := .none, readyAt := t.time + 1 + idle, delivered := [] } := by
  simp only [State.settle, State.retireTo, State.setPc, State.setWait, State.setReadyAt, State.dropDelivered,
    State.onCtx_onCtx, State.ctx_onCtx]
  split
  · rename_i h
    simp only [List.isEmpty_iff] at h
    simp only [State.onCtx, State.onCore, State.ctx] at h ⊢
    rw [← h]
  · rfl

/-! ## Which unit a word runs on -/

theorem lookupWord_ctx (s : State) (k c : Nat) (f : Nat → Nat → Eff State) (h : s.cur = .ctx k c) :
    lookupWord s f = .next (s.settle (.ctx k c) (f k c)) := by simp only [lookupWord, h]
theorem scalarWord_scalar (s : State) (cl : Nat) (f : UnitId → Eff State) (h : s.cur = .scalar cl) :
    scalarWord s f = .next (s.settle (.scalar cl) (f (.scalar cl))) := by simp only [scalarWord, h]
theorem scalarWord_sup (s : State) (n : Nat) (f : UnitId → Eff State) (h : s.cur = .sup n) :
    scalarWord s f = .next (s.settle (.sup n) (f (.sup n))) := by simp only [scalarWord, h]
theorem denseScalarWord_scalar (s : State) (cl : Nat) (f : UnitId → Eff State) (h : s.cur = .scalar cl) :
    denseScalarWord s f = .next (s.settle (.scalar cl) (f (.scalar cl))) := by simp only [denseScalarWord, h]
theorem denseScalarWord_sup (s : State) (n : Nat) (f : UnitId → Eff State) (h : s.cur = .sup n) :
    denseScalarWord s f = .next (s.raise (.sup n) .illegal 0) := by simp only [denseScalarWord, h]

/-! ## Flags, the generator and the threshold -/

theorem State.collect_ctx (s : State) (k c : Nat) (f : Flags) (sr : W32) :
    s.collect (.ctx k c) f sr = s.onCtx k c fun x => { x with num := { x.num.raise f s.time with sr := sr } } := by
  simp only [State.collect, State.setNum, State.num, State.onCtx, State.onCore, State.ctx]

/-- A change of a context that leaves SIGEN and THR leaves what is below the threshold. -/
theorem State.sigLow_onCtx (s : State) (k c n : Nat) (f : LCtx → LCtx) (h : (f (s.ctx k c)).num.sigen = (s.ctx k c).num.sigen)
    (h2 : (f (s.ctx k c)).num.thr = (s.ctx k c).num.thr) : (s.onCtx k c f).sigLow (.ctx k c) n = s.sigLow (.ctx k c) n := by
  simp only [State.sigLow, State.num, State.ctx_onCtx, h, h2]; rfl

/-- The end of a lane word: flags and generator are collected, and then a checked tag below the threshold traps (R135). -/
theorem State.finishLanes_cases (s : State) (k c : Nat) (r : LaneRun) (check : List (Nat × Tag)) :
    let t := s.onCtx k c fun x => { x with num := { x.num.raise r.flags s.time with sr := r.sr } }
    ((∀ l ∈ check, s.sigLow (.ctx k c) l.2.toNat = false) → s.finishLanes k c r check = .ok (t.retire (.ctx k c) 0)) ∧
    ((∃ l ∈ check, s.sigLow (.ctx k c) l.2.toNat = true) → s.finishLanes k c r check = .error (.trap .sigThreshold 0 t)) := by
  intro t
  have e : ∀ n, t.sigLow (.ctx k c) n = s.sigLow (.ctx k c) n := fun n => by
    simp only [t]; rw [State.sigLow_onCtx] <;> rfl
  have h : s.finishLanes k c r check = if check.any fun l => t.sigLow (.ctx k c) l.2.toNat then .error (.trap .sigThreshold 0 t)
      else .ok (t.retire (.ctx k c) 0) := by simp only [State.finishLanes, State.collect_ctx, t]
  constructor
  · intro hh
    rw [h, if_neg]
    simp only [List.any_eq_true, not_exists, not_and, e]
    intro l hl; simp [hh l hl]
  · intro ⟨l, hl, hh⟩
    rw [h, if_pos]
    simp only [List.any_eq_true, e]
    exact ⟨l, hl, hh⟩

/-! ## Branches -/

/-- A jump inside the stream continues there; one outside it is ILLEGAL (R17). -/
theorem State.jumpTo_cases (s : State) (u : UnitId) (pc : W32) (idle : Nat) :
    (pc.toNat < s.streamLen u → s.jumpTo u pc idle = .ok (s.retireTo u pc idle)) ∧
    (s.streamLen u ≤ pc.toNat → s.jumpTo u pc idle = .error (.trap .illegal 0 s)) := by
  constructor
  · intro h; simp only [State.jumpTo]; rw [if_neg (by omega)]
  · intro h; simp only [State.jumpTo]; rw [if_pos (by omega)]

/-! ## Tokens (R27, R86) -/

/-- What a TWAIT can do. -/
theorem State.twait_cases (s : State) (u : UnitId) (q n idle : Nat) (hf : (s.dense u.cl).frozen = none) :
    let here := Tab.get 0 (s.dense u.cl).q q
    (waitsOn u q = false → s.twait u q n idle = .error (.trap .illegal 0 s)) ∧
    (waitsOn u q = true → n = 0 → s.twait u q n idle = .ok (s.retire u idle)) ∧
    (waitsOn u q = true → 0 < n → n ≤ here → s.twait u q n idle =
      .ok ((s.onDense u.cl fun d => { d with q := Tab.set d.q q (Tab.get 0 d.q q - n) }).retire u idle)) ∧
    (waitsOn u q = true → here < n → s.twait u q n idle = .error (.wait (.token q n))) := by
  refine ⟨?_, ?_, ?_, ?_⟩
  · intro h; simp only [State.twait, h, hf]; rfl
  · intro h h0; simp only [State.twait, h, hf, h0]; rfl
  · intro h h0 h1; simp only [State.twait, h, hf]
    rw [if_neg (by simp), if_neg (by omega), if_neg (by omega)]
  · intro h h1; simp only [State.twait, h, hf]
    rw [if_neg (by simp), if_neg (by omega), if_pos h1]

/-- What a TSEND that has not begun can do: refuse, pass with nothing to send, overflow, or reserve its tokens. -/
theorem State.tsend_cases (s : State) (u : UnitId) (q n idle : Nat) (hf : (s.dense u.cl).frozen = none) :
    let d := s.dense u.cl
    (sendsOn u q = false → s.tsend u q n idle = .error (.trap .illegal 0 s)) ∧
    (sendsOn u q = true → n = 0 → s.tsend u q n idle = .ok (s.retire u idle)) ∧
    (sendsOn u q = true → 0 < n → s.wait u ≠ .sending q n → 255 < Tab.get 0 d.q q + Tab.get 0 d.qres q + n →
      s.tsend u q n idle = .error (.trap .tokenOverflow 0 s)) := by
  refine ⟨?_, ?_, ?_⟩
  · intro h; simp only [State.tsend, h, hf]; rfl
  · intro h h0; simp only [State.tsend, h, hf, h0]; rfl
  · intro h h0 h1 h2; simp only [State.tsend, h, hf]
    rw [if_neg (by simp), if_neg (by omega), if_pos (by simp [h1]; omega)]

/-! ## Exceptions (R361, R366) -/

/-- A cause that is not recoverable stops the node, or the core, of its unit. -/
theorem State.takeTrap_stop (s : State) (u : UnitId) (t : TrapInfo) (h : t.cause.recoverable = false) :
    s.takeTrap u t = s.stopUnit u
      { mkReport t.cause u (s.trapRegs u.handler).intrap t.pc t.seq t.addr with src := BitVec.ofNat 4 t.src } := by
  simp only [State.takeTrap]
  rw [if_pos (by simp [h])]

/-- So does one taken in the handler. -/
theorem State.takeTrap_nested (s : State) (u : UnitId) (t : TrapInfo) (h : (s.trapRegs u.handler).intrap = true) :
    s.takeTrap u t = s.stopUnit u
      { mkReport t.cause u true t.pc t.seq t.addr with src := BitVec.ofNat 4 t.src } := by
  simp only [State.takeTrap]
  rw [if_pos (by simp [h]), h]

/-- A stopped supervisor core changes in that alone. -/
theorem State.stopUnit_sup (s : State) (n : Nat) (r : StopReport) :
    s.stopUnit (.sup n) r = s.onSup n fun x => { x with live := false } := rfl

/-- No node, no stop. -/
theorem State.stopUnit_none (s : State) (u : UnitId) (r : StopReport) (hu : u.isSup = false) (h : s.launchOf u = none) :
    s.stopUnit u r = s := by
  cases u <;> simp_all [State.stopUnit, UnitId.isSup]

end Sys2Proof.Machine
end

