-- ==== Sys2Proof/Tests/Slice0.lean ====
section
/-! SUPPORT. The model's own tests: refused terms and words, words written out in the spec, one-step results worked by hand
from its tables, and for each statement a state and operands that meet its hypotheses. -/

open Sys2Proof Sys2Proof.Machine Sys2Proof.Says

namespace Sys2Proof.Tests

set_option Elab.async false

/-! ## Ill-formed terms are refused, one for each check of WellFormed -/

/-- Element types outside the set of each word (R160 to R165, R168, R173 to R179). -/
theorem test_illformed_lookup_types :
    ([.lda false .cb3 .acc, .sta false .fp4 (.mem 0), .adda false .e4m3 .acc .acc .rne, .suba false .m8 .acc .acc .rne,
      .mula false .int4 .acc .acc .rne, .maca false .cb3 .acc .acc .rne, .mina false .e4m3 .acc .acc, .maxa false .m8 .acc .acc,
      .loga false .and .fp32 .acc .acc, .shfa false .shl .bf16 .acc .acc, .cvta false .cb3 .fp32 .acc .rne,
      .cvta false .fp32 .int4 .acc .rne, .hred false .sum .m8 .acc .rne, .cmpa false .fp4 .acc .acc, .sigaRead false .int8 .acc,
      .sigaWrite false .int8 .acc .acc, .sigaMintag false .int8 .acc, .immaSet false .m8 0, .immaAddi false .m8 0,
      .immaLane0 false .m8 0, .lBsig 0 .int32 0, .gath 0 0 0 0 true 0 .int16, .gath 0 0 0 0 false 0 .bf16, .scat 0 0 0 0 true 0 .cb3,
      .scatw 0 0 0 0 true 0 .cb3, .rowadd false 0 0 0 0 false .rne .int8, .rowscl false 0 0 0 0 .rne .int32,
      .rowcvt false 0 0 0 0 .rne .int16, .rowcvt false 0 0 0 0 .rtz .int32, .rowdot false 0 0 0 0 .rne .int8] : List Instr).all (fun i => !i.wellFormed) = true := by decide
/-- An integer lane word with a rounding mode, STA to no memory, a doubleword of acc past 3, a marker past bit 5. -/
theorem test_illformed_lookup_fields :
    ([.adda false .int32 .acc .acc .rtz, .suba false .int32 .acc .acc .rup, .mula false .int8 .acc .acc .sr,
      .maca false .int16 .acc .acc .rna, .hred false .max .fp32 .acc .rtz, .rowadd false 0 0 0 0 false .rup .int32,
      .sta false .fp32 .acc, .paccGet false 0 4, .paccPut false 0 4, .paccAdd false 0 4, .scat 0 0 0 0 false 1 .fp32,
      .scatw 0 0 0 0 false 1 .fp32, .lFence .loop .device, .lMark 0x40, .put false 1 0 0 0 0 false, .put true 0 0 0 0 8 false,
      .copy 0 0 false false false false .device, .copy 0 1 false false false false .core, .lAmo .fadd .core .int32 0 false false,
      .lAmo .accbf .core .fp32 0 false false, .lAmo .add .core .fp32 0 false false, .amov .fadd .core .int32 0 false false,
      .amov .cas .core .int32 0 false false, .amov .incw .core .int32 0 false false, .amov .bfadd .core .int32 0 false false] :
      List Instr).all (fun i => !i.wellFormed) = true := by decide
/-- The same for the scalar, copy and compute streams (R27, R34, R36, R37, R84, R228, R229, R231, R236, R242 to R254, R256, R259). -/
theorem test_illformed_dense :
    ([.fcvtn false 0 0 0 .fp32 .rne, .fcvtw false 0 0 0 .int8, .fma false 0 0 0 0 0 .rna, .fms false 0 0 0 0 0 .sr,
      .sAmo 0 0 0 0 .fadd .core true, .sAmo 0 0 0 1 .incw .core false, .sTsend 0 3 1, .sTwait 0 0 1, .sMark 0 0x80,
      .sFence 0 .device .loop, .cpy 0 0 false false .device false false false 0, .cpy 0 0 false false .core false false false 1,
      .cMark 0x40, .vcmp false 0 0 0 0 0 .eq, .vcvt false 0 0 0 .cb3 0 .rne, .vefb false 0 1 0 1 0 .rne, .vld 0 0 0 0 .cb3,
      .vst 0 0 0 0 .cb3, .vldg 0 0 0 0 .fp4, .vsts 0 0 0 0 .int4, .vstt 0 0 0 0 .bf16, .vldt 0 0 0 0 .bf16, .epout 0 0 .cb3,
      .vTsend 0 1 0, .vTwait 0 1 0, .vMark 0 0x40] : List Instr).all (fun i => !i.wellFormed) = true := by decide

/-! ## How a witness reads: a chain of operations that each succeed, with each further hypothesis as a `need` -/

/-- One hypothesis of a statement. -/
def need (p : Prop) [Decidable p] : Eff Unit := if p then .ok () else .error (.wait .none)
/-- The value a hypothesis names. -/
def given {α : Type} : Option α → Eff α
  | some x => .ok x
  | none => .error (.wait .none)
/-- Every hypothesis of the chain holds. -/
def met {α : Type} (e : Eff α) : Bool := match e with
  | .ok _ => true
  | .error _ => false
/-- A chain that is met gives a value, with each step of it an equation. -/
theorem exists_of_met {α : Type} {e : Eff α} (h : met e = true) : ∃ a, e = .ok a := by
  cases e with
  | ok a => exact ⟨a, rfl⟩
  | error _ => cases h
theorem of_need {p : Prop} [Decidable p] (h : met (need p) = true) : p := by
  unfold need at h
  split at h
  · assumption
  · cases h

/-! ## Words -/

def reads (st : Stream) (l : List (Nat × Instr)) : Bool := l.all fun p => (decodeWord st p.1).toOption == some p.2

/-- The words written out in chapters 9 and 10. -/
theorem test_decode_lookup : reads .lookup
    [(0x1E0E007F, .immaSet false .int32 0x7F), (0x26400020, .pstr false 1 32), (0x2487FFC0, .padd false 2 0 (-64)),
     (0x2EC20000, .pcrdMyxy false 3), (0x4060A100, .gath 3 0 1 2 false 1 .fp32), (0x6E100004, .waitc 1 4), (0x70100000, .lWaitp 2),
     (0x72000003, .waitt 3), (0x74080220, .copy 2 0 false false true false .device), (0x7C040000, .wlistPush 1),
     (0x7C040100, .wlistPop 1), (0x55503400, .lAmo .fadd .device .fp32 3 false true), (0x58600000, .lFence .rel .device),
     (0x58C00000, .lFence .loop .core), (0x5A830000, .lBar .both 3), (0x7E400003, .lSysTime false 3)] = true := by decide
/-- The words written out in chapter 12. -/
theorem test_decode_scalar : reads .scalar
    [(0x02022180, .add false 0 1 2 3), (0x200A6380, .fadd false 0 5 6 7 .rne), (0x24061088, .fms false 0 3 1 1 2 .rne),
     (0x34082008, .ldw false 0 4 2 8), (0x44082008, .stw 0 4 2 8), (0x4C0A63D4, .sAmo 0 5 6 7 .fadd .device false),
     (0x50022FFC, .beq 0 1 2 (-4)), (0x62007005, .ewr 0 7 .transform 5), (0x66000400, .engo 0 .condenser), (0x68004000, .fpush 0 4),
     (0x6A0A6000, .shape 0 5 6), (0x6C020001, .sTsend 0 1 1), (0x6E0E0002, .sTwait 0 7 2), (0x70000002, .sWaitp 0 2),
     (0x76000009, .sFence 0 .device .rel), (0x78120007, .sSysTime 0 9), (0x78040882, .sSysCrr 0 2 0x11)] = true := by decide
/-- The words written out in chapters 2 and 13. -/
theorem test_decode_compute : reads .compute
    [(0x01050880, .vadd false 0 5 1 2 0 .rne), (0x04044300, .vfma false 0 4 8 12 0 .rne), (0x19020882, .vcmp false 0 2 1 2 0 .lt),
     (0x1B031041, .vcvt false 0 3 2 .bf16 0 .rtz), (0x1C0609C0, .vefb false 0 6 1 7 0 .rne), (0x1D110000, .vbcast 0 17 0),
     (0x1E0400A9, .vmovk 0 4 5 9), (0x1F011100, .kaddi 0 1 1 256), (0x20101000, .vld 0 16 1 0 .fp32), (0x32000103, .vTwait 0 1 3),
     (0x31000104, .vTsend 0 1 4), (0x8208C140, .mma 0 2 3 false true false true)] = true := by decide
/-- Words written out in chapters 4 and 25. -/
theorem test_decode_copy : reads .copy
    [(0x20010000, .cTwait 0 1), (0x58000000, .cHalt), (0x10000000, .dload 0 0), (0, .nop)] = true := by decide
/-- All ones, an unassigned opcode, and a reserved bit are refused by name (R14, R20). -/
theorem test_decode_refuses :
    ((decodeWord .lookup 0xFFFFFFFF).toOption, (decodeWord .lookup 0x3C000000).toOption, (decodeWord .copy 0x60000000).toOption,
      (decodeWord .compute 0x35000000).toOption, (decodeWord .lookup 0x72000008).toOption) = (none, none, none, none, none) := by decide

/-! ## The states of the tests: a node on cluster 0 whose streams are 4,096 bytes long, with a trap vector at 256 -/

def node0 : Node :=
  { image := 0x1000, w := 4, h := 4, dense := true, streams := List.replicate 5 (0, 4096, 0, 256)
    ctBase := 0x2000, ctCount := 4, dtBase := 0x3000, dtCount := 2, epis := List.replicate 16 64 }
def launch0 : Launch := { id := 1, bytes := List.replicate 128 0, queue := 0, arrival := 0, recAddr := 0, state := .onNode, node := some node0 }
/-- One 1 GiB page at DVA 0, in home 1, with R, W and X (R53). -/
def paged (s : State) : State :=
  let m := memWrite s.mem (s.hbmKey 0) (leBytes 16 (1 + 0x2000 * 2 ^ 26))
  { s with mem := memWrite m (s.hbmKey 0x2000) (leBytes 16 (2 + 0x70 + 1 * 2 ^ 16)) }
/-- The node runs, and a unit is to issue. -/
def at' (u : UnitId) : State := { (paged State.reset) with launches := [launch0], cur := u }
/-- A context of core 0 as given. -/
def ctxAt (x : LCtx) : State := (at' (.ctx 0 0)).onCtx 0 0 fun _ => x
/-- A live context whose pointer 1 names the core's own tile, offset 64, with stride 4, and pointer 2 a byte that is no word. -/
def x0 : LCtx :=
  { live := true, p := [(1, { addr := 0x40, stride := 4 }), (2, { addr := 0x41 }), (3, { addr := 0x8000000000000100 })], acc := 0x3F800000
    act := some { chan := 3, msg := { chan := 3, payload := List.replicate 64 1 } } }
def c0 : State := ctxAt x0

/-! ## Lookup stream, class A: witnesses and one-step results -/

/-- The threshold 24, which a full FP32 tag just meets. -/
def cThr (n : BitVec 5) : State := ctxAt { x0 with num := { x0.num with sigen := true, thr := n } }
def addWord : Instr := .adda false .fp32 .acc .one .rne

/-- Each kind of lane word: its operands can be read, and no checked lane is below the threshold. -/
theorem wit_LookupLaneWords_two : ∃ f xs s1 ys s2, twoLanes addWord = some (false, .fp32, .acc, .one, true, f) ∧
    (cThr 24).cur = .ctx 0 0 ∧ (cThr 24).operand 0 0 .fp32 32 .acc = .ok (xs, s1) ∧ s1.operand 0 0 .fp32 32 .one = .ok (ys, s2) ∧
    tagsHigh s2 0 0 (runLanes 1 ((xs.zip (ys.zip ((s2.ctx 0 0).accLanes .fp32))).map fun (p, q, d) => f p q d)).lanes :=
  ⟨_, _, _, _, _, rfl, rfl, rfl, rfl, by unfold tagsHigh; decide⟩
theorem wit_LookupLaneWords_one : ∃ xs s1, oneOperand (.hred false .sum .fp32 .acc .rne) = some (false, .fp32, 32, .acc) ∧
    c0.operand 0 0 .fp32 32 .acc = .ok (xs, s1) ∧
    tagsHigh s1 0 0 (oneResult (.hred false .sum .fp32 .acc .rne) (s1.ctx 0 0).num.sr xs).2.2 :=
  ⟨_, _, rfl, rfl, by unfold tagsHigh; decide⟩
theorem wit_LookupLaneWords_imm : immediateWord (.immaAddi false .fp32 (-64)) = some (false, .fp32) ∧
    tagsHigh c0 0 0 (oneResult (.immaAddi false .fp32 (-64)) (c0.ctx 0 0).num.sr ((c0.ctx 0 0).accLanes .fp32)).2.2 :=
  ⟨rfl, by unfold tagsHigh; decide⟩
/-- One above, a full tag is too low: the sum of acc and 1 traps (R135). -/
theorem wit_LookupLaneWords_low : ∃ f xs s1 ys s2, twoLanes addWord = some (false, .fp32, .acc, .one, true, f) ∧
    (cThr 25).operand 0 0 .fp32 32 .acc = .ok (xs, s1) ∧ s1.operand 0 0 .fp32 32 .one = .ok (ys, s2) ∧
    ∃ l ∈ (runLanes 1 ((xs.zip (ys.zip ((s2.ctx 0 0).accLanes .fp32))).map fun (p, q, d) => f p q d)).lanes,
      s2.sigLow (.ctx 0 0) l.2.toNat = true :=
  ⟨_, _, _, _, _, rfl, rfl, rfl, by decide⟩
/-- CMPA, SIGA_WRITE: operands that can be read; IMMA_LANE0 needs none. -/
theorem wit_LookupCompareStoreLane0_operands : ∃ xs s1 ys s2, c0.cur = .ctx 0 0 ∧
    c0.operand 0 0 .fp32 32 (.mem 1) = .ok (xs, s1) ∧ s1.operand 0 0 .fp32 32 .inPop = .ok (ys, s2) := ⟨_, _, _, _, rfl, rfl, rfl⟩
/-- STA at an aligned pointer that is stepped, and at one that is no word. -/
theorem wit_LookupCompareStoreLane0_store : ∃ t, LOpd.pointer (.memInc 1) = some (1, some false) ∧
    ((c0.ctx 0 0).ptr 1).addr.toNat % ElemType.size .fp32 = 0 ∧
    (c0.stepPtr 0 0 1 (some false)).store (.ctx 0 0) ((c0.ctx 0 0).ptr 1).addr (leBytes 32 (c0.ctx 0 0).acc.toNat) = .ok t ∧
    LOpd.pointer (.mem 2) = some (2, none) ∧ ((c0.ctx 0 0).ptr 2).addr.toNat % ElemType.size .fp32 ≠ 0 :=
  ⟨_, rfl, rfl, rfl, rfl, by decide⟩

/-- The lanes of acc of core 0's context 0 after a word. -/
def accAfter (i : Instr) (s : State) : Nat := match exec i s with | .next t => (t.ctx 0 0).acc.toNat | _ => 0
/-- 1.0 + 1.0 is 2.0, and 0 + 1.0 is 1.0 in the other seven lanes (R115, R160). -/
theorem test_adda : accAfter addWord c0 = 0x3F800000_3F800000_3F800000_3F800000_3F800000_3F800000_3F800000_40000000 := by decide
/-- INT8 -1 in every lane (R165). -/
theorem test_imma_set : accAfter (.immaSet false .int8 0x7F) c0 = 2 ^ 256 - 1 := by decide
/-- Lane 0 of acc, 1.0, compared with 0: C is set for not less (R163). -/
theorem test_cmpa : (match exec (.cmpa false .fp32 .acc .zero) c0 with | .next t => (t.ctx 0 0).f | _ => {}) =
    { z := false, n := false, c := true, v := false } := by decide

/-! ## Pointers and branches -/

theorem wit_LookupPointerWords_pure : c0.cur = .ctx 0 0 ∧ ∃ f, pointerWord 0 (.padd false 1 1 (-1)) = some (false, f) := ⟨rfl, _, rfl⟩
/-- The last constant of the table; an aligned load and store of a pointer. -/
theorem wit_LookupPointerWords_memory : met (do
    let a ← given (c0.constAddr (.ctx 0 0) 3)
    let _ ← c0.load (.ctx 0 0) a 8
    let p := ((c0.ctx 0 0).ptr 1).addr + (8 : BitVec 19).signExtend 64
    need (p.toNat % 8 = 0)
    let _ ← c0.load (.ctx 0 0) p 8
    c0.store (.ctx 0 0) p (leBytes 8 ((c0.ctx 0 0).ptr 3).addr.toNat)) = true := by decide
/-- A relative tile address (SPACE 1, REL) of the own core, an absolute one, and one beyond the grid's east edge. -/
def relAt (x y : Nat) : W64 := BitVec.ofNat 64 (2 ^ 60 + 2 ^ 59 + x * 2 ^ 53 + y * 2 ^ 49)
def cRel (a : W64) : State := ctxAt { x0 with p := [(4, { addr := a })] }
theorem wit_LookupPointerWords_pcrd : ∃ t, (1 ≤ addrSpace (relAt 3 3) ∧ addrSpace (relAt 3 3) ≤ 4) ∧ addrRel (relAt 3 3) = true ∧
    ((cRel (relAt 3 3)).ctx 0 0).ptr 4 = { addr := relAt 3 3 } ∧ target (some 0) (relAt 3 3) = some t ∧
    target (some 0) (relAt 32 0) = none ∧ addrSpace (0x40 : W64) = 0 := ⟨_, by decide, rfl, rfl, rfl, rfl, rfl⟩
theorem wit_LookupPointerWords_home : met (do
    let a := ((c0.ctx 0 0).ptr 3).addr
    need (addrSpace a = 8 ∧ bits a.toNat 59 48 = 0)
    let (e, _) ← c0.leafFor (c0.who (.ctx 0 0)) a (bits a.toNat 47 0)
    need (entKind e.leaf = 2)) = true := by decide
/-- A branch not taken, one to the last word of the stream, a jump past it, RETP to a word address and to none. -/
theorem wit_LookupBranches : (c0.cur = .ctx 0 0) ∧ branchGoes (c0.ctx 0 0) (.br .eq 1) = some none ∧
    branchGoes (c0.ctx 0 0) (.lJmp 1023) = some (some 4092) ∧ (4092 : W32).toNat < c0.streamLen (.ctx 0 0) ∧
    branchGoes (c0.ctx 0 0) (.lJmp 1024) = some (some 4096) ∧ c0.streamLen (.ctx 0 0) ≤ (4096 : W32).toNat ∧
    branchGoes (c0.ctx 0 0) .retp = some (some 0) ∧
    branchGoes ({ x0 with p := [(7, { addr := 2 })] } : LCtx) .retp = some (some 2) ∧ (2 : W32).toNat % 4 ≠ 0 :=
  ⟨rfl, rfl, rfl, by decide, rfl, by decide, rfl, rfl, by decide⟩

/-- CALL leaves the address of the next word in p7 and continues at its target (R169). -/
theorem test_call : (match exec (.call 4) c0 with | .next t => ((t.ctx 0 0).pc, ((t.ctx 0 0).ptr 7).addr) | _ => (0, 0)) = (16, 4) := by decide
/-- PADD wraps at 2^64 (R166). -/
theorem test_padd : (match exec (.padd false 5 4 (-1)) c0 with | .next t => ((t.ctx 0 0).ptr 5).addr | _ => 0) = 0xFFFFFFFFFFFFFFFF := by decide

/-! ## Rows and lists -/

/-- A context with table 0 (16 rows of 32 bytes FP32 at DVA 0x4000) and pointers 0 on as given. -/
def rowCtx (ps : List Nat) : LCtx :=
  { live := true, acc := 2, p := (List.range ps.length).zip (ps.map fun a => { addr := BitVec.ofNat 64 a }) }
def rowSt (ps : List Nat) : State :=
  (ctxAt (rowCtx ps)).onCore 0 fun x => { x with tdesc := [(0, { w0 := 0x4000, w1 := 0x10_0020_0001 })] }
def row3 : State := rowSt [0, 8, 256]

def row1 : State := rowSt [0, 4, 256]

/-- An identifier and a row of 32 bytes: GATH, SCAT and SCATW run to their end; an INT8 payload of an FP32 table does not fit. -/
theorem wit_GatherAndScatterComplete : met (do
    let tb ← row1.table 0 0
    let (n, _) ← row1.rowRange (.ctx 0 0) 0 0 4 4
    let _ ← row1.rowAt (.ctx 0 0) 0 256 (n * tb.rowb) (ElemType.size tb.et)
    let g := row1.gathLoop 0 0 tb 0 0 2 tb.rowb none 0 n
    need (n = 1 ∧ (row1.ctx 0 0).list = none ∧ g.2.1 = 0 ∧ g.2.2.isNone)
    need (scatTypes tb.et .fp32 = true ∧ scatTypes tb.et .int8 = false ∧ ElemType.fp32 = tb.et)
    let _ ← row1.rowAt (.ctx 0 0) 0 256 (n * (tb.len * 4)) 4
    let s1 ← row1.commit (.ctx 0 0) true
    let g := s1.scatLoop 0 0 tb 0 0 2 (tb.len * 4) false none .fp32 n
    need (g.2.1 = 0 ∧ g.2.2.isNone)) = true := by decide +kernel
/-- A list word that has waited, with the table it fixed at issue and one identifier left. -/
theorem wit_GatherAndScatterComplete_waited : met (do
    let tb ← row1.table 0 0
    let s := row1.setList 0 0 (some { desc := Tab.get {} (row1.core 0).tdesc 0, left := 1 })
    let g ← given (s.ctx 0 0).list
    need (g.desc.table = some tb ∧ g.left = 1)
    let p := s.gathLoop 0 0 tb 0 0 2 tb.rowb none 0 g.left
    let q := s.scatLoop 0 0 tb 0 0 2 (tb.len * 4) false none .fp32 g.left
    need (p.2.1 = 0 ∧ p.2.2.isNone ∧ q.2.1 = 0 ∧ q.2.2.isNone)) = true := by decide +kernel
/-- DEDUP of two equal identifiers with its output beside them and the positions written over them. -/
theorem wit_ListWordsComplete_dedup : met (do
    let (n, lo) ← row3.rowRange (.ctx 0 0) 0 0 8 4
    let po ← row3.rowAt (.ctx 0 0) 0 256 (4 * n) 4
    need (spansMeet po (4 * n) lo (4 * n) = false)
    let found := distinct [] (words32 (row3.peekRows (.ctx 0 0) 0 (4 * n)))
    let s0 ← row3.makeRoom (.ctx 0 0) 0 (pieceCount 256 (4 * found.length) + pieceCount 0 (4 * n))
    let (bs, s1) ← s0.loadRows (.ctx 0 0) 0 (4 * n)
    let out := distinct [] (words32 bs)
    need (out = [0])
    let s2 ← s1.storeRows (.ctx 0 0) 256 (out.flatMap (leBytes 4))
    s2.storeRows (.ctx 0 0) 0 ((words32 bs).flatMap fun i => leBytes 4 (indexOf out i))) = true := by decide
/-- BUCKET of two equal keys into two buckets. -/
theorem wit_ListWordsComplete_bucket : met (do
    need (sext 32 ((row3.ctx 0 0).acc.toNat % 2 ^ 32) = 2)
    let (n, lo) ← row3.rowRange (.ctx 0 0) 0 0 8 4
    need (words32 (row3.peekRows (.ctx 0 0) 0 (4 * n)) = [0, 0])
    let out := [0, 1, 0, 2, 2].flatMap (leBytes 4)
    let po ← row3.rowAt (.ctx 0 0) 0 256 out.length 4
    need (spansMeet po out.length lo (4 * n) = false)
    let s0 ← row3.makeRoom (.ctx 0 0) 0 (pieceCount 256 out.length)
    let (bs, s1) ← s0.loadRows (.ctx 0 0) 0 (4 * n)
    need (words32 bs = [0, 0])
    s1.storeRows (.ctx 0 0) 256 out) = true := by decide
theorem wit_ListWordsComplete_ucinc : met (do
    let _ ← row3.table 0 0
    let (n, _) ← row3.rowRange (.ctx 0 0) 0 0 8 4
    let s1 ← row3.commit (.ctx 0 0) true
    s1.loadRows (.ctx 0 0) 0 (4 * n)) = true := by decide
/-- One row of 32 bytes at 0, an output or factors at 256: ROWADD from zero and onto the output, ROWSCL, ROWCVT in place, ROWDOT. -/
theorem wit_RowWordsComplete : met (do
    let s := rowSt [0, 32, 256]
    let tb ← s.table 0 0
    let (n, lo) ← s.rowRange (.ctx 0 0) 0 0 32 (tb.len * 4)
    let _ ← s.rowAt (.ctx 0 0) 0 0 (n * 32) 4
    let po ← s.rowAt (.ctx 0 0) 0 256 32 4
    need (n = 1 ∧ spansMeet po 32 lo 32 = false ∧ spansMeet po 4 lo 32 = false)
    need ((s.ctx 0 0).list = none)
    let s0 ← s.makeRoom (.ctx 0 0) 0 (pieceCount 256 32)
    let (_, s1) ← s0.loadRows (.ctx 0 0) 0 32
    let (_, s2) ← s1.loadRows (.ctx 0 0) 256 32
    let t ← s2.storeRows (.ctx 0 0) 256 (List.replicate 32 0)
    need ((t.ctx 0 0).p = (s.ctx 0 0).p)
    let s0 ← s.makeRoom (.ctx 0 0) 0 (pieceCount 0 16)
    let (_, s1) ← s0.loadRows (.ctx 0 0) 0 32
    let t' ← s1.storeRows (.ctx 0 0) 0 (List.replicate 16 0)
    need ((t'.ctx 0 0).p = (s.ctx 0 0).p ∧ ElemType.size .bf16 ≤ ElemType.size tb.et)
    need (∀ l ∈ [((0 : Nat), (24 : Tag))], s2.sigLow (.ctx 0 0) l.2.toNat = false)) = true := by decide
/-- DEDUP of [0, 0] leaves its output pointer past one identifier (R175). -/
theorem test_dedup : (match exec (.dedup 0 1 2 false) row3 with | .next t => ((t.ctx 0 0).ptr 2).addr | _ => 0) = 260 := by decide

/-! ## Messages, activations and tasks -/

/-- A message address of core (1, 0) that asks for a reply on channel 5 (R180); payload at 64; a TCB at 128 with its join record at 0; the
first word of core (1, 0)'s tile. -/
def msgCtx : LCtx :=
  { live := true, acc := 0x400_0000_0000
    p := [(0, { addr := BitVec.ofNat 64 (2 ^ 60 + 2 ^ 53 + 64 + 5) }), (1, { addr := 64 }), (2, { addr := 128 }), (3, {}),
      (4, { addr := BitVec.ofNat 64 (2 ^ 60 + 2 ^ 53) })]
    act := some { chan := 3, msg := { chan := 3, rq := true, reply := 55, srcCore := 1 } } }
def mSt : State := ctxAt msgCtx
def withCore (f : Core → Core) : State := mSt.onCore 0 f

/-- A send to the last channel when 15 entries are claimed; all 16; reply space all taken; SENDA of 1,024 bytes. -/
theorem wit_SendAndReplyComplete : met (do
    need (sendWord (mSt.ctx 0 0) (.send 55 0 1 1 true) = some (55, 0, 1, 32, true))
    need (sendWord (mSt.ctx 0 0) (.senda 0 0 1 false) = some (0, 0, 1, 1024, false))
    let d ← mSt.msgDest (.ctx 0 0) 0 ((mSt.ctx 0 0).ptr 0).addr
    need (d.rq = true ∧ d.reply = 5 ∧ d.core = 1)
    let _ ← mSt.payloadAt (.ctx 0 0) 0 ((mSt.ctx 0 0).ptr 1).addr 32
    need ((withCore fun q => { q with vn0 := List.replicate 15 {} }).claims 0 false < 16)
    need (16 ≤ (withCore fun q => { q with vn0 := List.replicate 16 {} }).claims 0 false)
    let _ ← mSt.emit (.ctx 0 0) 0 { chan := 55 }
    need ((mSt.core 0).resv < 32 ∧ 32 ≤ ((withCore fun q => { q with resv := 32 }).core 0).resv)) = true := by decide
theorem wit_SendAndReplyComplete_reply : met (do
    let a ← given (mSt.ctx 0 0).act
    need (a.msg.rq = true ∧ a.replied = false)
    let (_, t) ← mSt.payloadAt (.ctx 0 0) 0 ((mSt.ctx 0 0).ptr 1).addr (32 * (1 : BitVec 5).toNat)
    need (t.claims 0 true < 16)) = true := by decide
/-- A PUT with transform 7 to an aligned word of another core's tile memory; transform 8. -/
theorem wit_PutCompletes : met (do
    let da := ((mSt.ctx 0 0).ptr 4).addr
    need ((7 : BitVec 4).toNat < 8 ∧ addrSpace da = 1 ∧ da.toNat % xfAlign 7 = 0 ∧ 8 ≤ (8 : BitVec 4).toNat)
    let (ps, s1) ← mSt.locate (mSt.who (.ctx 0 0)) da (xfBytes 7 (unitBytes 1)) .w
    let p ← given ps.head?
    need (placeCore 0 p.place = 1 ∧ (match p.place with | .reg .. => false | _ => true) = true)
    let (bs, t) ← s1.payloadAt (.ctx 0 0) 0 ((mSt.ctx 0 0).ptr 1).addr (unitBytes 1)
    need (t.claims 0 false < 16 ∧ p.mtype = 0 ∧ t.inOrder (.ctx 0 0) 0 = true)
    t.emit (.ctx 0 0) 0 { payload := bs }) = true := by decide

/-- A state whose join record at tile offset 0 counts w, in an activation of channel 61. -/
def joinSt (w : Nat) : State :=
  (ctxAt { msgCtx with act := some { chan := 61, msg := {}, join := some 0 } }).writePlace (.tile 0 0) (leBytes 4 w) none
/-- HEND of a message's activation and of a task's; SPAWN with a TCB at 128. -/
theorem wit_EndsAndTasks_hend : met (do
    let a ← given (mSt.ctx 0 0).act
    need (a.chan ≠ 61)
    let b ← given ((joinSt 1).ctx 0 0).act
    need (b.chan = 61)) = true := by decide
theorem wit_EndsAndTasks_spawn : met (do
    let tcb := ((mSt.ctx 0 0).ptr 2).addr
    let _ ← mSt.ownOffset (.ctx 0 0) 0 tcb 64
    need (tcb.toNat % 64 = 0)
    let (bs, t) ← mSt.load (.ctx 0 0) tcb 8
    let _ ← t.joinPlace (.ctx 0 0) (bytesW64 bs 0)
    let _ ← t.commit (.ctx 0 0) true
    need ((t.core 0).deque.length < t.dequeRoom 0)) = true := by decide
/-- TEND with one task counted; JOIN of a record that counts none, one, and one with a continuation registered. -/
theorem wit_EndsAndTasks_tend : met (do
    let s := joinSt 1
    let a ← given (s.ctx 0 0).act
    need (a.chan = 61 ∧ a.victim = none)
    let j ← given a.join
    let t0 ← s.commit (.ctx 0 0) false
    let t ← t0.release (.ctx 0 0)
    let p ← t.joinPlace (.ctx 0 0) j
    let w := (t.atRecord (.ctx 0 0) j p).readPlace p 4
    need (1 ≤ w % 2 ^ 31 ∧ ¬ (w % 2 ^ 31 = 1 ∧ 2 ^ 31 ≤ w))) = true := by decide
def joinReads (w : Nat) : Eff Nat := do
  let s := joinSt w
  let j := ((s.ctx 0 0).ptr 3).addr
  let p ← s.joinPlace (.ctx 0 0) j
  let t0 ← s.commit (.ctx 0 0) true
  let t ← (t0.atRecord (.ctx 0 0) j p).release (.ctx 0 0)
  .ok (t.readPlace p 4)
theorem wit_EndsAndTasks_join : met (do
    let w ← joinReads 0
    need (w % 2 ^ 31 = 0 ∧ ((0 : W32) + 4 * (1023 : BitVec 22).signExtend 32).toNat < 4096 ∧ (joinSt 0).streamLen (.ctx 0 0) = 4096)
    let w ← joinReads (2 ^ 31 - 1)
    need (1 ≤ w ∧ w < 2 ^ 31)
    let w ← joinReads (2 ^ 31 + 1)
    need (2 ^ 31 < w ∧ w % 2 ^ 31 ≠ 0)) = true := by decide

/-- HCTL at the ends of each range of channels; its BIND to a word address. -/
theorem wit_HctlAndWaits_hctl : ∀ ch ∈ [(0 : BitVec 6), 55, 56, 60, 61, 62, 63],
    (hctlWord (mSt.ctx 0 0) 0 {} (.hctlMask ch)).isSome = true ∧ (hctlWord (mSt.ctx 0 0) 0 {} (.hctlBind 1 ch)).isSome = true := by decide
theorem wit_HctlAndWaits_commits : met (do
    let t ← mSt.commit (.ctx 0 0) true
    need ((hctlWord (t.ctx 0 0) t.time ((t.core 0).aged t.time 62) (.hctlMask 62)).isSome)) = true := by decide
/-- WAITC at the count it waits for and one short of it; WAITT at the last time that counts as reached and the first that does not. -/
theorem wit_HctlAndWaits_waits :
    let s := withCore fun q => { q with landing := [(1, 4)] }
    let v := Tab.get 0 (s.core 0).landing 1
    ((4 : BitVec 20).toNat ≤ v.toNat ∧ v.toNat < (5 : BitVec 20).toNat) ∧
    (∀ t ∈ [(0, true), (2 ^ 55 + 1, true), (2 ^ 55, false), (1, false)],
      decide ((mSt.time + 2 ^ 56 - t.1) % 2 ^ 56 < 2 ^ 55) = t.2) := by decide
set_option maxRecDepth 100000 in
/-- A work list with room for one, a full one, an empty one, and one to pop from. -/
theorem wit_WorkListWords : met (do
    let ad := ((mSt.ctx 0 0).ptr 1).addr
    mSt.worklistAt (.ctx 0 0) 0 ad
    let near := withCore fun q => { q with worklist := List.replicate 255 (List.replicate 16 0) }
    need ((near.core 0).worklist.length < 256)
    let t ← near.commit (.ctx 0 0) true
    let _ ← t.load (.ctx 0 0) ad 16
    need (256 ≤ ((withCore fun q => { q with worklist := List.replicate 256 [] }).core 0).worklist.length)
    let m ← mSt.commit (.ctx 0 0) true
    need ((m.core 0).worklist = [])
    t.store (.ctx 0 0) ad (List.replicate 16 0)) = true := by decide
/-- WAITC c1, #4 takes 4 from a counter of 5 (R189); POP of an empty list sets Z (R197). -/
theorem test_waitc : (match exec (.waitc 1 4) (withCore fun q => { q with landing := [(1, 5)] }) with
    | .next t => Tab.get 0 (t.core 0).landing 1 | _ => 0) = 1 := by decide
theorem test_pop_empty : (match exec (.wlistPop 1) mSt with | .next t => (t.ctx 0 0).f.z | _ => false) = true := rfl

/-! ## Atomics, synchronisation, SYS and traps of the lookup stream -/

/-- AMO and AMOV at an aligned word of the own tile memory, and at an address that is none. -/
theorem wit_LookupAtomicsComplete : met (do
    let ad := ((c0.ctx 0 0).ptr 1).addr
    let s0 ← c0.beforeAmo (.ctx 0 0) true Except.ok
    need (ad.toNat % 4 = 0 ∧ ((c0.ctx 0 0).ptr 2).addr.toNat % 4 ≠ 0)
    let (old, _) ← s0.amo (.ctx 0 0) .core ad .incw false (BitVec.ofNat 64 ((s0.ctx 0 0).accLane 0)) 0 true
    need (old = 0 ∧ (s0.amovLoop 0 0 .core .add ad true 0 8).2.isNone)) = true := by decide
/-- The own core's barrier slot 3 of two arrivals, and what the context's last arrival was. -/
def barSt (b : BarSlot) : State := c0.onCore 0 fun q => { q with bar := [(3, b)] }
def slot2 : BarSlot := { valid := true, cnt := 2, w := 1, h := 1 }
/-- A replayable activation, and a context with none whose FENCE finds its work done; BAR ARRIVE and WAIT, a slot that is not valid. -/
theorem wit_LookupSynchronisationAndSystem : met (do
    let _ ← given (c0.replayable (.ctx 0 0))
    let s := ctxAt { x0 with act := none }
    need ((s.replayable (.ctx 0 0)).isNone)
    let _ ← s.fence (.ctx 0 0) .full
    let (_, _, w1) ← given (barStep .arrive false 3 slot2 [])
    let (_, _, w2) ← given (barStep .both false 3 slot2 [])
    need (w1 = false ∧ w2 = true)
    let _ ← c0.beforeAmo (.ctx 0 0) (barArrives .both false) Except.ok
    let _ ← c0.commit (.ctx 0 0) true
    need ((Tab.get {} (c0.core 0).bar 3).valid = false)) = true := by decide
/-- TEPOCH with no row operation outstanding in epoch e - k, and with one; a control register that can be read and written. -/
theorem wit_LookupEpochAndRegisters : met (do
    let tb ← row3.table 0 0
    let slot := (tb.epoch - BitVec.ofNat 32 tb.k).toNat % 4
    need (slot = 0 ∧ Tab.get 0 (row3.core 0).acks slot = 0)
    need (Tab.get 0 ((row3.onCore 0 fun q => { q with acks := [(0, 1)] }).core 0).acks slot ≠ 0)
    let _ ← c0.readCr (.ctx 0 0) 0x011
    let t ← c0.commit (.ctx 0 0) true
    t.writeCr (.ctx 0 0) 0x011 24) = true := by decide
/-- A trap whose save area ends at the last byte of tile memory. -/
def handlerCtx (intrap : Bool) (save : Nat) : State := ctxAt { x0 with trap := { intrap := intrap, save := BitVec.ofNat 49 save } }
set_option maxRecDepth 100000 in
theorem wit_LookupTraps : met (do
    let s := handlerCtx false (2 ^ 21 - 256)
    let n ← given (s.nodeOf (.ctx 0 0))
    let x := s.ctx 0 0
    need (x.trap.intrap = false ∧ (n.stream 0).2.2.2 = 256 ∧ x.trap.save.toNat % 32 = 0 ∧ x.trap.save.toNat + 256 ≤ 2 ^ 21)
    let h := handlerCtx true (2 ^ 21 - 256)
    let a := h.tileKey 0 (h.ctx 0 0).trap.save.toNat
    let h := (h.performFlights fun f => f.who == .ctx 0 0 && h.samePlace f.place (.tile 0 (2 ^ 21 - 256)) 256).countSoft a 256
    need ((h.ctx 0 0).trap.intrap = true ∧ h.poisoned a 256 = false)
    let pc : W32 := (bytesW64 (h.readKey a 256) 0xC8).setWidth 32
    need (pc.toNat % 4 = 0 ∧ pc.toNat < h.streamLen (.ctx 0 0))) = true := by decide
/-- TRAP goes on at the vector (R361). -/
theorem test_trap : (match exec (.lSysTrap 7) (handlerCtx false 0x1FF000) with
    | .next t => ((t.ctx 0 0).pc, (t.ctx 0 0).trap.code, (t.ctx 0 0).trap.cause) | _ => (0, 0, 0)) = (256, 7, 0x16) := rfl

/-! ## The scalar sequencer and supervisor cores -/

/-- Scalar sequencer 0: s1 = -2^63, s2 = 64 (a scratchpad word), s7 = 1.0 with tag 20, s3 = -1, s4 = 65 (no word), s5 = 4092 (the last word of the stream). -/
def regs0 : Tab SReg :=
  [(1, { val := 0x8000000000000000 }), (2, { val := 0x40 }), (3, { val := 0xFFFFFFFFFFFFFFFF }), (4, { val := 0x41 }),
   (5, { val := 4092 }), (7, { val := 0x3F800000, tag := 20 })]
def scSt (f : Dense → Dense) : State := (at' (.scalar 0)).onDense 0 fun d => f { d with s := regs0, sc := { d.sc with live := true } }
def sc0 : State := scSt id
def u0 : UnitId := .scalar 0
/-- Supervisor core 0 with the same registers, and a stream of 64 bytes. -/
def su0 : State := (at' (.sup 0)).onSup 0 fun x => { x with s := regs0, len := 64 }

theorem wit_ScalarRegisterFile : scalarUnit u0 = true ∧ (31 : BitVec 5) ≠ 0 ∧ (31 : BitVec 5) ≠ 1 ∧ 1 < 12 ∧ (sc0.dense 0).pend = [] := by decide
/-- A word of each latency, on each unit: its table row, and no interlock. -/
theorem wit_ScalarIntegerWords : met (do
    need (sc0.cur = u0 ∧ su0.cur = .sup 0 ∧ scalarUnit u0 = true ∧ scalarUnit (.sup 0) = true)
    let (_, d, r, lat, _) ← given (integerWord (.div false 0 6 1 3))
    sc0.interlock u0 r (some (d, lat.isNone))
    let (_, d, r, lat, _) ← given (integerWord (.add false 7 0 1 3))
    su0.interlock (.sup 0) r (some (d, lat.isNone))) = true := by decide
/-- FADD of s7, 1.0, with itself under the thresholds 21 and 22, its tag being 21. -/
def thrSt (n : BitVec 5) : State := scSt fun d => { d with sc := { d.sc with num := { d.sc.num with sigen := true, thr := n } } }
theorem wit_ScalarFloatWords : met (do
    let (_, d, r, lat, chk, f) ← given (floatWord (.fadd false 0 6 7 7 .rne))
    let s := thrSt 21
    s.interlock u0 r (some (d, lat.isNone))
    let x := f (s.sReg u0) (s.num u0).sr
    need (chk = true ∧ d ≠ 0 ∧ x.tag = 21 ∧ s.sigLow u0 x.tag = false ∧ (thrSt 22).sigLow u0 x.tag = true)) = true := by decide
/-- A load of s2 whose data have not come; a result in flight to s2 with SBCHK set. -/
def pendSt (v : PendVal) : State := scSt fun d =>
  { d with sc := { d.sc with sbchk := true }, pend := [{ who := u0, dest := .s 2, val := v, due := some 9 }] }
/-- A word of each kind that reads s2, in each of the three states; a poisoned s2. -/
theorem wit_ScalarInterlocks : met (do
    for i in ([.add false 0 6 2 3, .fadd false 0 6 2 7 .rne, .ldw false 0 6 2 0, .stw 0 3 2 0, .sAmo 0 6 2 3 .add .core false,
        .beq 0 2 3 1, .jalr 0 6 2 0, .fpush 0 2, .shape 0 6 2, .ewr 0 2 .transform 1] : List Instr) do
      let r ← given (scalarReads u0 i)
      need (∃ x ∈ r, x ≠ 0 ∧ ∃ p ∈ (pendSt .wait).pendOf u0, p.dest = .s x.toNat ∧ p.waiting = true)
      let s := pendSt (.word 5)
      need (∀ x ∈ r, x ≠ 0 → ∀ p ∈ s.pendOf u0, p.dest = .s x.toNat → p.waiting = false)
      need (∀ x ∈ r, (PendDest.s x.toNat) ∉ (s.dense 0).bad)
      need (s.sbchkOf u0 = true ∧ ∃ x ∈ r, x ≠ 0 ∧ ∃ p ∈ s.pendOf u0, p.dest = .s x.toNat)
      need (∃ x ∈ r, x ≠ 0 ∧ PendDest.s x.toNat ∈ ((scSt fun d => { d with bad := [.s 2] }).dense 0).bad)) = true := by decide +kernel
/-- Loads, constants, tagged loads and stores at an aligned word, and at an address that is none. -/
theorem wit_ScalarLoadsAndStores : met (do
    sc0.interlock u0 [2] (some (6, true))
    let ad := (sc0.sReg u0 2).val + (0 : BitVec 12).signExtend 64
    need (ad.toNat % 8 = 0 ∧ (sc0.sReg u0 4).val.toNat % 8 ≠ 0)
    let (ps, s1) ← sc0.locate (sc0.who u0) ad 8 .r
    let p ← given ps.head?
    let (_, po, _) ← s1.readPart (sc0.who u0) p
    need (po = false ∧ ps = [p])
    let a ← given (sc0.constAddr u0 3)
    need (a.toNat % 8 = 0)
    let (ps, s1) ← sc0.locate (sc0.who u0) a 8 .r
    let p ← given ps.head?
    let (_, po, _) ← s1.readPart (sc0.who u0) p
    need (po = false ∧ ps = [p])
    let (ps, qs, s1) ← sc0.locateTagged u0 ad .r
    let p ← given ps.head?
    let q ← given qs.head?
    let (_, po, s2) ← s1.readPart (sc0.who u0) p
    let (_, qo, _) ← s2.readPart (sc0.who u0) q
    need (po = false ∧ qo = false ∧ ps = [p] ∧ qs = [q])) = true := by decide
theorem wit_ScalarLoadsAndStores_stores : met (do
    sc0.interlock u0 [2, 3] none
    let ad := (sc0.sReg u0 2).val + (0 : BitVec 12).signExtend 64
    let _ ← sc0.store u0 ad (leBytes 8 (sc0.sReg u0 3).val.toNat)
    let (ps, qs, s1) ← sc0.locateTagged u0 ad .w
    let s2 ← s1.writeParts (sc0.who u0) none ps (leBytes 4 (sc0.sReg u0 3).val.toNat)
    s2.writeParts (sc0.who u0) none qs [BitVec.ofNat 8 (0x80 + min (sc0.sReg u0 3).tag.toNat 24)]) = true := by decide
/-- An atomic on a word of core 0's tile memory, and at an address that is no word. -/
def amoSt : State := scSt fun d => { d with s := Tab.set d.s 2 { val := BitVec.ofNat 64 (2 ^ 60) } }
theorem wit_ScalarLoadsAndStores_atomic : met (do
    amoSt.interlock u0 [2, 3, 6] (some (6, true))
    need ((amoSt.sReg u0 2).val.toNat % 4 = 0 ∧ (amoSt.sReg u0 4).val.toNat % 4 ≠ 0)
    amoSt.amo u0 .device (amoSt.sReg u0 2).val .add false (amoSt.sReg u0 3).val (amoSt.sReg u0 6).val) = true := by decide
/-- A branch not taken, one taken to the last word and one past it; JAL to the last word; JALR to it and to no word. -/
theorem wit_ScalarBranches : met (do
    let (_, r, taken, _) ← given (scalarBranch (.beq 0 1 3 1023))
    sc0.interlock u0 r none
    need (taken (sc0.sReg u0) = false)
    let (_, _, taken, o) ← given (scalarBranch (.bne 0 1 3 1023))
    need (taken (sc0.sReg u0) = true ∧ (sc0.pc u0 + 4 * o.signExtend 32).toNat = 4092 ∧ sc0.streamLen u0 = 4096)
    let (_, _, taken, o) ← given (scalarBranch (.blt 0 1 3 1024))
    need (taken (sc0.sReg u0) = true ∧ sc0.streamLen u0 ≤ (sc0.pc u0 + 4 * o.signExtend 32).toNat)
    sc0.interlock u0 [5] (some (1, false))
    let t : W64 := (sc0.sReg u0 5).val + (0 : BitVec 12).signExtend 64
    need (t.toNat % 4 = 0 ∧ t.toNat < sc0.streamLen u0 ∧ (sc0.sReg u0 4).val.toNat % 4 ≠ 0)) = true := by decide

/-- A scalar register that a word of one clk leaves. -/
def sAfter (i : Instr) (s : State) (r : BitVec 5) : W64 := match exec i s with | .next t => (t.sReg u0 r).val | _ => 0
/-- -2^63 + -1 wraps to 2^63 - 1; an arithmetic shift by 64 + 0 shifts by 0; -2^63 is less than -1 (R225). -/
theorem test_add : sAfter (.add false 0 6 1 3) sc0 6 = 0x7FFFFFFFFFFFFFFF := by decide
theorem test_sra : sAfter (.sra false 0 6 1 2) sc0 6 = 0x8000000000000000 := by decide
theorem test_slt : (sAfter (.slt false 0 6 1 3) sc0 6, sAfter (.sltu false 0 6 3 1) sc0 6) = (1, 0) := by decide
/-- The most negative number divided by -1 is itself, with remainder 0; division by 0 gives all ones (R225). -/
theorem test_div_corners : (match integerWord (.div false 0 6 1 3), integerWord (.rem false 0 6 1 3), integerWord (.div false 0 6 1 0) with
    | some (_, _, _, _, f), some (_, _, _, _, g), some (_, _, _, _, h) =>
      let r (x : BitVec 5) := (sc0.sReg u0 x).val
      (f r, g r, h r) | _, _, _ => (0, 0, 0)) = (0x8000000000000000, 0, 0xFFFFFFFFFFFFFFFF) := by decide
/-- JAL leaves PC + 4 in sd and jumps 1,023 words on (R232). -/
theorem test_jal : (match exec (.jal 0 6 1023) sc0 with | .next t => (t.pc u0, (t.sReg u0 6).val) | _ => (0, 0)) = (4092, 4) := by decide

theorem wit_TokensCount : met (do
    let s := scSt fun d => { d with q := [(2, 255), (7, 3)] }
    let d := s.dense 0
    need (d.frozen = none ∧ sendsOn u0 2 = true ∧ sendsOn u0 7 = false ∧ waitsOn u0 7 = true ∧ waitsOn u0 0 = false)
    need (s.wait u0 ≠ .sending 2 1 ∧ 255 < Tab.get 0 d.q 2 + Tab.get 0 d.qres 2 + 1)
    let t := scSt fun d => { d with q := [(2, 254)] }
    need (Tab.get 0 (t.dense 0).q 2 + Tab.get 0 (t.dense 0).qres 2 + 1 ≤ 255)
    need (((t.onDense 0 fun d => { d with qres := Tab.set d.qres 2 1 }).drain u0).unreleased u0 = false ∧ t.flights = [] ∧ t.unreleased u0 = false)
    need (3 ≤ Tab.get 0 d.q 7 ∧ Tab.get 0 d.q 7 < 4)) = true := by decide
theorem wit_FormatAndShape : met (do
    sc0.interlock u0 [2] none
    sc0.interlock u0 [2] (some (6, true))
    need (((scSt fun d => { d with fq := List.replicate 15 0 }).dense 0).fq.length < 16)
    need (16 ≤ ((scSt fun d => { d with fq := List.replicate 16 0 }).dense 0).fq.length)
    need (bits (2 ^ 50) 63 50 ≠ 0 ∧ bits (3 * 2 ^ 48) 49 48 = 3 ∧ bits (2 ^ 49 + 17 * 2 ^ 32) 63 50 = 0)) = true := by decide
/-- A request of M = 33, N = 65, K = 400 in mode 0 with all engines usable is granted 32, 64 and 384 (R214, R215). -/
theorem test_shape : shapeGrant (BitVec.ofNat 64 (400 * 2 ^ 32 + 65 * 2 ^ 16 + 33)) 0xF = BitVec.ofNat 64 (384 * 2 ^ 32 + 64 * 2 ^ 16 + 32) := by
  decide
/-- FENCE with nothing in flight; BAR on a slot without the DENSE bit, and on one with it; a control register; the event latch. -/
theorem wit_ScalarSynchronisationAndSystem : met (do
    let _ ← sc0.fence u0 .rel
    need ((Tab.get {} (sc0.dense 0).bar 3).dense = false)
    let s := scSt fun d => { d with bar := [(3, { slot2 with dense := true })] }
    need ((Tab.get {} (s.dense 0).bar 3).dense = true)
    let _ ← given (barStep .arrive (decide (s.wait u0 = .barrier 3)) 3 (Tab.get {} (s.dense 0).bar 3) (s.dense 0).barSeen)
    sc0.interlock u0 [] (some (6, true))
    let _ ← sc0.readCr u0 0x011
    sc0.interlock u0 [2] none
    let _ ← sc0.writeCr u0 0x011 (sc0.sReg u0 3).val.toNat
    need ((scSt fun d => { d with sc := { d.sc with latch := true } }).latch u0 = true ∧ sc0.latch u0 = false)) = true := by decide
/-- Save areas that end at the last byte of the scratchpad; a saved PC of 0. -/
def trapSt (intrap : Bool) : State := scSt fun d =>
  { d with sc := { d.sc with trap := { intrap := intrap, save := 0x1FFFE00 } }, cp := { d.cp with trap := { intrap := intrap, save := 0x1FFFF00 } } }
theorem wit_DenseTrapTaken : met (do
    let s := trapSt false
    let n ← given (s.nodeOf u0)
    let m ← given (s.nodeOf (.epi 0 3))
    need ((n.stream 1).2.2.2 = 256 ∧ (m.stream 4).2.2.2 = 256 ∧ (s.dense 0).sc.trap.intrap = false ∧ (s.dense 0).cp.trap.intrap = false)
    let a := (s.dense 0).sc.trap.save.toNat
    let b := (s.dense 0).cp.trap.save.toNat
    need (s.further = 0 ∧ 0 < ({ s with further := 8 } : State).further ∧ (s.dense 0).vfault = none)
    need (a % 32 = 0 ∧ a + 512 = 2 ^ 25 ∧ b % 32 = 0 ∧ b + 256 = 2 ^ 25)) = true := by decide
set_option maxRecDepth 100000 in
theorem wit_DenseTrapReturns : met (do
    let s := trapSt true
    let s := (s.performFlights fun f => f.who == u0 && s.samePlace f.place (.scratch 0 0x1FFFE00) 512).countSoft
      (s.scratchKey 0 0x1FFFE00) 512
    let a := s.scratchKey 0 (s.dense 0).sc.trap.save.toNat
    let b := s.scratchKey 0 (s.dense 0).cp.trap.save.toNat
    need (s.poisoned a 512 = false ∧ s.poisoned b 256 = false ∧ (s.dense 0).late = [])
    need (((bytesW64 (s.readKey a 512) 0x120).setWidth 32 : W32).toNat % 4 = 0 ∧ 0 < s.streamLen u0 ∧ 0 < s.streamLen (.compute 0))
    need ((s.dense 0).sc.trap.intrap = true ∧ ((trapSt false).dense 0).sc.trap.intrap = false)) = true := by decide

/-! ## Supervisor functions -/

/-- Bytes at a DVA of the page at 0. -/
def poke (s : State) (dva : Nat) (bs : List Byte) : State := { s with mem := memWrite s.mem (s.hbmKey (2 ^ 30 + dva)) bs }
/-- A launch whose graph lies at DVA 0x8000, with one KERNEL node of one core whose image, at 0x10000, has five empty streams. -/
def launchBytes : List Byte := leBytes 8 0x8000 ++ leBytes 8 0 ++ leBytes 8 0x10000 ++ leBytes 104 7
def waitingLaunch (st : LaunchState) : Launch := { id := 2, bytes := launchBytes, queue := 0, arrival := 0, recAddr := 0x40, state := st }
def withGraph (s : State) : State :=
  let s := poke s 0x8000 (leBytes 8 0 ++ leBytes 8 (2 ^ 10 + 2 ^ 17) ++ leBytes 8 0 ++ leBytes 8 0x10000)
  let s := poke s 0x10060 ([0x100, 0x300, 0x2300, 0x2500, 0x2540].flatMap (leBytes 4))
  poke s 0x10088 (leBytes 8 0x10000)
/-- A supervisor core with s1 and s2 as given. -/
def supSt (a b : Nat) : State :=
  (withGraph (at' (.sup 0))).onSup 0 fun x => { x with s := [(1, { val := BitVec.ofNat 64 a }), (2, { val := BitVec.ofNat 64 b })], len := 64 }
def v0 : UnitId := .sup 0

theorem wit_SupervisorFunctions_maps : met (do
    need (sc0.cur = .scalar 0 ∧ supervisorOnly (.sysPtbase 0 0) = true ∧ (supSt 63 127).cur = .sup 0)
    (supSt 63 127).interlock v0 [1, 2] none
    need (((supSt 63 127).sReg v0 1).val.toNat < 64 ∧ ((supSt 63 127).sReg v0 2).val.toNat < 128)
    need (((supSt 63 31).sReg v0 2).val.toNat < 32 ∧ 64 ≤ ((supSt 64 0).sReg v0 1).val.toNat)
    let t := (supSt 0 0).performAll fun _ => true
    need (t.flights = [] ∧ (t.cores.any fun c => c.2.inFlight) = false)
    need (((supSt 0 6).sReg v0 2).val.getLsbD 2 = true ∧ bits ((supSt 0 6).sReg v0 2).val.toNat 1 0 ≠ 3)) = true := by decide +kernel
/-- LNPOP of queue 0 with a launch waiting, and with none; LNRET of the launch of identity 0 with status 0, whose record then waits for
its acknowledgement, and has it. -/
theorem wit_SupervisorFunctions_lnpop : met (do
    let s := { supSt 1 0 with launches := [waitingLaunch .waiting] }
    s.interlock v0 [1] (some (3, true))
    let l ← given (bestLaunch (s.dropLate 1).devns.toNat ((s.dropLate 1).waitingIn 1))
    need (l.failCause = none ∧ ((supSt 1 0).dropLate 1).waitingIn 1 = [])) = true := by decide +kernel
def lnretSt (sent : Option (BitVec 32)) : State :=
  { supSt (2 ^ 63 + 0x100) 0 with launches := [{ launch0 with sent := sent.map BitVec.toNat }] }
theorem wit_SupervisorFunctions_lnret : met (do
    let s := lnretSt none
    let (bs, t) ← s.load v0 (s.sReg v0 1).val 64
    need (Machine.field bs 8 1 ≤ 3)
    let t ← t.release v0
    let l ← given (t.findLaunch (fun l => decide (l.lid = Machine.field bs 0 8 ∧ l.state ≠ .waiting)))
    need (l.sent = none ∧ Machine.field bs 8 1 ≠ 3 ∧ ((t.endLaunch l 0 0 bs).launch? l.id).isNone)
    let w := { t with windows := [(0, { isOpen := true, base := 0, len := 4096, w := true })] }
    let l := { l with bytes := List.replicate 32 0 ++ leBytes 8 (9 * 2 ^ 60 + 0xFFFF * 2 ^ 44) }
    need ((({ w with launches := [l] } : State).endLaunch l 0 0 bs).launch? l.id).isSome
    -- requeued by a record of status 3
    let s := poke (lnretSt none) 0x108 [3]
    let (bs, _) ← s.load v0 (s.sReg v0 1).val 64
    need (Machine.field bs 8 1 = 3)
    let _ ← s.requeue v0 launch0 (bytesW64 bs 0x30)
    let t := lnretSt (some 3)
    let l ← given (t.findLaunch (fun l => decide (l.lid = 0 ∧ l.state ≠ .waiting)))
    need (l.sent = some 3 ∧ (t.unacked.any fun p => p.seq == 3) = false)
    let p : HostPkt := { type := 4, seq := 3, addr := 0, aux := 0, payload := [] }
    need (({ t with unacked := [p] } : State).unacked.any fun p => p.seq == 3)) = true := by decide +kernel
def nstartSt : State := { supSt 0x8000 (8 + 2 ^ 10 + 2 ^ 17) with launches := [waitingLaunch .running] }
theorem wit_SupervisorFunctions_nstart : met (do
    let s := nstartSt
    let a := bits (s.sReg v0 1).val.toNat 47 0
    need (rectOf (s.sReg v0 2).val.toNat = (8, 0, 1, 1))
    let l ← given (s.findLaunch (fun l => ((l.state == .running || l.state == .boundary) && l.node.isNone &&
        decide (l.graph ≤ a ∧ (a - l.graph) % 128 = 0)) && decide ((a - l.graph) / 128 < l.nodes)))
    let s1 := s.onLaunch l.id fun _ => { l with index := 0 }
    let d ← s1.nodeDesc { l with index := 0 }
    need (d.kind = 0 ∧ s1.rectReady d 8 0 1 1 = true)
    need (s1.flights = [] ∧ s1.unreleased (launchUnit l) = false ∧ l.absentLo = false ∧ l.absentHi = false ∧ l.epochsSaved = false)
    let _ ← (s1.applySpares false).loadImage { l with index := 0 } (d.word 0x18) 8 0 1 1
    s1.startNode { l with index := 0 } d 8 0 1 1) = true := by decide +kernel
/-- PRIV on a dense scalar sequencer stops its node (R25, R366). -/
theorem test_ptbase_priv : (match exec (.sysPtbase 0 1) sc0 with
    | .next t => (t.cluster 0).report.cause | _ => 0) = BitVec.ofNat 8 Cause.priv.code := by decide +kernel

/-! ## V words -/

def uc : UnitId := .compute 0
def ue : UnitId := .epi 0 3
/-- The compute stream with v1 = 1.0 (tag 20) in every lane, v2 = 2 in every lane, k1 = 256, k2 = 1, and k3 = -1. -/
def cpDense (d : Dense) : Dense :=
  { d with cp := { d.cp with live := true }, k := [(1, 256), (2, 1), (3, 0xFFFFFFFFFFFFFFFF)]
           v := [(1, List.replicate 64 { val := 0x3F800000, tag := 20 }), (2, List.replicate 64 { val := 2 })] }
def cpSt (f : Dense → Dense) : State := (at' uc).onDense 0 fun d => f (cpDense d)
def cp0 : State := cpSt id
def cpThr (n : BitVec 5) : State := cpSt fun d => { d with cp := { d.cp with num := { d.cp.num with sigen := true, thr := n } } }
/-- The same on epilogue context 3, which serves row 5 of the drain buffer. -/
def epSt (out : Bool) : State := { cp0 with cur := ue }.onDense 0 fun d =>
  { d.setEpi 3 { live := true, row := 5, outDone := out } with drain := [{ id := 5, cmd := 1, row := 0, lanes := [], out := 0, epi := 1, state := 1 }] }

/-- VADD of v1 and v1 under the thresholds 21 and 22, its tags being 21; VIADD on an epilogue. -/
theorem wit_VectorLaneWords : met (do
    let i : Instr := .vadd false 0 3 1 1 0 .rne
    let (_, d, m, lat, chk, f) ← given (floatLanes i)
    let y ← (cpThr 21).vissue uc (vectorUse i)
    let r := lanesOf y uc (y.mask m) f
    need (chk = true ∧ (((y.putV y.s d (y.mask m) r.lanes lat).collect uc r.flags r.sr).lowLane uc (y.mask m) r.lanes) = false)
    let y ← (cpThr 22).vissue uc (vectorUse i)
    need (((y.putV y.s d (y.mask m) r.lanes lat).collect uc r.flags r.sr).lowLane uc (y.mask m) r.lanes = true)
    let j : Instr := .viadd false 0 3 2 2 0
    let _ ← given (integerLanes j)
    need (vectorUnit uc = true ∧ vectorUnit ue = true ∧ (epSt false).cur = ue)
    (epSt false).vissue ue (vectorUse j)) = true := by decide +kernel
/-- Each word that moves lanes issues; VEFB on one register, with a reserved type, and with the reset types; a sum above its threshold. -/
theorem wit_VectorMoveWords : met (do
    let i : Instr := .vperm 0 3 1 2 0
    let y ← cp0.vissue uc (vectorUse i)
    let _ ← given (movedLanes y i)
    let _ ← cp0.vissue uc (vectorUse (.vcmp false 0 1 1 2 0 .lt))
    let y ← cp0.vissue uc (vectorUse (.vefb false 0 3 1 4 0 .rne))
    let (det, ret) ← given (efbTypes y.d.efbt)
    let rs := lanesOf y uc (y.mask 0) fun o g => (efbLane det ret .rne (o 0) g).1
    need ((y.s.lowLane uc (y.mask 0) rs.lanes) = false ∧ (3 : BitVec 5) ≠ 4)
    let y ← (cpSt fun d => { d with efbt := 0xFF }).vissue uc (vectorUse (.vefb false 0 3 1 4 0 .rne))
    need ((efbTypes y.d.efbt).isNone)
    let _ ← cp0.vissue uc (vectorUse (.vred 0 3 1 0 .sum))
    need (cp0.sigLow uc 0 = false)
    let _ ← cp0.vissue uc (vectorUse (.vmovk 0 4 63 2))
    cp0.vissue uc (vectorUse (.kaddi 0 1 1 0x800))) = true := by decide +kernel
/-- VLD and VST of 64 lanes at 256, VLDG and VSTS with stride 0, VSTT and VLDT; a CB3 word issues as far as its check. -/
theorem wit_VectorMemoryWords_rows : met (do
    let y ← cp0.vissue uc (vectorUse (.vld 0 3 1 0 .fp32))
    let p ← y.s.scratchPart uc (y.k 1 + BitVec.ofNat 64 (256 * (0 : BitVec 8).toNat)) 256 4
    let _ ← y.read [p]
    let y ← cp0.vissue uc (vectorUse (.vst 0 1 1 0 .fp32))
    let _ ← y.s.writePart (y.s.who uc) p (packCodes .fp32 (y.narrow 0 .fp32).1) (some (y.d.vdom.toNat, .fp32))
    need (ElemType.fp32 ≠ .cb3)
    cp0.vissue uc (vectorUse (.vld 0 3 1 0 .cb3))) = true := by decide +kernel
theorem wit_VectorMemoryWords_lanes : met (do
    let y ← cp0.vissue uc (vectorUse (.vldg 0 3 2 1 .int8))
    let ps ← y.lanesAt 1 .int8 64 0
    let _ ← y.read ps
    need (wholeBytes .int8 = true)
    let y ← cp0.vissue uc (vectorUse (.vsts 0 1 2 1 .int8))
    y.s.writeParts (y.s.who uc) (some (y.d.vdom.toNat, .int8)) ps (packCodes .int8 (y.narrow 1 .int8).1)) = true := by decide +kernel
theorem wit_VectorMemoryWords_tags : met (do
    let y ← cp0.vissue uc (vectorUse (.vldt 0 3 1 0 .fp32))
    let (p, q) ← y.tagged (y.k 1 + BitVec.ofNat 64 (256 * (0 : BitVec 8).toNat))
    let _ ← y.read [p, q]
    let y ← cp0.vissue uc (vectorUse (.vstt 0 1 1 0 .fp32))
    let t ← y.s.writePart (y.s.who uc) p (packCodes .fp32 ((List.range 64).map fun i => (y.op 0 i).1)) (some (y.d.vdom.toNat, .fp32))
    t.writePart (y.s.who uc) q ((List.range 64).map fun i => byteOfTag (y.op 0 i).2) none) = true := by decide +kernel
/-- VBR not taken, taken to the last word, and past it; VLOOP at its last round and before; a control register. -/
theorem wit_ComputeControlWords : met (do
    let y ← cp0.vissue uc (vectorUse (.vbr 0 2 .eq 1023))
    need (Cond.holds .eq { z := y.k 2 == 0, n := (y.k 2).getLsbD 63, c := true, v := false } = false)
    need (Cond.holds .ne { z := y.k 2 == 0, n := (y.k 2).getLsbD 63, c := true, v := false } = true)
    need ((y.s.pc uc + 4 * (1023 : BitVec 12).signExtend 32).toNat < y.s.streamLen uc)
    need (y.s.streamLen uc ≤ (y.s.pc uc + 4 * (1024 : BitVec 12).signExtend 32).toNat)
    let y ← cp0.vissue uc (vectorUse (.vloop 0 2 1023))
    need (y.k 2 - 1 = 0 ∧ y.k 1 - 1 ≠ 0)
    let y ← cp0.vissue uc (vectorUse (.vsysCrr 0 4 0x011))
    let _ ← y.s.readCr uc 0x011
    let y ← cp0.vissue uc (vectorUse (.vsysCrw 0 2 0x011))
    let _ ← y.s.writeCr uc 0x011 (y.k 2).toNat
    cp0.vissue uc (vectorUse (.vsysTime 0 4))) = true := by decide +kernel
theorem wit_EpilogueWords : met (do
    let s := epSt false
    let x := (s.dense 0).epiCtx 3
    let _ ← s.vissue ue (vectorUse (.epout 0 1 .fp32))
    let r ← given ((s.dense 0).drain.find? (fun r => r.id == x.row))
    need (x.outDone = false ∧ fmtDtag r.fmt = false ∧ ((epSt true).dense 0 |>.epiCtx 3).outDone = true)) = true := by decide +kernel
/-- 1.0 + 1.0 in lane 63, two clk short of five later (R222, R240); 256 + 256 in k1 (R251). -/
theorem test_kaddi : (match exec (.kaddi 0 1 1 0x100) cp0 with
    | .next t => ((t.passTime 1).landDue.dense 0).k | _ => []) = [(1, 512), (2, 1), (3, 0xFFFFFFFFFFFFFFFF)] := by decide +kernel
theorem test_vadd : (match exec (.vadd false 0 3 1 1 0 .rne) cp0 with
    | .next t => ((Tab.get [] (((t.passTime 4).landDue).dense 0).v 3).getD 63 {}).val | _ => 0) = 0x40000000 := by decide +kernel

/-! ## Promises, matrix words, copies, engines and wakes -/

/-- Slot 2 holds a promise of time p. -/
def slotSt (valid done : Bool) (p : BitVec 56) : State :=
  scSt fun d => { d with w := [(2, { valid := valid, done := done, promise := p })] }
/-- WAITP of a slot that is done, of one due at TIME 1, and of one due at TIME 0 (R78). -/
theorem wit_PromiseWaits : met (do
    let (p, idle) ← given (waitpWord u0 (.sWaitp 3 2))
    need (p = 2 ∧ idle = 3 ∧ ((slotSt true true 0).dense 0).frozen = none)
    need ((Tab.get {} ((slotSt true true 0).dense 0).w 2).done = true)
    need (promiseReached (slotSt true false 1).time 1 = false ∧ promiseReached (slotSt true false 0).time 0 = true)
    need (heldCommand ((Tab.get {} ((slotSt true false 0).dense 0).w 2).cmd.bind fun id => ((slotSt true false 0).cluster 0).ce.find id) = false))
    = true := by decide +kernel
/-- The same of a descriptor in tile memory at 0x200: never used, and queued with a promise of TIME 5. -/
def statSt (st : Nat) : State :=
  (ctxAt { x0 with p := [(5, { addr := 0x200 })] }).writePlace (.tile 0 0x2F8) (leBytes 8 (st * 2 ^ 60 + 5)) none
def statOf (s : State) : Eff (Nat × Bool) := do
  let a := ((s.ctx 0 0).ptr 5).addr
  let _ ← s.ownOffset (.ctx 0 0) 0 a 256
  need (a.toNat % 32 = 0)
  let (bs, t) ← s.load (.ctx 0 0) (a + 0xF8) 8
  .ok (bits (leNat bs) 63 60, promiseReached t.time (bits (leNat bs) 55 0))
theorem wit_PromiseWaits_stat : met (do
    let (st, _) ← statOf (statSt 0)
    need (st = 0)
    let (st, _) ← statOf (statSt 3)
    need (st = 3)
    let (st, r) ← statOf (statSt 1)
    need (st ≠ 0 ∧ st ≠ 3 ∧ r = false)
    let (st, r) ← statOf { statSt 1 with time := 5 }
    need (st ≠ 0 ∧ st ≠ 3 ∧ st ≠ 4 ∧ st ≠ 5 ∧ r = true)
    let (st, _) ← statOf (statSt 4)
    need (st = 4)) = true := by decide +kernel

/-- INT8 products into INT32, M = N = 1 and K = 16; operands in t2 and t3. -/
def fmtInt8 : W32 := BitVec.ofNat 32 (2 ^ 8 + ElemType.code .int8 * 16 + ElemType.code .int8)
def mxSt (f : Dense → Dense) : State := cpSt fun d => f { d with
  fq := [fmtInt8], grant := BitVec.ofNat 64 (16 * 2 ^ 32 + 2 ^ 16 + 1)
  t := [(2, { base := 0, attr := 0x100 }), (3, { base := 0x400, attr := 0x100 })] }
def mmaWord : Instr := .mma 0 2 3 false true false false
theorem wit_MatrixWords : met (do
    let s := mxSt id
    need (s.cur = .compute 0 ∧ (s.dense 0).frozen = none ∧ (s.dense 0).mq.length < 8 ∧ (s.dense 0).mqAt ≤ s.time)
    need (s.time < ((mxSt fun d => { d with mqAt := 1 }).dense 0).mqAt ∧ ((mxSt fun d => { d with popAt := 1 }).dense 0).popAt = s.time + 1)
    need ((tileWait mmaWord).isSome = true ∧ 8 ≤ ((mxSt fun d => { d with mq := List.replicate 8 { word := .nop } }).dense 0).mq.length)
    need (((mxSt fun d => { d with frozen := some { handler := uc } }).dense 0).frozen ≠ none)
    let m ← given (mword mmaWord)
    let (c, _) ← (s.drain uc).captureCmd 0 mmaWord m (s.pc uc) false
    need (c.word = mmaWord ∧ m.adv = false ∧ m.op ≠ .mzero ∧ (s.dense 0).condenserBusy = false ∧ (cp0.dense 0).fq = [])
    let b := mxSt fun d => { d with eng := [(1, { busy := true })] }
    let mk ← given (mword (.mmak 0 2 3 false true false))
    need (mk.op = .mmak ∧ (b.dense 0).fq ≠ [] ∧ (b.dense 0).condenserBusy = true)
    need ((s.dense 0).cmdIds = [] ∧ ((mxSt fun d => { d with mq := [{ id := 4, word := .nop }] }).dense 0).cmdIds ≠ [])) = true := by
  decide +kernel

/-- A PLAIN descriptor of 32 INT8 elements from DVA 0x100 to DVA 0x8000 (R66, R67). -/
def plainDesc : List Byte :=
  leBytes 8 (2 ^ 63 + 0x100) ++ leBytes 8 (2 ^ 63 + 0x8000) ++ List.replicate 40 0 ++
  leBytes 4 0 ++ leBytes 4 (2 ^ 14 + ElemType.code .int8 * 16 + ElemType.code .int8) ++ List.replicate 8 0 ++
  leBytes 4 32 ++ List.replicate 44 0 ++ leBytes 4 1 ++ List.replicate 44 0 ++ leBytes 4 1 ++ List.replicate 84 0
def ul : UnitId := .load 0
def ldSt (n : Nat) : State :=
  let s := (at' ul).onDense 0 fun d => { d with dload := [(2, { act := plainDesc })] }
  s.onCe 0 fun e => { e with q := [(0, List.replicate n { id := 0, desc := [], q := 0, issuer := ul })] }
theorem wit_CopyWords_cpy : met (do
    let s := ldSt 15
    let x := (s.dense 0).dreg ul 2
    need (copyUnit ul = true ∧ x.fill = none ∧ x.poison = false ∧ plainDesc.length = 256)
    need ((Tab.get [] (s.cluster 0).ce.q 0).length < 16 ∧ 16 ≤ (Tab.get [] ((ldSt 16).cluster 0).ce.q 0).length)
    s.checkCopy (s.copyWho 0 0 ul) (Desc.ofBytes ((x.act ++ List.replicate (256 - x.act.length) 0).take 256)) (s.num ul).tagbase) = true := by
  decide +kernel
theorem wit_CopyWords_dload : met (do
    let s := ldSt 0
    let n ← given (s.nodeOf ul)
    need ((1 : BitVec 16).toNat < n.dtCount ∧ ((s.dense 0).dreg ul 3).fill = none)
    s.locate (s.who ul) (BitVec.ofNat 64 (8 * 2 ^ 60 + (n.dtBase + 256 * (1 : BitVec 16).toNat) % 2 ^ 60)) 256 .r) = true := by decide +kernel
theorem wit_CopyWords_copy : met (do
    let s := (ctxAt { x0 with p := [(5, { addr := 0x200 })] }).writePlace (.tile 0 0x200) plainDesc none
    let ad := ((s.ctx 0 0).ptr 5).addr
    let _ ← s.ownOffset (.ctx 0 0) 0 ad 256
    need (ad.toNat % 32 = 0)
    let (bs, s1) ← s.load (.ctx 0 0) ad 256
    need ((Tab.get [] (s1.cluster 0).ce.q 2).length < 32)
    s1.checkCopy (s1.copyWho 0 2 (.ctx 0 0)) (Desc.ofBytes bs) (s1.num (.ctx 0 0)).tagbase) = true := by decide +kernel
/-- LBR at a count of 1, and of 2 to the last word of the stream and past it; a copy outstanding and none. -/
theorem wit_CopyStreamControl : met (do
    let s := (ldSt 0).setLoop ul 1 1
    need (s.cur = ul ∧ s.loopCount ul 1 = 1 ∧ ((s.setLoop ul 2 2).loopCount ul 2) = 2)
    need ((s.pc ul + 4 * (1023 : BitVec 16).signExtend 32).toNat < s.streamLen ul)
    need (s.streamLen ul ≤ (s.pc ul + 4 * (1024 : BitVec 16).signExtend 32).toNat)
    need ((ldSt 0).copiesPending ul = false ∧ (ldSt 1).copiesPending ul = true)) = true := by decide +kernel
/-- The last register of the transform unit and one past it; a shadow that is ready. -/
theorem wit_EngineWords : met (do
    let _ ← given (ewrMask 0 6)
    need ((ewrMask 0 7).isNone ∧ (((sc0.dense 0).engine 0).read 0 8).isNone)
    sc0.interlock u0 [2] none
    need (((sc0.dense 0).engine 0).ready = false)
    let s := scSt fun d => d.setEngine 0 { ready := true }
    need (((s.dense 0).engine 0).ready = true)
    let _ ← given (((sc0.dense 0).engine 0).read 0 7)
    sc0.interlock u0 [] (some (6, true))
    let t ← sc0.fence u0 .rel
    need (((t.dense 0).engine 0).ready = false)) = true := by decide +kernel
/-- A unit that sleeps on a word, the word in memory, and an event for it. -/
def sleeping (u : UnitId) (i : Instr) (q : Wait) : State :=
  let s := { at' u with arg := { u := u } }
  let s := { s with mem := memWrite s.mem (s.hbmKey (2 ^ 30 + 0x1000)) (leBytes 4 ((encode i).getD 0)) }
  (s.setLive u true).setWait u q
/-- The word is one that the event wakes. -/
def woken (s : State) (ev i : Instr) : Eff Unit := do
  need (s.cur = s.arg.u ∧ s.canIssue s.arg.u = true ∧ wokenBy (s.wait s.arg.u) ev i = true)
  let (w, _) ← s.fetch s.arg.u
  need ((decodeWord (streamOf s.arg.u) w).toOption = some i)
/-- WAITP of slot 2 on a done promise, and on one that is due. -/
def slotAt (u : UnitId) (i : Instr) (done : Bool) : State :=
  (sleeping u i (.promise 2)).onDense 0 fun d => { d with w := [(2, { valid := true, done := done })] }
theorem wit_WakesAndLandings_promises : met (do
    for (u, i) in ([(u0, .sWaitp 3 2), (ul, .cWaitp 2), (uc, .vWaitp 1 2)] : List (UnitId × Instr)) do
      let (p, _) ← given (waitpWord u i)
      need (p = 2)
      woken (slotAt u i true) .waitpComplete i
      woken (slotAt u i false) .promiseExpiry i
      need (((slotAt u i true).dense 0).frozen = none ∧ promiseReached (slotAt u i false).time 0 = true)
    let s := sleeping (.ctx 0 0) (.lWaitp 1) (.stat 0)
    woken s .waitpComplete (.lWaitp 1)
    need (s.quiet (.ctx 0 0) = true ∧ bits (leNat (s.ownBytes 0 (((s.ctx 0 0).ptr 1).addr + 0xF8) 8)) 63 60 = 0)) = true := by decide +kernel
theorem wit_WakesAndLandings_lookup : met (do
    let s := (sleeping (.ctx 0 0) (.waitc 1 4) (.counter 1 4)).onCore 0 fun q => { q with landing := [(1, 4)] }
    woken s .waitcComplete (.waitc 1 4)
    need ((4 : BitVec 20).toNat ≤ (Tab.get 0 (s.core 0).landing 1).toNat)
    let s := sleeping (.ctx 0 0) (.waitt 3) (.untilTime 0)
    woken s .waittExpiry (.waitt 3)
    need (promiseReached s.time (((s.ctx 0 0).ptr 3).addr.toNat % 2 ^ 56) = true)
    let s := (sleeping (.ctx 0 0) (.tepoch 0) (.epoch 0)).onCore 0 fun x => { x with tdesc := [(0, { w0 := 0x4000, w1 := 0x10_0020_0001 })] }
    woken s .epochAdvance (.tepoch 0)
    let tb ← s.table 0 0
    need (s.quiet (.ctx 0 0) = true ∧ Tab.get 0 (s.core 0).acks ((tb.epoch - BitVec.ofNat 32 tb.k).toNat % 4) = 0)) = true := by decide +kernel
/-- TWAITs with as many tokens as they take, in each stream; MSYNC, WFE, CFENCE and HALT that may go on. -/
theorem wit_WakesAndLandings_dense : met (do
    for (u, i) in ([(u0, .sTwait 0 7 2), (ul, .cTwait 0 2), (uc, .vTwait 0 2 1)] : List (UnitId × Instr)) do
      let (q, n, _) ← given (twaitWord i)
      let s := (sleeping u i (.token q n)).onDense 0 fun d => { d with q := [(q, 2)] }
      woken s .tokenWaitComplete i
      need ((s.dense 0).frozen = none ∧ waitsOn u q = true ∧ 0 < n ∧ n ≤ Tab.get 0 (s.dense 0).q q)
    let s := sleeping uc (.msync 0) (.msync [4])
    woken s .msyncComplete (.msync 0)
    need ((s.dense 0).frozen = none ∧ 4 ∉ (s.dense 0).cmdIds)
    let s := (sleeping u0 (.sysWfe 0) .wfe).setLatch u0 true
    woken s .wfeWake (.sysWfe 0)
    need (scalarUnit u0 = true ∧ s.latch u0 = true)
    for (i, h) in ([(.cfence, false), (.cHalt, true)] : List (Instr × Bool)) do
      let s := sleeping ul i (.fence h)
      woken s .cfenceComplete i
      need (copyUnit ul = true ∧ (s.pc ul).toNat < s.streamLen ul ∧ s.copiesPending ul = false)) = true := by decide +kernel
/-- A stream run off; results that have landed. -/
theorem wit_WakesAndLandings : met (do
    let s := ((at' ul).onDense 0 fun d => { d with ld := { d.ld with live := true, pc := 4096, wait := .fence false } })
    need (s.canIssue ul = true ∧ s.wait ul = .fence false ∧ s.streamLen ul ≤ (s.pc ul).toNat)
    let s := { pendSt (.word 5) with arg := { u := u0, a := 0 } }
    let p ← given (s.pendOf u0)[0]?
    need (u0.isDense = true ∧ p.waiting = false ∧ p.flags = 0 ∧ p.seq = none ∧ p.kept = false)
    need ((s.pendOf u0).eraseIdx 0 = [])) = true := by decide +kernel

/-! ## The dense core's own events -/

/-- The state a word leaves. -/
def after (i : Instr) (s : State) : State := match exec i s with
  | .next t => t
  | _ => s
/-- An event at cluster 0. -/
def eventAt (s : State) (a b : Nat) : State := { s with arg := { a := a, b := b } }
/-- The queued MMA of `mxSt`, accumulating or overwriting, and other commands with its format and grant. -/
def queued (i : Instr) : MCmd :=
  { id := 3, word := i, fmt := fmtInt8, grant := BitVec.ofNat 64 (16 * 2 ^ 32 + 2 ^ 16 + 1)
    regs := [{ base := 0, attr := 0x100 }, {}, { base := 0x400, attr := 0x100 }, {}] }
def startSt (i : Instr) (f : Dense → Dense) : State := eventAt (mxSt fun d => f { d with mq := [queued i] }) 0 0
def intBank : AccBank := { kind := some (1, 0) }

theorem wit_MatrixCommandStarts_common : met (do
    let s := startSt mmaWord id
    need ((s.dense 0).mq = [queued mmaWord] ∧ (s.dense 0).mfault = false ∧ s.gated = false)
    let n ← given (s.nodeOf (.matrix 0))
    need (n.stopped = false ∧ (queued mmaWord).geo.live = true ∧ ({ queued mmaWord with grant := 0 } : MCmd).geo.live = false)
    let m ← given (mword mmaWord)
    let x ← given (s.mctx 0 (queued mmaWord) m).toOption
    need ((x.multiply ((s.dense 0).bank m.bank) (s.dense 0).mxsr).fault = none)) = true := by decide +kernel
/-- An accumulate onto a bank of FP32 sums is of the wrong kind; a poisoned operand faults. -/
theorem wit_MatrixCommandStarts_faults : met (do
    let m ← given (mword (.mma 0 2 3 false false false false))
    need (m.op.multiplies = true ∧ m.set = false ∧ bankOk { kind := some (0, 0) } (fmtAcc fmtInt8) (queued mmaWord).geo.mode = false)
    let s := startSt mmaWord id
    let m ← given (mword mmaWord)
    let p ← given (s.operandPlace 0 ((queued mmaWord).regs.getD 0 {}) 1).toOption
    let x ← given ((s.poisonPlace p 1).mctx 0 (queued mmaWord) m).toOption
    need ((x.multiply ((s.dense 0).bank m.bank) (s.dense 0).mxsr).fault = some .poison)) = true := by decide +kernel
theorem wit_MatrixCommandStarts_rest : met (do
    let i : Instr := .mldacc 0 2 false false
    let s := startSt i id
    let m ← given (mword i)
    need (m.op = .mldacc)
    let base ← given (s.operandPlace 0 ((queued i).regs.getD 0 {}) 1).toOption
    let _ ← given (loadAcc s 0 (queued i) base ((s.dense 0).bank false)).toOption
    let d ← given (mword (.mdrain 0 2 false false))
    need (d.op = .mdrain ∧ bankOk intBank (fmtAcc fmtInt8) (queued (.mdrain 0 2 false false)).geo.mode = true ∧ intBank.bad = [])
    need ((List.replicate 31 0).length + (queued mmaWord).geo.m ≤ 32 ∧ 32 < (List.replicate 32 0).length + (queued mmaWord).geo.m)
    let z ← given (mword (.mzero 0 false))
    need (z.op = .mzero)) = true := by decide +kernel
/-- R274: a drain of one column sums every column of its engine; the check value 8 is not the sum 5 + 2. -/
def checkedBank (chk : W32) : AccBank :=
  { intBank with chkValid := true, chk := [(0, chk)], el := [(0, { val := 5 }), (1, { val := 2 })] }
def checkedDrain : MCmd := { queued (.mdrain 0 2 false false) with fmt := fmtInt8 ||| 0x800000 }
theorem test_drain_check : (drainMiss checkedDrain 0xF (checkedBank 7), drainMiss checkedDrain 0xF (checkedBank 8)) = (false, true) := by
  decide +kernel
/-- A drain row of cluster 0 in each state, and a finished one whose output is at scratchpad 0x800. -/
def rowOf (st : Nat) : DrainRow :=
  { id := 5, cmd := 3, row := 0, lanes := [], out := 0x800, epi := 1, state := st, bytes := List.replicate 64 7, tags := List.replicate 64 0x98 }
theorem wit_MatrixEventsComplete : met (do
    let s := cpSt fun d => { d with running := [queued mmaWord], drain := [] }
    let _ ← given ((s.dense 0).running.find? (fun c => !((s.dense 0).drain.any fun r => r.cmd == c.id)))
    let s := cpSt fun d => { d with drain := [rowOf 0], epi := [(0, { live := true })] }
    let _ ← given ((s.dense 0).drain.find? (fun r => r.state == 0))
    let e ← given ((List.range 4).find? (fun e => !((s.dense 0).epiCtx e).live))
    let _ ← given (((cpSt fun d => { d with running := [queued mmaWord] }).dense 0).running.find? fun c =>
      !(cpSt fun d => { d with running := [queued mmaWord] }).drains 0 c)
    let n ← given (s.nodeOf uc)
    need (e = 1 ∧ (s.dense 0).frozen = none ∧ n.stopped = false)
    let t := cpSt fun d => { d with drain := [] }
    let attr : W64 := 1#64 <<< 62
    let _ ← given (t.operandPlace 0 { base := (rowOf 2).out, attr := attr } (rowOf 2).bytes.length).toOption
    let a ← given (tagAddr 0x4000 (rowOf 2).out)
    let _ ← given (t.operandPlace 0 { base := a, attr := attr } 64).toOption
    need (fmtDtag 0 = false ∧ fmtDtag (BitVec.ofNat 32 (2 ^ 22)) = true)
    let s := (cpSt fun d => { d with follow := [{ queued mmaWord with copy := 9, follow := true }] }).onCe 0 fun e =>
      { e with q := [(0, [{ id := 9, desc := [], q := 0, issuer := ul }])] }
    need (s.arbiterFree 0 = true)
    let _ ← given ((((s.onDense 0 fun d => { d with follow := [] }).acceptFollow 0 (queued mmaWord)).cluster 0).ce.find 9)) = true := by
  decide +kernel

/-- The copy of `plainDesc`, accepted; the same with all its bytes written; a CODEBOOK command whose counter, at DVA 0x9000, stands at 1. -/
def copying : State := eventAt (after (.cpy 2 0 false false .core false false false 0) (ldSt 0)) 0 0
def copied : State := copying.onCe 0 fun e => { e with q := e.q.map fun (q, cs) => (q, cs.map fun c => { c with pos := 32, state := .running }) }
def bookDesc : List Byte :=
  leBytes 8 (2 ^ 63 + 0x100) ++ leBytes 8 (2 ^ 63 + 0x8000) ++ List.replicate 8 0 ++ leBytes 8 (2 ^ 63 + 0xA000) ++ leBytes 8 (2 ^ 63 + 0x9000) ++
  List.replicate 20 0 ++ leBytes 4 (2 ^ 14 + 3 * 2 ^ 11 + ElemType.code .int8 * 16 + ElemType.code .cb3) ++ List.replicate 4 0 ++
  leBytes 2 64 ++ leBytes 2 0 ++ leBytes 4 128 ++ List.replicate 180 0
def booking : State := (poke (at' ul) 0x9000 [1, 0, 0, 0]).onCe 0 fun e =>
  { e with q := [(0, [{ id := 9, desc := bookDesc, q := 0, issuer := ul }])] }
theorem wit_CopyEventsComplete : met (do
    let e := (copying.cluster 0).ce
    need (e.used < copyWeight e.turn)
    let c ← given (runnable [] (Tab.get [] e.q e.turn)).head?
    need (c.acq = false ∧ c.mtype < 2)
    let r ← copying.burst 0 c.chunked
    need ((match r with | .moved .. => true | _ => false) = true)
    let c ← given (Tab.get [] (copied.cluster 0).ce.q 0).head?
    let d := Desc.ofBytes c.desc
    need (c.state = .running ∧ d.total ≤ c.pos ∧ (copied.performFlights fun f => f.cmd == c.id).copyOut c.id = [] ∧ d.cks = 0 ∧ c.follow = none ∧ c.rel = false)
    need ((copied.dense 0).follow.any (fun m => m.copy == c.id) = false)) = true := by decide +kernel
/-- The same with a checksum that holds, with one that misses, and with a follow-on whose entry is free, and is not. -/
def checkedCopy (v : Nat) : CopyCmd → CopyCmd := fun c =>
  { c with desc := c.desc.take 0x30 ++ leBytes 8 v ++ (c.desc.drop 0x38).take 4 ++ leBytes 4 (leNat ((c.desc.drop 0x3C).take 4) + 2 ^ 23) ++ c.desc.drop 0x40 }
theorem wit_CopyEventsComplete_checksum : met (do
    let c ← given (Tab.get [] (copied.cluster 0).ce.q 0).head?
    let good := checkedCopy 0 c
    let bad := checkedCopy 1 c
    need ((Desc.ofBytes good.desc).cks = 2 ∧ (Desc.ofBytes good.desc).total ≤ good.pos)
    need (good.check (Desc.ofBytes good.desc) = (Desc.ofBytes good.desc).ckv ∧ bad.check (Desc.ofBytes bad.desc) ≠ (Desc.ofBytes bad.desc).ckv)
    let full := copied.onDense 0 fun d => { d with mq := List.replicate 8 (queued mmaWord) }
    need ((copied.dense 0).follow = [] ∧ copied.arbiterFree 0 = true ∧ full.arbiterFree 0 = false)) = true := by decide +kernel
/-- A burst of a command with ACQ, nothing before which is still to be performed. -/
theorem wit_CopyEventsComplete_acquire : met (do
    let s := eventAt (after (.cpy 2 0 true false .core false false false 0) (ldSt 0)) 0 0
    let c ← given (runnable [] (Tab.get [] (s.cluster 0).ce.q (s.cluster 0).ce.turn)).head?
    let g := s.settleEarlier c.before
    need (c.acq = true ∧ g.stillOut c.issuer c.before = false)
    let r ← g.burst 0 c.chunked
    need ((match r with | .moved .. => true | _ => false) = true)) = true := by decide +kernel
theorem wit_CopyEventsComplete_book : met (do
    let c ← given (Tab.get [] (booking.cluster 0).ce.q 0).head?
    let d := Desc.ofBytes c.desc
    need (bookDesc.length = 256 ∧ c.tableWait = true ∧ c.acq = false ∧ c.mtype < 2)
    let w := { booking.copyWho 0 0 c.issuer with cmd := c.id }
    let (cnt, t) ← booking.copyRead w d.tblrdy 4 .r
    need (cnt.any (·.2) = false ∧ c.pos / d.block + 1 = leNat (cnt.map (·.1)))
    t.copyRead w (addrPlus d.tbl (16 * (c.pos / d.block))) 16 .r) = true := by decide +kernel
theorem wit_CopyEventsComplete_fill : met (do
    let s := after (.dload 3 1) (ldSt 0)
    let ps ← given ((s.dense 0).dreg ul 3).fill
    s.readParts { s.who ul with u := fillUnit ul } (ps.map fun (pl, len, nm) => { place := pl, len := len, name := nm })) = true := by decide +kernel
/-- Engines at work on empty operands. -/
def engSt (e : Nat) : State := eventAt (scSt fun d => d.setEngine e { busy := true }) 0 0
theorem wit_EngineEventsComplete_transform : met (do
    let s := engSt 0
    let x := Xform.ofEngine ((s.dense 0).engine 0)
    let r := s.xformRun 0 x (x.t * x.q) 0 {}
    let s := s.checkSources 0 x
    let w := s.who (.engine 0 0)
    let data : List CWrite := (joinRuns (r.out.mergeSort fun a b => decide (a.1 ≤ b.1))).map fun (o, bs) =>
      { addr := addrPlus x.dst (o : Int), bytes := bs, wr := some (xformDom x.op, etOf x.oet) }
    need (((s.dense 0).engine 0).busy = true ∧ ((s.dense 0).engine 0).result = none ∧ x.tags = false ∧ r.fault = none)
    s.admitWrites w (s.splitWrites w (data ++ [])).1) = true := by decide +kernel
theorem wit_EngineEventsComplete_sparse : met (do
    let s := engSt 1
    let c := CondSet.ofEngine ((s.dense 0).engine 1)
    let (_, s1) ← given (s.readRows 0 1 0 0 0 32 c.s (2 ^ 32)).toOption
    let _ ← given (s1.readRows 0 1 0 0 0 c.klen c.s 64).toOption
    let s := engSt 2
    let m := Mrg.ofEngine ((s.dense 0).engine 2)
    let (a, b, _) ← given (s.mixedOperands 0 m).toOption
    need (((s.dense 0).engine 2).busy = true ∧ ((s.dense 0).engine 2).result = none)
    need ((mergeRows m a b {}).full = false)
    -- one that waited ends when its writes are performed
    let s := scSt fun d => d.setEngine 0 { busy := true, result := some { status := 0 } }
    let t := s.drain (.engine 0 0)
    let r ← given ((t.dense 0).engine 0).result
    need (r.stop = none ∧ ((t.dense 0).engine 0).spill = [] ∧ t.engineOut 0 0 = false)) = true := by decide +kernel

/-! ## Cores, memory and nodes: events -/

/-- Core 0 under the node, with a handler for channel 3, as given. -/
def coreSt (f : Core → Core) : State := eventAt (c0.onCore 0 fun q => f { q with handlers := [(3, { valid := true, entry := 64 })] }) 0 0
def msg1 : Message := { chan := 3, dstDev := Config.deviceNumber, payload := List.replicate 32 1 }
theorem wit_CoreEventsComplete_arrival : msg1.dstDev = Config.deviceNumber ∧ met (do
    let s := coreSt fun q => { q with vn0 := [msg1] }
    let m ← given (s.core 0).vn0[s.arg.b]?
    let t := s.onCore 0 fun c => { c with vn0 := (s.core 0).vn0.eraseIdx 0 }
    need (s.niHolds (.ctx 0 m.srcCtx) m.dstCore m.id = false)
    need (mayArrive ((s.core 0).vn0.take 0) m = true ∧ t.forwardTo m.dstCore { m with refused := false } = none ∧ m.put = none)
    need ((t.core m.dstCore).refusesChannel m.chan = false ∧ (t.core m.dstCore).reqStore < 32 ∧ m.vn1 = false)
    need (32 ≤ ((coreSt fun q => { q with vn0 := [msg1], reqStore := 32 }).core 0).reqStore)
    let s := { s with arg := { yes := true } }.onCore 0 fun q => { q with vn1 := [{ msg1 with vn1 := true }] }
    let m ← given (s.core 0).vn1[s.arg.b]?
    need (m.vn1 = true ∧ mayArrive [] m = true)) = true := ⟨rfl, by decide +kernel⟩
/-- Channel 3 has been runnable for 65,536 clk. -/
def agedSt : State := { coreSt fun q => { q with channels := [(3, [msg1])], ctxs := [] } with time := 65536 }
theorem wit_CoreEventsComplete_select : met (do
    let s := coreSt fun q => { q with channels := [(3, [msg1])], ctxs := [] }
    let i ← given (s.core 0).freeCtx
    let ch ← given ((s.core 0).selected s.time)
    let l ← given (s.launchOfCore 0)
    let n ← given l.node
    let (m, _) ← given ((s.core 0).takeHead 0 ch)
    need (i = 0 ∧ ch = 3 ∧ n.stopped = false ∧ m.chan ≠ 62 ∧ m.task = none)
    need ((agedSt.core 0).runnable 3 = true ∧ (Tab.get {} (agedSt.core 0).handlers 3).age + 65536 ≤ agedSt.time ∧
      (Tab.get {} (agedSt.core 0).handlers 3).epri ≠ 7)
    let s := coreSt fun q => { q with vn0 := [{ msg1 with refused := true }] }
    let i ← given ((s.core 0).vn0.findIdx? (·.refused))
    need (i = 0 ∧ (s.core 0).retries = [])) = true := by decide
/-- A row operation of 16 words on a row at PHA 0x20000 of home 1. -/
def rowJob (isOp : Bool) : RowJob :=
  { isOp := isOp, place := .hbm (2 ^ 30 + 0x20000), rowb := 64, tet := ElemType.code .fp32, set := ElemType.code .fp32, payload := List.replicate 64 0 }
theorem wit_CoreEventsComplete_rows (isOp : Bool) : met (do
    let s := coreSt fun q => { q with rowQ := [rowJob isOp] }
    let j ← given (s.core 0).rowQ[s.arg.b]?
    need (s.arg.yes = false ∧ j.isOp = isOp ∧ s.absent 0 = false ∧ ((s.core 0).rowQ.take 0).any (·.meets j) = false)
    need (s.busyFrame (2 ^ 30 + 0x20000) j.rowb = none)
    let s : State := { coreSt fun q => { q with rowOut := [rowJob isOp] } with arg := { u := .ctx 0 0, yes := true } }
    let src ← given s.arg.u.coord
    let j ← given (s.core src).rowOut[s.arg.b]?
    let h ← given j.home
    need (h = 1 ∧ ((s.core src).rowOut.take 0).any (fun e => (e.refused && e.home == some h) || (e.isOp && isOp && e.meets j)) = false)
    need (s.niHolds (.ni src) h j.id = false ∧ s.homeFull h = false)) = true := by cases isOp <;> decide +kernel
def landSt : State := coreSt fun q => { q with
  landings := [{ job := rowJob false, bytes := List.replicate 64 0 }], ucQ := [(0, 5)]
  puts := [{ msg1 with put := some { parts := [(.tile 0 64, 32)] } }] }
theorem wit_CoreEventsComplete_put : landSt.putWaits { msg1 with put := some { parts := [(.tile 0 64, 32)] } } { parts := [(.tile 0 64, 32)] } = false := by
  unfold State.putWaits
  rw [Bool.and_eq_false_iff]
  exact .inr (by decide +kernel)
theorem wit_CoreEventsComplete_lands : met (do
    let s := landSt
    let _ ← given (s.core 0).landings[s.arg.b]?
    let m ← given (s.core 0).puts[s.arg.b]?
    let q ← given m.put
    need (q.done = 0 ∧ m.poisoned = false ∧ s.arg.yes = false ∧ q = { parts := [(.tile 0 64, 32)] })
    need ((((m.putSteps 0 q).foldl (fun t f => f t) s).storesOut.any fun f => f.who == .ni 0 && f.elem == m.id) = false)
    need ((s.core 0).ucQ = [(0, 5)] ∧ Tab.get 0 (s.core 0).useCtr 5 ≠ BitVec.allOnes 48)
    let s := s.onCore 0 fun q => { q with useCtr := [(5, BitVec.allOnes 48)] }
    need (Tab.get 0 (s.core 0).useCtr 5 = BitVec.allOnes 48)
    let fl (p : Place) : Flight := { who := .ctx 0 0, name := 0, place := p, bytes := [1] }
    let s := { s with flights := [fl (.tile 0 64), fl (.scratch 0 512)] }
    let f ← given s.flights[0]?
    let g ← given s.flights[1]?
    let _ ← given ((s.viewFor f.who).key f.place)
    let _ ← given ((s.viewFor g.who).key g.place)
    need (f.place = .tile 0 64 ∧ g.place = .scratch 0 512 ∧ f.bad = [] ∧ f.whole = none)
    -- two stores of one unit to a write-combining page that merge
    let f : Flight := { who := .ctx 0 0, name := 64, place := .hbm 64, bytes := [1], mtype := 1 }
    let g : Flight := { f with name := 65, place := .hbm 65, bytes := [2] }
    let s := { s with flights := [f, g] }
    need (f.merges g = true ∧ ((s.flights.take 1).drop 1).any f.overlaps = false)) = true := by decide +kernel

theorem wit_MemoryEventsComplete_frames : met (do
    let w (n : Nat) : State := { c0 with arg := { v := BitVec.ofNat 64 (n * 2 ^ 16 + 5) } }
    let st (n : Nat) : Nat := bits (w n).arg.v.toNat 17 16
    let full := (w 1).onCore 0 fun q => { q with rowQ := List.replicate 64 (rowJob true) }
    need (full.homeFull 0 = true ∧ (w 1).homeFull 0 = false ∧ ((w 1).homeArrival (5 * 65536) 65536).1.frameState 0 5 = 0)
    need (st 3 = 3 ∧ st 1 = 1 ∧ st 2 = 2 ∧ (w 1).frameState 0 5 ≠ 1 ∧ (w 2).frameState 0 5 ≠ 2)
    need (st 0 = 0 ∧ ((w 0).onCore 0 fun q => { q with frames := [(5, 1)] }).frameState 0 5 ≠ 0)) = true := by decide
theorem wit_MemoryEventsComplete_walk : (match (at' (.ctx 0 0)).walk 0 with | .leaf 30 _ => true | _ => false) = true := by decide
theorem wit_MemoryEventsComplete_cmem : met (do
    let s := { c0 with arg := { a := 0, b := 512, yes := true, bs := [1, 2, 3, 4] } }
    need ((s.lanternRange 0 s.arg.b s.arg.bs.length true).2 = none)
    let r := s.onCluster 0 fun c => { c with cm := { c.cm with lantern := [(2, false)] } }
    let _ ← given ((r.cluster 0).cm.lantern.find? fun e => e.1 == r.arg.b / 256)
    need ((r.cluster 0).cm.blocked = false ∧ r.niHolds r.arg.u 1024 r.nextId = false ∧ r.arg.b % 32 + r.arg.bs.length ≤ 32)
    let s := c0.onCluster 0 fun c => { c with cm := { c.cm with evicting := some 4 } }
    let _ ← given ((s.cluster 0).cm.recompress 4 (s.blockForm 0 4))
    need ((s.cluster 0).cm.evicting = some 4 ∧ (s.cluster 0).cm.parked = [] ∧ (s.cluster 0).cm.waiting = [])
    let s : State := { c0 with arg := { u := .sup 0, v := 7, addr := absAddr 4 (cornerCore 0) 0x8800 } }
    need (s.arg.u = .sup 0 ∧ (s.cluster 0).cm.blocked = false ∧ addrSpace s.arg.addr = 4 ∧ UnitId.ctx 0 0 ≠ .sup 0)
    s.store s.arg.u s.arg.addr (leBytes 8 s.arg.v.toNat)) = true := by decide
theorem wit_MemoryEventsComplete_errors : met (do
    let s (on : Bool) : State :=
      { c0 with scrubHbm := if on then 24 else 0, soft := [hbmBase / 32], arg := { a := hbmBase / 32, soft := .granule 9 true } }
    need (hbmBase ≤ 32 * (s true).arg.a ∧ (s true).scrubHbm ≠ 0 ∧ (s true).soft.elem (s true).arg.a = true ∧ (s true).hard = [] ∧ (s false).scrubHbm = 0)
    let h : State := { s true with soft := [], hard := [hbmBase / 32] }
    need (h.soft.elem h.arg.a = false ∧ h.hard.elem h.arg.a = true)
    let m : State := { s true with scrubSram := 1, arg := { b := 7, yes := true, v := 2 } }
    let k : State := m.onCluster 0 fun c => { c with cm := { c.cm with soft := [(7, 2)] } }
    need ((k.cluster 0).cm.soft.elem (7, 2) = true ∧ (m.cluster 0).cm.soft.elem (7, 2) = false ∧ (m.cluster 0).cm.bad.elem (7, 2, false) = false)
    need ((s true).arg.soft = .granule 9 true ∧ (s true).poison.elem 9 = false)
    let t : State := { s true with arg := { a := 9, soft := .vreg 0 3 true } }
    need (32 * t.arg.a < hbmBase ∧ t.scrubSram ≠ 0 ∧ t.soft.elem t.arg.a = false)) = true := by decide

/-- A barrier of cores 0 and 1, one arrival each. -/
def barTwo (b0 b1 : BarSlot) : State :=
  let f (b : BarSlot) : BarSlot := { b with valid := true, cnt := 1, w := 2, h := 1 }
  eventAt ((c0.onCore 0 fun q => { q with bar := [(3, f b0)] }).onCore 1 fun q => { q with bar := [(3, f b1)] }) 0 3
def slotOf (s : State) (k : Nat) : BarSlot := Tab.get {} (s.core k).bar 3
theorem wit_SchedulingEventsComplete_belfry : met (do
    let full := barTwo { count := 1, rowIn := true } { count := 1 }
    need ((slotOf full 0).valid = true ∧ (slotOf full 0).next 0 = none ∧ (slotOf full 0).cnt ≤ (slotOf full 0).count ∧
      (slotOf full 0).rowIn = true ∧ coreY 0 + 1 = (slotOf full 0).y0 + (slotOf full 0).h ∧ (slotOf full 0).dense = false)
    need ((slotOf full 1).next 1 = some 0 ∧ (slotOf full 0).phase ≤ (slotOf full 1).phase ∧ (slotOf full 1).swept = false ∧
      coreX 1 + 1 = (slotOf full 1).x0 + (slotOf full 1).w)
    let out := barTwo { phase := 1 } { count := 1, swept := true }
    need ((slotOf out 1).phase < (slotOf out 0).phase)) = true := by decide
theorem wit_SchedulingEventsComplete_markers : met (do
    let s (w : Option UnitId) (id : Nat) : State := { c0 with markersOut := [{ who := w, queue := 0, cl := 0, id := id }] }
    let busy := (s none 5).onCe 0 fun e => { e with q := [(0, [{ id := 3, desc := [], q := 0, issuer := .load 0 }])] }
    let m ← given (s none 5).markersOut[0]?
    need ((s none 5).markerDone m = true ∧ busy.markerDone m = false)
    let m ← given (s (some (.ctx 0 0)) 5).markersOut[0]?
    need ((s none 5).markerDone m = true)
    let m ← given (s (some (.scalar 0)) 5).markersOut[0]?
    need ((s none 5).markerDone m = true)) = true := by decide
/-- Core 0 is idle in a node that steals in its cluster; core 1's only task has its control block, of zeros, at tile offset 256. -/
def stealSt : State :=
  let n := { node0 with w := 2, h := 1, desc := leBytes 8 0x100 ++ List.replicate 120 0 }
  let s : State := { c0 with launches := [{ launch0 with node := some n }], time := 10000 }
  (eventAt s 0 0).setCore 0 {} |>.onCore 1 fun q => { q with deque := [{ pc := 0, arg := 256, spawner := 1 }] }
theorem wit_SchedulingEventsComplete_steal : met (do
    let s := stealSt
    let l ← given (s.launchOfCore 0)
    let n ← given l.node
    need ((s.core 0).freeCtx ≠ none ∧ (s.core 0).stolen = [] ∧ (s.core 0).deque = [] ∧ (s.core 0).worklist = [] ∧
      (List.range 64).any (s.core 0).runnable = false ∧ (s.core 0).lastVictim = none)
    let v ← given ((n.domain 0).find? (fun v => (s.gives v).isSome))
    let _ ← given (s.gives v)
    need (v = 1)
    let t' := after .stealAttempt s
    let (v, t) ← given ((t'.core 0).stolen).head?
    let b ← given (t'.tcb v t)
    need (b.fwd = false)
    need ((s.core 0).levelSent < (s.time - n.levelBase) / n.levelInt)
    need (({ s with time := 8191 } : State).time / n.levelInt ≤ (s.core 0).levelSent)) = true := by decide +kernel

/-- A launch at a boundary whose graph is one node of the given kind, doublewords 0x50, 0x60 and 0x68. -/
def boundary (kind w50 w60 w68 : Nat) : State :=
  let s := poke nstartSt 0x8000 (leBytes 8 kind)
  let s := if kind = 0 then s else poke s 0x8008 (List.replicate 120 0)
  eventAt (poke s 0x8050 (leBytes 8 w50 ++ leBytes 8 0 ++ leBytes 8 w60 ++ leBytes 8 w68)) 2 0
def atNode (s : State) : Eff (Launch × Node) := do
  let l0 ← given (s.launch? s.arg.a)
  let l ← s.reach l0
  let n ← s.nodeDesc l
  need (l0.between = true ∧ l0 = l)
  .ok (l, n)
theorem wit_NodeEventsComplete_kernel : met (do
    let s := boundary 0 0 0 0
    let (l, n) ← atNode s
    let (x, y) ← given (s.origin n [])
    let r := rectOf (n.word 8)
    need (n.kind = 0 ∧ (x, y) = (0, 0))
    let _ ← s.startNode l n x y r.2.2.1 r.2.2.2
    let s1 ← s.supRelease l
    let (_, s2) ← (s1.applySpares false).loadImage l (n.word 0x18) x y r.2.2.1 r.2.2.2
    let _ ← s2.startValues l
    let s := poke s 0x8008 (leBytes 8 (64 * 2 ^ 10 + 16 * 2 ^ 17))
    let s := { s with launches := launch0 :: s.launches }
    let (_, n) ← atNode s
    need (n.kind = 0 ∧ s.origin n [] = none)) = true := by decide +kernel
theorem wit_NodeEventsComplete_branch : met (do
    let s := boundary 1 (5 * 16 + 7) 0 0
    let (l, n) ← atNode s
    let _ ← s.fillLaunch l (decide (4 ≤ bits (n.word 0x50) 2 0))
    need (n.kind = 1 ∧ (if 4 ≤ bits (n.word 0x50) 2 0 then l.absentHi else l.absentLo) = false)
    let (_, n) ← atNode (boundary 3 0 0 0)
    need (n.kind = 3)) = true := by decide +kernel
theorem wit_NodeEventsComplete_barrier : met (do
    let s := boundary 2 0 (2 ^ 63 + 0x9000) 1
    let (l, n) ← atNode s
    need (n.kind = 2 ∧ s.extReads.any (fun r => r.u == launchUnit l) = false)
    let (bs, p, _) ← s.loadRaw (launchWho l) (BitVec.ofNat 64 (n.word 0x60)) 8
    need (p = false ∧ leNat bs < n.word 0x68)
    let s := boundary 2 0 (2 ^ 63 + 0x9000) 0
    let (_, n) ← atNode s
    need (n.word 0x68 ≤ leNat bs)) = true := by decide +kernel
/-- The node of `node0` alone on the device, with nothing to do; a watchdog of 1 microsecond that has not and has run out. -/
def idleSt (wdog : Nat) (f : Node → Node) : State :=
  let s : State := { State.reset with launches := [{ launch0 with node := some (f { node0 with desc := List.replicate 48 0 ++ leBytes 8 (wdog * 2 ^ 32) }) }] }
  { eventAt s 1 0 with time := 2100 }
theorem wit_NodeEventsComplete_run : met (do
    let n (s : State) : Eff Node := do
      let l ← given (s.launch? s.arg.a)
      given l.node
    let a ← n (idleSt 1 id)
    need (a.stopped = false ∧ a.wdog ≠ 0 ∧ 2100 * a.wdog ≤ a.ran (idleSt 1 id).time)
    let b ← n (idleSt 2 id)
    need (b.ran (idleSt 2 id).time < 2100 * b.wdog)
    let c ← n (idleSt 0 fun n => { n with stopped := true })
    need (c.stopped = true ∧ a.ended = false ∧ (idleSt 1 id).nodeIdle a = true)
    let s := idleSt 0 fun n => { n with ended := true }
    let e ← n s
    need (e.ended = true ∧ e.stopped = false ∧ s.markersOut.any (fun m => m.who.isNone && m.launch == 1) = false ∧ s.writesDone e = true ∧ s.nodeIdle e = true)
    let l ← given (s.launch? s.arg.a)
    let c := (s.cluster (clusterOf e.corner)).carry
    let r : Launch :=
      { l with
        state := .boundary, index := l.index + 1, node := none, epochs := s.advanceEpochs e
        g := c.g, absentLo := c.absentLo, absentHi := c.absentHi, savePtr := c.savePtr }
    let freed := (s.onLaunch l.id fun _ => r).applySpares false
    need (freed.wouldChoose = none)
    let _ ← freed.preempt s r s.arg.addr
    let busy := s.setLive u0 true
    let e ← n busy
    need (busy.nodeIdle e = false ∧ busy.arg.yes = false ∧ busy.writesDone e = true ∧ e.ended = true)) =
      true := by decide +kernel
theorem wit_NodeEventsComplete_fill : met (do
    let s := { (at' v0).onCluster 0 (fun c => { c with carry := { absentHi := true, savePtr := 0x9000 } }) with arg := { yes := true } }
    let c := (s.cluster 0).carry
    need (c.absentHi = true ∧ c.absentLo = false)
    let s := s.setWait uc (.carry true)
    let l ← given (s.launches.find? fun l => match l.node with
      | some n => decide (clusterOf n.corner = 0) && s.waitsCarry n true
      | none => false)
    need (l.id = 1)
    let _ ← s.granuleValues launch0 c.savePtr true
    s.granuleValues launch0 c.savePtr false) = true := by decide +kernel

/-- R106's example block: 64 words that share the upper half 0x3F80 are five sectors, the first one holding 0x3F80. -/
def narrowBlock : List Byte := [0x00, 0x40, 0x80, 0x3F] ++ (List.replicate 63 ([0x00, 0x00, 0x80, 0x3F] : List Byte)).flatten
theorem test_narrow16_block : chooseForm narrowBlock false = .narrow16 ∧ (Form.stored narrowBlock .narrow16).length = 160 ∧
    (Form.stored narrowBlock .narrow16).take 2 = [0x80, 0x3F] ∧
    Form.expand (Form.stored narrowBlock .narrow16) .narrow16 = narrowBlock := by decide +kernel

/-! ## Host ports, fabric and Ordel: events -/

/-- A datagram of a type at host port 0 (R389). -/
def dgram (type aux addr : Nat) (payload : List Byte) (flags : Nat := 1) : Datagram :=
  { source := 9, port := 0, udp := 0x5F30
    bytes := leBytes 4 (2 ^ 24 + type * 2 ^ 16 + payload.length) ++ leBytes 4 1 ++ leBytes 8 addr ++ leBytes 4 aux ++ leBytes 4 flags ++ payload }
def hostSt (d : Datagram) : State := { c0 with arg := { d := d } }
/-- A packet of a type that has not been accepted before. -/
def arriving (s : State) (type : Nat) : Eff Packet := do
  need (s.powered = true ∧ s.arg.d.udp = s.hostUdp)
  let p ← given (Packet.ofDatagram s.arg.d)
  need (p.type = type ∧ s.accepted p = false)
  .ok p
theorem wit_HostEventsComplete_forms : met (do
    need (Packet.ofDatagram (dgram 9 0 0 []) = none)
    let s := { hostSt (dgram 8 0 0 (leBytes 8 0)) with sources := [{ who := 9, seqs := [1] }] }
    let p ← given (Packet.ofDatagram s.arg.d)
    need (p.type = 8 ∧ s.accepted p = true ∧ s.serving p.req = false)
    let s := { s with hostHeld := [{ src := p.req, dva := 0, op := .read 1 }] }
    need (s.accepted p = true ∧ s.serving p.req = true)) = true := by decide +kernel
/-- A datagram to another port; an ACK with a payload. -/
theorem wit_HostEventsComplete_refused : met (do
    need ((hostSt { dgram 1 0 0 [] with udp := 1 }).arg.d.udp ≠ (hostSt (dgram 1 0 0 [])).hostUdp)
    let p ← arriving (hostSt (dgram 2 1 0x9000 [1])) 2
    need (p.aux ≠ 0)
    let p ← arriving (hostSt (dgram 5 1 0 [7])) 5
    need (p.bare = false)
    let p ← arriving (hostSt (dgram 6 1 0 [7])) 6
    need (p.bare = false ∧ (hostSt (dgram 1 0 0 [])).ready = false)) = true := by decide +kernel
theorem wit_HostEventsComplete_launch : met (do
    let s := { hostSt (dgram 1 63 0 (List.replicate 128 0)) with ready := true }
    let p ← arriving s 1
    need (s.ready = true ∧ p.payload.length = 128 ∧ p.aux ≤ 63 ∧ p.addr = 0)
    need ((s.launches.filter fun l => l.state == .waiting && l.queue == p.aux).length < 256)) = true := by decide +kernel
theorem wit_HostEventsComplete_memory : met (do
    let go (s : State) (p : Packet) (op : PortOp) : Bool := match s.portTurn p.req p.addr op with | .go _ => true | _ => false
    let refuses (s : State) (p : Packet) (op : PortOp) : Bool := match s.portTurn p.req p.addr op with | .nack _ => true | _ => false
    let s := hostSt (dgram 2 0 0x9000 [1, 2])
    let p ← arriving s 2
    need (p.aux = 0 ∧ s.mustHold p.req = false ∧ go s p (.write p.payload) = true)
    let s := hostSt (dgram 2 0 (2 ^ 47) [1, 2])
    let p ← arriving s 2
    need (s.mustHold p.req = false ∧ refuses s p (.write p.payload) = true)
    let s := hostSt (dgram 3 4096 0x9000 [])
    let p ← arriving s 3
    need (1 ≤ p.aux ∧ p.aux ≤ 4096 ∧ p.payload = [] ∧ s.mustHold p.req = false ∧ go s p (.read p.aux) = true)
    let s := hostSt (dgram 3 1 (2 ^ 47) [])
    let p ← arriving s 3
    need (1 ≤ p.aux ∧ s.mustHold p.req = false ∧ refuses s p (.read p.aux) = true)) = true := by decide +kernel
/-- A state in which source 9 has a write parked behind the frame FILLING of home 0. -/
def hostParked (d : Datagram) : State :=
  (hostSt d).onCore 0 fun c => { c with
    frames := [(0, 1)], fq := [.port 0 { dev := none, port := 0, seq := 0, who := 9 } 0x9000 (.write [5])] }
theorem wit_HostEventsComplete_held : met (do
    let s := hostParked (dgram 2 0 0x9000 [6] 3)
    let p ← arriving s 2
    need (s.mustHold p.req = true)
    let s := { hostParked (dgram 3 8 0x9000 []) with hostHeld := [{ src := { dev := none, port := 0, seq := 0, who := 9 }, dva := 0, op := .read 1 }] }
    let p ← arriving s 3
    need (1 ≤ p.aux ∧ p.aux ≤ 4096 ∧ p.payload = [] ∧ s.mustHold p.req = true)) = true := by decide +kernel
/-- R391: a release waits behind its source's parked write; nothing is acknowledged yet. -/
theorem test_host_release : (match exec .memwr (hostParked (dgram 2 0 0x9000 [6] 3)) with
    | .next t => t.hostHeld.length == 1 && t.hostOut.isEmpty
    | _ => false) = true := by decide +kernel
/-- R60, R391: when its frame is NORMAL both are performed and acknowledged, in order. -/
theorem test_host_release_goes : (match exec .memwr (hostParked (dgram 2 0 0x9000 [6] 3)) with
    | .next t => (t.setFrame 0 0 0).hostOut.map (·.aux) == [1, 0] && (t.setFrame 0 0 0).hostHeld.isEmpty
    | _ => false) = true := by decide +kernel
theorem wit_HostEventsComplete_answers : met (do
    let r : ExtRead := { id := 0, u := .ctx 0 0, addr := 0, len := 8, seq := 5, place := .host 0x100 }
    let s := { hostSt (dgram 4 5 0x100 (List.replicate 8 1)) with extReads := [r] }
    let p ← arriving s 4
    let r ← given (s.hostRead? p.aux)
    need (p.payload.length = r.len ∧ r.place = .host p.addr)
    let p ← arriving (hostSt (dgram 5 1 0 [])) 5
    need (p.bare = true)
    let s := { hostSt (dgram 6 (5 * 256 + 3) 0 []) with extReads := [r] }
    let p ← arriving s 6
    need (p.bare = true)
    let _ ← given (s.extReads.find? (fun e => e.seq % 2 ^ 24 == p.aux / 256 && match e.place with | .host _ => true | _ => false))
    let _ ← given (reasonCause (p.aux % 256))
    let s := hostSt (dgram 8 0x77 0x10000 (leBytes 8 0x2000))
    let p ← arriving s 8
    let len := Machine.field p.payload 0 8
    need (p.payload.length = 8 ∧ len % 4096 = 0 ∧ p.addr % 4096 = 0 ∧ bits p.aux 31 9 = 0 ∧ bits p.aux 7 7 = 0)) = true := by decide +kernel
theorem wit_HostEventsComplete_rest : met (do
    let q : HostPkt := { type := 3, seq := 0, addr := 0, aux := 8, payload := [] }
    let s : State := { hostSt (dgram 5 1 0 []) with unacked := [q], arg := { v := 5 } }
    let _ ← given (s.unacked.find? (fun q => q.seq == s.arg.a))
    need (s.ptpLocked = false ∧ s.ready = false ∧ s.powered = true)
    let t : State := { s with ptpLocked := true, ready := true }
    need (t.ptpLocked = true ∧ t.ready = true ∧ t.devns.toNat < t.arg.v.toNat)) = true := by decide +kernel

def fabSt (f : FabIn) (yes : Bool) : State := { c0 with arg := { a := 0, yes := yes, f := f } }
/-- A packet's device and number, with the state after its hop acknowledgement. -/
def hop (f : FabIn) (yes : Bool) : Eff (State × PortReq) := do
  let s := fabSt f yes
  need ((Tab.get ({} : Port) s.ports s.arg.a).seen.elem (FabIn.key s.arg.f) = false)
  .ok (fabricIn s, { dev := some f.dev, port := 0, seq := f.seq })
def goes (t : PortTurn) : Eff Unit := match t with
  | .go _ => .ok ()
  | _ => .error (.wait .none)
theorem wit_FabricPacketsComplete_again : ¬ fabricNew ((fabSt { dev := 7, seq := 3 } false).onPort 0 fun q => { q with seen := [3 * 65536 + 7] }) := by
  unfold fabricNew
  decide +kernel
theorem wit_FabricPacketsComplete_rows : met (do
    let f : FabIn := { dev := 7, seq := 3, dva := 0x9000, rowb := 64, tet := ElemType.code .fp32, payload := List.replicate 64 0 }
    need (0 < (FabIn.job f 0).rowb ∧ (fabSt f false).soft = [] ∧ (fabSt f false).hard = [] ∧ ((fabSt f false).cores.all fun e => e.2.rowQ.isEmpty) = true)
    let (t, _) ← hop f false
    let _ ← given (t.takeRow (FabIn.job f 0) .r).toOption
    given (t.takeRow { FabIn.job f 0 with isOp := true, payload := f.payload } .rw).toOption) = true := by decide +kernel
theorem wit_FabricPacketsComplete_memory : met (do
    let f : FabIn := { dev := 7, seq := 3, addr := 0x9000, len := 8, aop := Aop.code .add, payload := [1, 2] }
    let (t, r) ← hop f false
    let op ← given (Aop.ofCode f.aop)
    need (f.len ≠ 0 ∧ f.payload ≠ [] ∧ f.addr % (if f.wide then 8 else 4) = 0)
    goes (t.portTurn r f.addr (.read f.len))
    goes (t.portTurn r f.addr (.write f.payload (FabIn.bad f)))
    goes (t.portTurn r f.addr (.amo op f.wide f.v f.c))
    let e : ExtRead := { id := 0, u := .ctx 0 0, addr := 0, len := 8, seq := 5, place := .peer 7 0x100 }
    given (({ fabSt { f with of := 5 } true with extReads := [e] }).peerRead? 0 5)) = true := by decide +kernel
/-- A MSG to core 0, whose channel 3 has a handler; the same with the request store full. -/
theorem wit_FabricPacketsComplete_msg : met (do
    let f : FabIn := { dev := 7, seq := 3, chan := 3, payload := List.replicate 32 1 }
    let (t, _) ← hop f false
    need (f.dst < 1024 ∧ t.absent f.dst = false)
    let t := t.onCore 0 fun q => { q with handlers := [(3, { valid := true })] }
    let m : Message := { id := t.nextId, chan := f.chan, srcDev := f.dev, payload := f.payload }
    let _ ← given (t.stamp.receive m)
    need (((t.onCore 0 fun q => { q with reqStore := 32 }).stamp.receive m).isNone = true)) = true := by decide +kernel
theorem wit_FabricPacketsComplete_sent : met (do
    let f : FabIn := { dev := 7, seq := 3, of := 5, reason := 3 }
    let pk : FabPkt := { seq := 5, dev := 7, body := .memRd 0 8 .system (.ctx 0 0), tries := 7 }
    let s := ((fabSt f true).onPort 0 fun q => { q with queue := [pk] }).onCore 0 fun q => { q with rowOps := [{ rowJob true with port := some 0, seq := 5 }] }
    let _ ← given (s.cores.findSome? (fun (_, c) => c.rowOps.find? fun j => j.sentAs 0 5))
    let _ ← given ((Tab.get ({} : Port) s.ports 0).sent f.of)
    let k ← given ((Tab.get ({} : Port) s.ports 0).queue[s.arg.b]?)
    let _ ← given (reasonCause f.reason)
    let d := (fabSt f true).onPort 0 fun q => { q with queue := [pk], down := true }
    need ((Tab.get ({} : Port) d.ports 0).down = true ∧ (({ d with ports := (List.range 16).map fun i => (i, { queue := [pk], down := true }) } : State).routePort 7 0) = none)
    need (k.tries < 8 ∧ reasonCause 0 = none ∧ (fabSt f false).arg.yes = false)) = true := by decide +kernel

theorem wit_OrdelEventsComplete_log : met (do
    let s (n : Nat) : State := { c0 with ordel := { log := List.replicate n { devns := 0, source := 0, cause := 0, detail := 0 } } }
    need ((s 8191).ordel.log.length < 8192 ∧ (s 8192).ordel.log.length = 8192)
    let d (port udp : Nat) : State := { c0 with arg := { d := { source := 0, port := port, udp := udp, bytes := [] } } }
    need ((d ordelPort 0).arg.d.port = ordelPort ∧ (d 0 0x5F31).arg.d.udp = (d 0 0x5F31).ordel.udp.toNat)
    need ((d 0 0x5F30).arg.d.port ≠ ordelPort ∧ (d 0 0x5F30).arg.d.udp ≠ (d 0 0x5F30).ordel.udp.toNat)) = true := by decide +kernel
/-- A die temperature that the device reports, on one side or the other of each limit, and a supervisor core that has stopped. -/
theorem wit_OrdelEventsComplete (n : Nat) :
    (Config.dieTemp n ≤ 105 ∨ 105 < Config.dieTemp n) ∧ (Config.dieTemp n ≤ 115 ∨ 115 < Config.dieTemp n) ∧
    ((su0.onSup 0 fun x => { x with live := false }).sup 0).live = false ∧ (su0.sup 0).live = true ∧
    ({ c0 with arg := { bs := List.replicate 32 0 } } : State).arg.bs.length = 32 ∧ ({ minVersion := 2 } : Ordel).accepts [] [] 1 = false := by
  refine ⟨by omega, by omega, by decide, by decide, by decide, by simp [Ordel.accepts]⟩

/-! ## The whole machine -/

/-- An image that installs where both signatures verify over it and its version is the least permitted. -/
theorem wit_OrdelEventsComplete_installs (o : Ordel) (image sigs : List Byte) (h : Config.verifyEd25519 image (sigs.take 64) = true)
    (h' : Config.verifyMlDsa image (sigs.drop 64) = true) : o.accepts image sigs o.minVersion = true := by simp [Ordel.accepts, h, h']

/-- WAITT p3 at PC 0 of the context's stream, with p3 naming the time given; the context awake, or asleep until then. -/
def timedSt (t : Nat) (q : Wait) : State :=
  { poke (ctxAt { x0 with p := [(3, { addr := BitVec.ofNat 64 t })], wait := q }) 0x1000 (leBytes 4 0x72000003) with
    time := 500, arg := { u := .ctx 0 0 } }
theorem wit_WaittSleepsUntilTime : met (do
    let s := timedSt 500 .none
    need (s.cur = .ctx 0 0 ∧ promiseReached s.time (((s.ctx 0 0).ptr 3).addr.toNat % 2 ^ 56) = true)
    let s := timedSt 501 .none
    need (promiseReached s.time (((s.ctx 0 0).ptr 3).addr.toNat % 2 ^ 56) = false)
    let s := timedSt 501 (.untilTime 501)
    need (s.canIssue s.arg.u = true ∧ s.wait s.arg.u = .untilTime 501 ∧ streamOf s.arg.u = .lookup)
    let (w, _) ← s.fetch s.arg.u
    need (w = 0x72000000 + (3 : BitVec 3).toNat)) = true := by decide +kernel
/-- A reserved bit of WAITT's word, at either end of the field (R191). -/
theorem test_waitt_reserved : ((decodeWord .lookup (0x72000000 + 8)).toOption, (decodeWord .lookup (0x72000000 + 8 * (2 ^ 17 - 1) + 7)).toOption) =
    (none, none) := by decide
/-- A sleeping WAITT at its time retires; before it, it stays (R191). -/
theorem test_waitt_expiry : (match exec .waittExpiry (timedSt 500 (.untilTime 500)), exec .waittExpiry (timedSt 501 (.untilTime 501)) with
    | .next t, .next q => ((t.ctx 0 0).pc, (t.ctx 0 0).wait, (q.ctx 0 0).pc, (q.ctx 0 0).wait)
    | _, _ => (1, .none, 1, .none)) = (4, .none, 0, .untilTime 501) := by decide +kernel

/-- A stepped pointer operand, and the payload consumed by its unit of 32 bytes; no row job anywhere. -/
theorem wit_OperandReadsLeaveState : met (do
    let (xs, t) ← c0.operand 0 0 .fp32 32 (.memInc 1)
    need (xs.length = 8 ∧ ((t.ctx 0 0).ptr 1).addr = 0x44 ∧ c0.cores.all fun e => e.2.rowQ.isEmpty)
    c0.operand 0 0 .fp32 32 .inPop) = true := by decide +kernel

/-- The first and last number of each range of registers, and numbers of none. -/
theorem wit_ControlRegisters :
    (rwBits (.scalar 0) 0x07F).isSome = true ∧ rwBits (.ctx 0 0) 0x021 = some 0xFF ∧ rwBits (.compute 0) 0x04E = some (BitVec.allOnes 64) ∧
    rwBits (.compute 0) 0x031 = some 3 ∧ readOnly (.ctx 0 0) 0x025 = true ∧ readOnly (.scalar 0) 0x0CE = true ∧ readOnly (.compute 0) 0x0E7 = true ∧
    hasRegisters (.scalar 0) = true ∧ (c0.num (.ctx 0 0)).raised.time ≠ ({ c0 with time := 1 } : State).time ∧
    supNumber 0x113 = true ∧ (UnitId.compute 0).isSup = false ∧
    rwBits (.scalar 0) 0x031 = none ∧ readOnly (.scalar 0) 0x031 = false ∧ supNumber 0x031 = false := by decide
/-- TnATTR keeps LAYOUT, STEP and RSTRIDE; SIGTH six bits; 0 in SRSTATE is 1 (R127, R137, R210). -/
def crAfter (u : UnitId) (n v : Nat) (s : State) : Nat := match s.writeCr u n v with
  | .ok t => (t.readCr u n).toOption.getD 0
  | _ => 0
theorem test_control_registers :
    (crAfter u0 0x061 (2 ^ 64 - 1) sc0, crAfter u0 0x011 0xFFFF sc0, crAfter (.ctx 0 0) 0x013 0 c0) = (0xC0FFFFFF00FFFFFF, 0x3F, 1) := by decide +kernel

/-- Two bytes over a listed one, at key 0 and at the last byte of a tile memory. -/
theorem wit_MemoryWritesReadBack : Memory.wf (memWrite [] 5 [1]) = true ∧ CanonicalMemory c0 ∧
    c0.key (.tile 0 (2 ^ 21 - 1)) = some (2 ^ 21 - 1) ∧ c0.key (.tile 0 0) = some 0 := by
  refine ⟨by decide, ?_, by decide, by decide⟩
  unfold CanonicalMemory
  decide +kernel
/-- Writing what an unlisted byte reads removes the entry. -/
theorem test_write_zero_unlists : memWrite (memWrite [] 5 [1, 2]) 5 [0] = [(6, 2)] := by decide

/-- A cluster with as many tokens as R86 lets, a full matrix queue and format queue, and one RAW block. -/
def fullCluster : Cluster :=
  { dense := { q := [(2, 254)], qres := [(2, 1)], sc := { wait := .sending 2 1 }, mq := List.replicate 8 { word := .nop }, fq := List.replicate 16 0 }
    cm := { forms := [(7, .raw)], free := 6029304 } }
theorem wit_StepKeepsInvariants : bounded { c0 with clusters := [(0, fullCluster)] } ∧
    CanonicalMemory { c0 with clusters := [(0, fullCluster)] } := by
  refine ⟨⟨fun e he => ?_, by decide⟩, by unfold CanonicalMemory; decide +kernel⟩
  obtain rfl : e = (0, fullCluster) := by simpa using he
  refine ⟨fun q => ?_, by decide, by decide, by simp [fullCluster], by decide⟩
  by_cases h : q = 2
  · subst h; decide
  · have : ∀ n : Nat, Tab.get 0 [(2, n)] q = 0 := fun n => by simp [Tab.get, Ne.symm h]
    simp [fullCluster, this, Ne.symm h]

/-- IMMA.SET at PC 0, at its unit's turn; then a word of all ones. -/
def turnSt (w : Nat) : State := { poke c0 0x1000 (leBytes 4 w) with agenda := [{ dt := 3, act := .issue (.ctx 0 0) }] }
/-- The state in which the unit of the turn may issue. -/
def issuing (s : State) : State :=
  let u : UnitId := .ctx 0 0
  let s0 := ({ s with agenda := [], lateStores := false, quota := none, got := [], further := 0, disturb := .none, arg := {} } : State).viewFor u
  { (s0.passTime (s0.turnDelay u 3)).landDue with cur := u }
theorem wit_StepRunsDecoded : met (do
    let u : UnitId := .ctx 0 0
    let s1 := issuing (turnSt 0x1E0E003F)
    need (s1.pick u = u ∧ s1.canIssue u = true ∧ (s1.lateDue u).isNone)
    let s := s1.countGroup u
    need ((s.pc u).toNat < s.streamLen u ∧ (s.pc u).toNat % 4 = 0)
    let (w, s3) ← (s.takeSeq u).fetch u
    let i ← given (decodeWord .lookup w).toOption
    need ((s3.badContext u i).2 = false ∧ i = .immaSet false .int32 0x3F)
    let (w, _) ← (((issuing (turnSt 0xFFFFFFFF)).countGroup u).takeSeq u).fetch u
    need ((decodeWord .lookup w).toOption = none)) = true := by decide +kernel
theorem wit_StepRunsDecoded_event : ∃ s : State, s.agenda = { dt := 1, act := .event .epriAging { a := 5 } } :: [] ∧
    ({ s with agenda := [] } : State).agenda = [] := ⟨{ c0 with agenda := [{ dt := 1, act := .event .epriAging { a := 5 } }] }, rfl, rfl⟩
/-- The step retires the word: 63 in each lane of acc, PC 4, and 3 clk gone (R17, R165). -/
theorem test_step_imma : (match step (turnSt 0x1E0E003F) with
    | .next t => ((t.ctx 0 0).pc, (t.ctx 0 0).acc.toNat % 2 ^ 64, t.time)
    | _ => (0, 0, 0)) = (4, 63 * 2 ^ 32 + 63, 3) := by decide +kernel
/-- R406: with a duty of 2 sixteenths the word of TIME 3 issues at TIME 16. -/
theorem test_step_gated : (match step ((turnSt 0x1E0E003F).onOrdel fun o => { o with duty := 2 }) with
    | .next t => ((t.ctx 0 0).pc, t.time)
    | _ => (0, 0)) = (4, 16) := by decide +kernel
/-- A word of all ones is ILLEGAL, which is not recoverable: the node stops, and the report names it (R14, R357, R366). -/
theorem test_step_all_ones : (match step (turnSt 0xFFFFFFFF) with
    | .next t => ((t.cluster 0).report.cause.toNat, (t.nodeOf (.ctx 0 0)).map (·.stopped))
    | _ => (0, none)) = (1, some true) := by decide +kernel
/-- The host's probe places a word where the first step from reset runs it. -/
theorem test_withFetchWord : (match step (State.reset.withFetchWord 32 0x1E0E003F) with
    | .next t => (t.ctx 0 0).acc.toNat % 2 ^ 32
    | _ => 0) = 63 := by decide +kernel

/-- One instruction of each stream with a field at its last value. -/
theorem wit_DecodeEncodeRoundTrip :
    ([.immaSet true .int32 0x7F, .add true 7 31 31 31, .cTwait 7 255, .vadd true 7 31 31 31 7 .rne] : List Instr).all
      (fun i => i.wellFormed && i.stream.isSome && (encode i).isSome) = true := by decide

/-! ## Words that complete with nothing under way -/

/-- Core 0 and cluster 0 hold the translation of the page at DVA 0: 1 GiB of home 1, readable, writable and executable. -/
def leaf0 : TlbEntry := { page := 0, size := 30, leaf := 2 + 0x70 + 1 * 2 ^ 16 }
def mapped (s : State) : State := (s.onCore 0 fun x => { x with tlb := [leaf0] }).onCluster 0 fun x => { x with tlb := [leaf0] }
/-- Context 0 of core 0 as given, with no activation. -/
def alone (x : LCtx) : State := mapped (ctxAt { x with act := none })
def uq : UnitId := .ctx 0 0

theorem wit_quiet_pointers : met (do
    let s := alone x0
    need (s.quiet uq = true)
    let nd ← given (s.nodeOf uq)
    need ((3 : Nat) < nd.ctCount ∧ nd.ctBase % 8 = 0 ∧ nd.ctBase + 24 = 0x2018)
    let a := ((s.ctx 0 0).ptr 1).addr
    need (a.toNat % 8 = 0 ∧ a.toNat + 8 ≤ 2 ^ 21)) = true := by decide
theorem ready_0x2018 (s : State) (hn : s.held uq 1 = false) (ha : s.absent 1 = false) (hq : (s.core 1).rowQ = [])
    (hb : s.busyFrame (2 ^ 30 + 0x2018) 8 = none) (ht : (s.core 0).tlb = [leaf0]) : hbmReady s uq 0x2018 8 .r (2 ^ 30 + 0x2018) :=
  ⟨by decide, hn, ha, hq, hb, leaf0, by simp only [uq, ht]; rfl, rfl, rfl, rfl, by decide, by decide, rfl, by decide⟩
theorem wit_quiet_pointers_constant : hbmReady (alone x0) uq 0x2018 8 .r (2 ^ 30 + 0x2018) :=
  ready_0x2018 _ (by decide) (by decide) (by decide) (by decide) rfl

/-- Identifiers 0 and 0 at 0 to 7, of table 0; rows of 32 bytes from 256. -/
def rowQuiet (ps : List Nat) : State := mapped (rowSt ps)
theorem wit_quiet_lists : ∃ tb, listReady (rowQuiet [0, 8, 256]) 0 0 0 tb .rw 0 8 2 ∧ listReady (rowQuiet [0, 8, 256]) 0 0 0 tb .r 0 8 2 ∧
    tb.et = .fp32 ∧ scatTypes tb.et .fp32 = true ∧ 256 + 2 * (tb.len * ElemType.size tb.et) ≤ 2 ^ 21 ∧ (0 : BitVec 3) ≠ 2 ∧
    ((rowQuiet [0, 8, 256]).core 0).rowReqs.length + 2 ≤ 256 := by
  have h : ∀ i < 2, leNat ((rowQuiet [0, 8, 256]).ownBytes 0 (0 + BitVec.ofNat 64 (4 * i)) 4) = 0 := by decide
  refine ⟨_, ⟨by decide, rfl, rfl, rfl, by decide, by decide, fun i hi => ?_⟩, ⟨by decide, rfl, rfl, rfl, by decide, by decide, fun i hi => ?_⟩,
    rfl, by decide, by decide, by decide, by decide⟩ <;>
    (rw [h i hi]; exact ⟨by decide, leaf0, rfl, rfl, by decide, by decide, by decide⟩)
theorem wit_quiet_rows : met (do
    let s := rowQuiet [0, 32, 256]
    let tb ← s.table 0 0
    let pa := ((s.ctx 0 0).ptr 0).addr
    let pb := ((s.ctx 0 0).ptr 1).addr
    let pc := ((s.ctx 0 0).ptr 2).addr
    need (s.quiet uq = true ∧ tb.len * 4 = 32 ∧ tb.rowb = 32 ∧ pb.toNat = pa.toNat + 1 * 32 ∧ pb.toNat ≤ 2 ^ 21 ∧ pa.toNat % 4 = 0 ∧ pc.toNat % 4 = 0)
    need (pc.toNat + 32 ≤ 2 ^ 21 ∧ spansMeet pc.toNat 32 pa.toNat 32 = false ∧ spansMeet pc.toNat 4 pa.toNat 32 = false)
    need (∀ l ∈ [((0 : Nat), (24 : Tag))], s.sigLow uq l.2.toNat = false)
    let s := rowQuiet [0, 8, 256]
    need (s.quiet uq = true ∧ sext 32 ((s.ctx 0 0).acc.toNat % 2 ^ 32) = (2 : Nat) ∧ spansMeet 256 (4 * (2 + 2 + 1)) 0 8 = false)) = true := by decide

def mq : State := alone msgCtx
/-- The last payload that lies in tile memory: 1,024 bytes to its end. -/
def mqTop : State := alone { msgCtx with p := [(0, { addr := BitVec.ofNat 64 (2 ^ 60 + 2 ^ 53 + 64 + 5) }), (1, { addr := 2 ^ 21 - 1024 })] }
theorem wit_quiet_messages : met (do
    need (mqTop.quiet uq = true ∧ ((mqTop.ctx 0 0).ptr 1).addr.toNat % 32 = 0 ∧ ((mqTop.ctx 0 0).ptr 1).addr.toNat + 1024 ≤ 2 ^ 21)
    let d ← mqTop.msgDest uq 0 ((mqTop.ctx 0 0).ptr 0).addr
    need (d.rq = true ∧ mqTop.claims 0 false < 16 ∧ (mqTop.core 0).resv < 32)
    let s := mapped (ctxAt { msgCtx with act := some { chan := 3, msg := { chan := 3, rq := true, reply := 55, srcCore := 1 }, committed := true } })
    let a ← given (s.ctx 0 0).act
    need (s.quiet uq = true ∧ a.msg.rq = true ∧ a.replied = false ∧ a.chan ≠ 61 ∧ s.claims 0 true < 16)
    let p ← given (mq.resolve (mq.who uq) ((mq.ctx 0 0).ptr 4).addr (xfBytes 7 32)).toOption
    need ((match p with | .inl q => q.onDevice | .inr _ => false) = true)
    let ad := ((mq.ctx 0 0).ptr 1).addr
    mq.worklistAt uq 0 ad
    need (mq.quiet uq = true ∧ ad.toNat + 16 ≤ 2 ^ 21)) = true := by decide
/-- A committed task whose join record counts w. -/
def joinQuiet (w : Nat) : State := (joinSt w).onCtx 0 0 fun x => { x with act := x.act.map fun a => { a with committed := true } }
theorem wit_quiet_tasks : met (do
    let tcb := ((mq.ctx 0 0).ptr 2).addr
    need (tcb.toNat % 64 = 0 ∧ tcb.toNat + 64 ≤ 2 ^ 21 ∧ (mq.core 0).deque.length < mq.dequeRoom 0)
    let _ ← mq.joinPlace uq (bytesW64 (mq.ownBytes 0 tcb 8) 0)
    let s := joinQuiet 1
    let a ← given (s.ctx 0 0).act
    let j ← given a.join
    let p ← s.joinPlace uq j
    need (s.quiet uq = true ∧ a.chan = 61 ∧ s.readPlace p 4 = 1)
    let s := joinQuiet (2 ^ 31 + 1)
    let p ← s.joinPlace uq j
    need (p = .tile 0 0 ∧ s.readPlace p 4 = 2 ^ 31 + 1 ∧ (s.core 0).deque.length < s.dequeRoom 0)
    let s := joinQuiet 0
    need (s.readPlace p 4 % 2 ^ 31 = 0 ∧ ((s.ctx 0 0).pc + 4 * (1023 : BitVec 22).signExtend 32).toNat < s.streamLen uq)) = true := by decide

theorem wit_quiet_atomics : met (do
    let s := alone x0
    let ad := ((s.ctx 0 0).ptr 1).addr
    need (s.quiet uq = true ∧ ad.toNat % 4 = 0 ∧ ad.toNat + 32 ≤ 2 ^ 21 ∧ (s.ctx 0 0).laneDone = 0 ∧ Scope.core ≠ .system)
    let _ ← given (barStep .arrive false 3 slot2 [])
    let tb ← (rowQuiet [0, 8, 256]).table 0 0
    need (Tab.get 0 ((rowQuiet [0, 8, 256]).core 0).acks ((tb.epoch - BitVec.ofNat 32 tb.k).toNat % 4) = 0)
    s.writeCr uq 0x011 24) = true := by decide

/-- The scalar sequencer with translations held; TAGBASE names the tag bytes of the scratchpad from 0x4000 on. -/
def sq (f : Dense → Dense) : State := mapped (scSt fun d => f { d with sc := { d.sc with num := { d.sc.num with tagbase := 0x4000 } } })
/-- An address of a scratchpad word: where it lies. -/
theorem scalar_at {s : State} {a : W64} {n o : Nat} (h : s.resolve (s.who u0) a n = .ok (.inl (.scratch 0 o))) :
    sramAt s u0 a n (.scratch 0 o) (s.scratchKey 0 o) := ⟨h, .inr ⟨_, _, rfl, rfl⟩⟩
theorem wit_quiet_scalar : (sq id).quiet u0 = true ∧ (sq id).interlock u0 [2] (some (6, true)) = .ok () ∧ (sq id).interlock u0 [2, 3] none = .ok () ∧
    (∃ g, tagAddr ((sq id).num u0).tagbase 0x40 = some g ∧ ∃ o, sramAt (sq id) u0 g 1 (.scratch 0 o) ((sq id).scratchKey 0 o)) ∧
    sramAt (sq id) u0 (((sq id).sReg u0 2).val + (0 : BitVec 12).signExtend 64) 8 (.scratch 0 64) ((sq id).scratchKey 0 64) ∧
    ((sq id).sReg u0 2).val.toNat % 8 = 0 ∧ amoPlace u0 .core (.scratch 0 64) = true :=
  ⟨by decide, rfl, rfl, ⟨_, rfl, _, scalar_at rfl⟩, scalar_at rfl, by decide, by decide⟩
theorem wit_quiet_scalar_constant : hbmReady (sq id) u0 0x2018 8 .r (2 ^ 30 + 0x2018) :=
  ⟨by decide, by decide, by decide, by decide, by decide, leaf0, rfl, rfl, rfl, rfl, by decide, by decide, rfl, by decide⟩
theorem wit_quiet_barrier : met (do
    let s := sq fun d => { d with bar := [(3, { slot2 with dense := true })] }
    need (s.quiet u0 = true ∧ (Tab.get {} (s.dense 0).bar 3).dense = true)
    given (barStep .both false 3 (Tab.get {} (s.dense 0).bar 3) [])) = true := by decide
/-- LNRET's record in scratchpad of cluster 0, and NSTART's node. -/
theorem wit_quiet_supervisor : met (do
    let s := { supSt (BitVec.toNat (absAddr 2 0 0x100)) 0 with launches := [launch0] }
    need (s.quiet v0 = true)
    let p ← given (s.resolve (s.who v0) (s.sReg v0 1).val 64).toOption
    need (p = .inl (.scratch 0 0x100) ∧ Machine.field (s.readKey (s.scratchKey 0 0x100) 64) 8 1 ≤ 2)
    let _ ← given (s.findLaunch (fun l => decide (l.lid = Machine.field (s.readKey (s.scratchKey 0 0x100) 64) 0 8 ∧ l.state ≠ .waiting)))
    need (nstartSt.flights = [])) = true := by decide +kernel

/-- The compute stream with translations held. -/
def vq : State := mapped (cpSt fun d => { d with cp := { d.cp with num := { d.cp.num with tagbase := 0x4000 } } })
theorem wit_quiet_vectors : met (do
    let y ← vq.vissue uc (vectorUse (.vld 0 3 1 0 .fp32))
    let ad := y.k 1 + BitVec.ofNat 64 (256 * (0 : BitVec 8).toNat)
    let p ← given (y.s.resolve (y.s.who uc) ad 256).toOption
    need (y.s.quiet uc = true ∧ p = .inl (.scratch 0 256) ∧ ad.toNat % 4 = 0)
    let g ← given (tagAddr (y.s.num uc).tagbase ad)
    let q ← given (y.s.resolve (y.s.who uc) g 64).toOption
    need ((match q with | .inl (.scratch 0 _) => true | _ => false) = true)
    let y ← vq.vissue uc (vectorUse (.vldg 0 3 2 1 .int8))
    need (∀ i ∈ List.range 64, (y.s.resolve (y.s.who uc) (y.k 1 + BitVec.ofInt 64 (sext 32 (y.op 0 i).1)) 1).toOption = some (.inl (.scratch 0 258)))) =
    true := by decide +kernel

/-- A descriptor of 32 UINT8 elements from one offset of the cluster's scratchpad to another (R66, R67). -/
def sramDesc (dst : Nat) : List Byte :=
  leBytes 8 (BitVec.toNat (absAddr 2 0 0x100)) ++ leBytes 8 (BitVec.toNat (absAddr 2 0 dst)) ++ plainDesc.drop 16
def copyUq (d : List Byte) : State := mapped ((at' ul).onDense 0 fun x => { x with dload := [(2, { act := d })] })
theorem wit_quiet_copies : copyReady (copyUq (sramDesc 0x200)) ((copyUq (sramDesc 0x200)).copyWho 0 0 ul) (Desc.ofBytes (sramDesc 0x200)) 0 := by
  have h : ∀ x ∈ (Desc.ofBytes (sramDesc 0x200)).sides 0, (copyUq (sramDesc 0x200)).sideSpace ((copyUq (sramDesc 0x200)).copyWho 0 0 ul) x = none ∧
      x.misaligned = false ∧ (match (copyUq (sramDesc 0x200)).resolve ((copyUq (sramDesc 0x200)).copyWho 0 0 ul) x.base x.first with
        | .ok (.inl p) => p.onDevice | _ => false) = true := by decide +kernel
  refine ⟨by decide +kernel, by decide +kernel, fun x hx => ⟨(h x hx).1, (h x hx).2.1, ?_⟩, fun i j x y hij hj hx hy => ?_⟩
  · have := (h x hx).2.2
    split at this
    · exact ⟨_, this, by assumption⟩
    · cases this
  · have hm : (Desc.ofBytes (sramDesc 0x200)).mode = 0 := by decide +kernel
    rw [hm] at hj
    obtain ⟨rfl, rfl⟩ : i = 0 ∧ j = 1 := by simp at hj; omega
    have : ∀ x ∈ ((Desc.ofBytes (sramDesc 0x200)).sides 0)[0]?, ∀ y ∈ ((Desc.ofBytes (sramDesc 0x200)).sides 0)[1]?,
      x.overlaps ((copyUq (sramDesc 0x200)).copyWho 0 0 ul) y = false := by decide +kernel
    exact this x hx y hy
theorem wit_quiet_copies_rest : met (do
    let s := copyUq (sramDesc 0x200)
    let n ← given (s.nodeOf ul)
    need ((1 : Nat) < n.dtCount ∧ ((s.dense 0).dreg ul 3).fill = none ∧ n.dtBase + 256 + 256 ≤ 2 ^ 48)
    let e ← given (tlbFind (s.cluster 0).tlb (n.dtBase + 256))
    need (entKind e.leaf = 2 ∧ entHas e.leaf .r = true ∧ n.dtBase + 256 + 256 ≤ e.page + 2 ^ e.size)
    -- a descriptor in tile memory at 0x200: never used, and queued with a promise of TIME 5
    let w (st : Nat) : State := (alone { x0 with p := [(5, { addr := 0x200 })] }).writePlace (.tile 0 0x2F8) (leBytes 8 (st * 2 ^ 60 + 5)) none
    let stat (st : Nat) : Nat := leNat ((w st).ownBytes 0 (0x200 + 0xF8) 8)
    need ((w 0).quiet uq = true ∧ bits (stat 0) 63 60 = 0 ∧ bits (stat 1) 63 60 = 1 ∧ promiseReached (w 1).time (bits (stat 1) 55 0) = false)
    need ((sq id).quiet u0 = true ∧ (((sq id).dense 0).engine 0).ready = false)) = true := by decide +kernel
theorem wit_quiet_tiles : ∃ m, mword mmaWord = some m ∧ tileReady (mxSt id) 0 mmaWord m ∧ (mxSt id).flights = [] :=
  ⟨_, rfl, ⟨by decide, by decide, by decide, rfl⟩, rfl⟩
theorem wit_quiet_landing : met (do
    let p ← given ((pendSt (.word 5)).pendOf u0)[0]?
    need (p.flags = 0 ∧ p.seq = none ∧ p.kept = false ∧ ((pendSt (.word 5)).pendOf u0).eraseIdx 0 = [])) = true := by decide

/-- The same copy accepted, from 0x100 to 0x200 of the scratchpad; a codebook's counter at 0x300 and table at 0x340. -/
def burstSt : State := eventAt (after (.cpy 2 0 false false .core false false false 0) (copyUq (sramDesc 0x200))) 0 0
theorem wit_quiet_burst : met (do
    let e := (burstSt.cluster 0).ce
    need (e.used < copyWeight e.turn ∧ e.turn = 0)
    let c ← given (runnable [] (Tab.get [] e.q e.turn)).head?
    let d := Desc.ofBytes c.desc
    need (c.q = 0 ∧ c.acq = false ∧ c.mtype < 2 ∧ d.mode = 0 ∧ d.tagcopy = false ∧ d.det = d.set ∧ d.set ≠ .cb3 ∧ four d.set = false)
    need ({ burstSt with cur := .copy 0 0 }.quiet (.copy 0 0) = true)
    let src : Shape := { base := d.src, sizes := d.sizes, str := d.sstr, e := d.set }
    let dst : Shape := { base := d.dst, sizes := d.sizes, str := d.dstr, e := d.det }
    let len := burstLen dst c.pos (2 ^ 36) * esize d.set
    need (len = 32 ∧ src.contiguous = true ∧ dst.contiguous = true)
    let p ← given (burstSt.resolve (burstSt.who c.issuer) (src.addr c.pos) len).toOption
    let q ← given (burstSt.resolve (burstSt.who c.issuer) (dst.addr c.pos) len).toOption
    need (p = .inl (.scratch 0 0x100) ∧ q = .inl (.scratch 0 0x200))) = true := by decide +kernel
def bookQuiet (n : Nat) : State :=
  let d := bookDesc.take 24 ++ leBytes 8 (BitVec.toNat (absAddr 2 0 0x340)) ++ leBytes 8 (BitVec.toNat (absAddr 2 0 0x300)) ++ bookDesc.drop 40
  ((mapped (at' ul)).onCe 0 fun e => { e with q := [(0, [{ id := 9, desc := d, q := 0, issuer := ul }])] }).writePlace (.scratch 0 0x300) (leBytes 4 n) none
theorem wit_quiet_book : met (do
    let c ← given (Tab.get [] ((bookQuiet 1).cluster 0).ce.q 0).head?
    let d := Desc.ofBytes c.desc
    need (c.tableWait = true ∧ c.acq = false ∧ c.mtype < 2 ∧ { bookQuiet 1 with cur := .copy 0 0 }.quiet (.copy 0 0) = true)
    let p ← given ((bookQuiet 1).resolve ((bookQuiet 1).who c.issuer) d.tblrdy 4).toOption
    let q ← given ((bookQuiet 1).resolve ((bookQuiet 1).who c.issuer) (addrPlus d.tbl (16 * (c.pos / d.block))) 16).toOption
    need (p = .inl (.scratch 0 0x300) ∧ q = .inl (.scratch 0 0x340))
    need (leNat ((bookQuiet 1).readKey ((bookQuiet 1).scratchKey 0 0x300) 4) = c.pos / d.block + 1)
    need (leNat ((bookQuiet 0).readKey ((bookQuiet 0).scratchKey 0 0x300) 4) < c.pos / d.block + 1)) = true := by decide +kernel
theorem wit_quiet_fill : met (do
    let s := after (.dload 3 1) (copyUq [])
    let ps ← given ((s.dense 0).dreg ul 3).fill
    let (p, n, _) ← given ps.head?
    let a := 2 ^ 30 + 0x3100
    need (p = .hbm a ∧ n = 256 ∧ ps.length = 1 ∧ a % 32 = 0 ∧ a / 2 ^ 30 = (a + 255) / 2 ^ 30)
    need ({ s with cur := fillUnit ul }.quiet (fillUnit ul) = true ∧ s.held (fillUnit ul) (a / 2 ^ 30) = false ∧ s.absent (a / 2 ^ 30) = false)
    need ((s.core (a / 2 ^ 30)).rowQ = [] ∧ s.busyFrame a 256 = none)) = true := by decide +kernel
/-- A register of a supervisor core's write; a barrier's word at DVA 0x9000; a packet's row at DVA 0x4000. -/
theorem wit_quiet_events : met (do
    let s : State := { c0 with arg := { u := .sup 0, v := 7, addr := absAddr 4 (cornerCore 0) 0x8400 } }
    let p ← given (s.resolve (s.who s.arg.u) s.arg.addr 8).toOption
    need (p = .inl (.reg 0 0 0x8400) ∧ addrSpace s.arg.addr = 4 ∧ s.replayable s.arg.u = none ∧ (s.readReg 0 0 0x8400).isSome = true ∧ s.arg.u.isSup = true)
    let s := boundary 2 0 (2 ^ 63 + 0x9000) 1
    let l ← given (s.launch? s.arg.a)
    let n ← s.nodeDesc l
    need (n.kind = 2 ∧ n.word 0x60 = 8 * 2 ^ 60 + 0x9000 ∧ s.extReads.any (fun r => r.u == launchUnit l) = false)
    need ({ s with cur := launchUnit l }.quiet (launchUnit l) = true ∧ s.held (launchUnit l) 1 = false)) = true := by decide +kernel
theorem wit_quiet_walk : walkReady (boundary 2 0 (2 ^ 63 + 0x9000) 1) 0x9000 8 .r (2 ^ 30 + 0x9000) := by
  have h : (match (boundary 2 0 (2 ^ 63 + 0x9000) 1).walk 0x9000 with | .leaf 30 e => decide (e = leaf0.leaf) | _ => false) = true := by
    decide +kernel
  split at h
  · rename_i e he
    obtain rfl := of_decide_eq_true h
    exact ⟨by decide +kernel, by decide +kernel, by decide, by decide, by decide +kernel, 30, _, he, rfl, rfl, rfl, by decide, rfl⟩
  · cases h
def rowPacket : State := { paged State.reset with arg := { a := 3, f := { dev := 9, seq := 4, dva := 0x4000, rowb := 32 } } }
theorem wit_quiet_rowreq : met (do
    let j := FabIn.job rowPacket.arg.f 3
    need (rowPacket.arg.a < fabricPorts ∧ j.dva + j.rowb ≤ 2 ^ 48 ∧ 0 < j.rowb ∧ j.dva % 2 ^ 30 + j.rowb ≤ 2 ^ 30 ∧ (∀ e ∈ rowPacket.cores, e.2.rowQ = []))
    need ((match (fabricIn rowPacket).walk j.dva with | .leaf 30 e => decide (e = leaf0.leaf) | _ => false) = true)
    need (entHas leaf0.leaf .r = true ∧ entHas leaf0.leaf .rw = true ∧ entHas leaf0.leaf .w = true)) = true := by decide +kernel
/-- A message and an access that nothing holds back. -/
theorem wit_quiet_combining : c0.niHolds uq 0 0 = false ∧ c0.held uq 0 = false := by decide

end Sys2Proof.Tests
end

section
/-! WAITT (R191): its word and its reserved bits, the comparison of times (R78), what it does at issue, and its expiry. -/

namespace Sys2Proof

/-! ## The word -/

theorem encode_waitt (n : BitVec 3) : encode (.waitt n) = some (0x72000000 + n.toNat) := by
  simp [encode, pack]

/-- A word other than NOP and all ones decodes to what its stream's rows read, where that is well-formed. -/
theorem decodeWord_of_rowsOf_ok {st : Stream} {w : Nat} {i : Instr} (h0 : w ≠ 0) (h1 : w ≠ 0xFFFFFFFF)
    (h : rowsOf st w = .ok i) (wf : i.wellFormed = true) : decodeWord st w = .ok i := by
  simp [decodeWord, h0, h1, h, wf]

/-- Such a word is rejected where the rows reject it. -/
theorem decodeWord_of_rowsOf_error {st : Stream} {w : Nat} {r : Reject} (h0 : w ≠ 0) (h1 : w ≠ 0xFFFFFFFF)
    (h : rowsOf st w = .error r) : decodeWord st w = .error r := by
  simp [decodeWord, h0, h1, h]

/-- Whatever its reserved bits, a word with WAITT's opcode is read by WAITT's row. -/
theorem rowsOf_lookup_waitt (m : Nat) (n : BitVec 3) (hm : m < 2 ^ 17) :
    rowsOf .lookup (0x72000000 + 8 * m + n.toNat) = decWaitt (0x72000000 + 8 * m + n.toNat) := by
  have hn := n.isLt
  have opcode : bits (0x72000000 + 8 * m + n.toNat) 30 25 = 57 := by simp only [bits]; omega
  simp only [rowsOf, rowsL, opcode]

/-- Bits 31:3 of WAITT's word are its fixed bits over the reserved ones. -/
theorem bits_waitt_fixed (m : Nat) (n : BitVec 3) (hm : m < 2 ^ 17) :
    bits (0x72000000 + 8 * m + n.toNat) 31 3 = 239075328 + m := by
  have hn := n.isLt
  simp only [bits]
  omega

theorem decWaitt_canonical (n : BitVec 3) : decWaitt (0x72000000 + n.toNat) = .ok (.waitt n) := by
  have fixed : bits (0x72000000 + n.toNat) 31 3 = 239075328 := bits_waitt_fixed 0 n (by decide)
  have number : field 3 (0x72000000 + n.toNat) 0 = n := field_eq _ _ _ _ (by have := n.isLt; omega)
  simp [decWaitt, fixed, number]

theorem decWaitt_reserved {m : Nat} (n : BitVec 3) (h0 : m ≠ 0) (hm : m < 2 ^ 17) :
    decWaitt (0x72000000 + 8 * m + n.toNat) = .error .reservedField := by
  simp [decWaitt, bits_waitt_fixed m n hm, h0]

theorem decodeWord_waitt (n : BitVec 3) : decodeWord .lookup (0x72000000 + n.toNat) = .ok (.waitt n) := by
  have hn := n.isLt
  have row : rowsOf .lookup (0x72000000 + n.toNat) = .ok (.waitt n) :=
    (rowsOf_lookup_waitt 0 n (by decide)).trans (decWaitt_canonical n)
  exact decodeWord_of_rowsOf_ok (by omega) (by omega) row rfl

theorem decodeWord_waitt_reserved {m : Nat} (n : BitVec 3) (h0 : m ≠ 0) (hm : m < 2 ^ 17) :
    decodeWord .lookup (0x72000000 + 8 * m + n.toNat) = .error .reservedField := by
  have hn := n.isLt
  have row := (rowsOf_lookup_waitt m n hm).trans (decWaitt_reserved n h0 hm)
  exact decodeWord_of_rowsOf_error (by omega) (by omega) row

end Sys2Proof

namespace Sys2Proof.Machine

/-! ## What it does -/

/-- WAITT compares times as a promise does (R78). -/
theorem State.reached_eq_promiseReached (s : State) (t : Nat) : s.reached t = promiseReached s.time t := by
  rw [State.reached, promiseReached, Nat.add_sub_assoc (Nat.le_of_lt (Nat.mod_lt t (by decide)))]

/-- WAITT at issue: at its time the word is over, and before it the context sleeps until then. -/
theorem exec_waitt_ctx (s : State) (k c : Nat) (n : BitVec 3) (hu : s.cur = .ctx k c) :
    let t := ((s.ctx k c).ptr n.toNat).addr.toNat % 2 ^ 56
    exec (.waitt n) s = .next (if promiseReached s.time t then s.past (.ctx k c) 0
      else (s.setWait (.ctx k c) (.untilTime t)).setReadyAt (.ctx k c) (s.time + 1)) := by
  intro t
  have target : bits ((s.ctx k c).ptr n.toNat).addr.toNat 55 0 = t := by simp [bits, t]
  change execWaitt n s = _
  rw [execWaitt, lookupWord_ctx s k c _ hu]
  simp only [target, State.reached_eq_promiseReached]
  split
  · rw [State.settle_done]
  · rw [State.settle_wait]

/-- A unit that may issue and whose wait is of the kind asked for sleeps on the word that its PC names. -/
theorem State.sleeping_of_fetch {s t : State} {u : UnitId} {kind : Wait → Bool} {w : Nat} (hi : s.canIssue u = true)
    (hk : kind (s.wait u) = true) (hf : s.fetch u = .ok (w, t)) : s.sleeping u kind = (decodeWord (streamOf u) w).toOption := by
  simp [State.sleeping, hi, hk, hf]

/-- At the expiry a sleeping WAITT does what it does at issue. -/
theorem exec_waittExpiry_asleep {s s' : State} {n : BitVec 3} {t : Nat} (hi : s.canIssue s.arg.u = true)
    (hw : s.wait s.arg.u = .untilTime t) (hf : s.fetch s.arg.u = .ok (0x72000000 + n.toNat, s'))
    (hl : streamOf s.arg.u = .lookup) : exec .waittExpiry s = exec (.waitt n) s := by
  change execWaittExpiry s = execWaitt n s
  rw [execWaittExpiry, State.sleeping_of_fetch hi (by rw [hw]) hf, hl, decodeWord_waitt]
  rfl

/-- Settles O52: the word, its reserved bits, both sides of the target time, and the expiry, each by its lemma. -/
theorem waittSleepsUntilTime : Obligations.WaittSleepsUntilTime := by
  refine ⟨fun n => ⟨encode_waitt n, decodeWord_waitt n⟩, fun n m h0 hm => ⟨_, decodeWord_waitt_reserved n h0 hm⟩, ?_,
    fun s s' n t hi hw hf hl => exec_waittExpiry_asleep hi hw hf hl⟩
  intro s k c n hu t
  constructor
  · intro reached
    rw [exec_waitt_ctx s k c n hu, if_pos reached]
  · intro before
    rw [exec_waitt_ctx s k c n hu, if_neg (Bool.eq_false_iff.mp before)]

end Sys2Proof.Machine
end

section
/-! Words of the scalar units (R225 to R227, R232): what a word that no interlock holds does, the integer words with the OPR encodings,
and the branches and jumps with theirs. -/

namespace Sys2Proof.Machine
open Says

/-! ## A word that no interlock holds -/

/-- A word of a scalar sequencer or a supervisor core settles its effect on that unit (R25). -/
theorem scalarWord_of_scalarUnit {s : State} {u : UnitId} (hu : s.cur = u) (hs : scalarUnit u = true) (f : UnitId → Eff State) :
    scalarWord s f = .next (s.settle u (f u)) := by
  cases u with
  | scalar cl => exact scalarWord_scalar s cl f hu
  | sup n => exact scalarWord_sup s n f hu
  | _ => cases hs

theorem regWord_of_no_interlock {s : State} {u : UnitId} (hu : s.cur = u) (hs : scalarUnit u = true) {w : BitVec 3} {d : BitVec 5}
    {reads : List (BitVec 5)} {lat : Option Nat} (hi : s.interlock u reads (some (d, lat.isNone)) = .ok ()) (f : UnitId → SReg) :
    regWord s w d reads lat f = .next ((s.putS u d (f u) (lat.getD 1)).past u w.toNat) := by
  rw [regWord, scalarWord_of_scalarUnit hu hs]
  simp only [hi, State.settle_done]

/-! ## Integer words (R225 to R227) -/

/-- Each row of the integer words' table is that word's meaning: `regWord` with the row's fields, the value carrying tag 31. -/
theorem exec_eq_regWord_of_integerWord {i : Instr} {w : BitVec 3} {d : BitVec 5} {reads : List (BitVec 5)} {lat : Option Nat}
    {f : (BitVec 5 → W64) → W64} (h : integerWord i = some (w, d, reads, lat, f)) (s : State) :
    exec i s = regWord s w d reads lat fun u => { val := f fun r => (s.sReg u r).val, tag := 31 } := by
  unfold integerWord at h
  split at h
  case h_26 => cases h
  all_goals cases h; rfl

/-- The OPR word of function number `fn` (R225). -/
theorem pack_opr (z : Bool) (w : BitVec 3) (d a b : BitVec 5) (fn : Nat) :
    pack (0x02000000 + fn) [(bitOf z, 31), (w.toNat, 22), (d.toNat, 17), (a.toNat, 12), (b.toNat, 7)] =
      0x02000000 + (if z then 2 ^ 31 else 0) + w.toNat * 2 ^ 22 + d.toNat * 2 ^ 17 + a.toNat * 2 ^ 12 + b.toNat * 2 ^ 7 + fn := by
  have sign : bitOf z * 2 ^ 31 = if z then 2 ^ 31 else 0 := by cases z <;> rfl
  simp only [pack_cons, pack_nil, sign]
  omega

theorem map_encode_oprWords (z : Bool) (w : BitVec 3) (d a b : BitVec 5) :
    (oprWords z w d a b).map encode = (List.range 16).map fun fn => some
      (0x02000000 + (if z then 2 ^ 31 else 0) + w.toNat * 2 ^ 22 + d.toNat * 2 ^ 17 + a.toNat * 2 ^ 12 + b.toNat * 2 ^ 7 + fn) :=
  calc (oprWords z w d a b).map encode
    _ = (List.range 16).map fun fn => some
          (pack (0x02000000 + fn) [(bitOf z, 31), (w.toNat, 22), (d.toNat, 17), (a.toNat, 12), (b.toNat, 7)]) := rfl
    _ = _ := by simp only [pack_opr]

/-- Settles O17: the OPR encodings, and each word through its table row and the register word's completion. -/
theorem scalarIntegerWords : Obligations.ScalarIntegerWords := by
  refine ⟨map_encode_oprWords, fun s u hu hs i w d reads lat f row free => ?_⟩
  rw [exec_eq_regWord_of_integerWord row, regWord_of_no_interlock hu hs free]

/-! ## Branches and jumps (R232) -/

/-- What a branch can do: pass, continue at its target, or name no word of the stream (R17). -/
theorem State.branch_cases (s : State) (u : UnitId) (target : W32) (idle : Nat) :
    s.branch u false target idle = .ok (s.retire u idle) ∧
    (target.toNat < s.streamLen u → s.branch u true target idle = .ok (s.retireTo u target idle)) ∧
    (s.streamLen u ≤ target.toNat → s.branch u true target idle = .error (.trap .illegal 0 s)) :=
  ⟨rfl, (s.jumpTo_cases u target idle).1, (s.jumpTo_cases u target idle).2⟩

theorem branchWord_of_no_interlock {s : State} {u : UnitId} (hu : s.cur = u) (hs : scalarUnit u = true) {a b : BitVec 5}
    (hi : s.interlock u [a, b] none = .ok ()) (w : BitVec 3) (o : BitVec 12) (test : W64 → W64 → Bool) :
    branchWord s w a b o test =
      .next (s.settle u (s.branch u (test (s.sReg u a).val (s.sReg u b).val) (branchTarget (s.pc u) 12 o) w.toNat)) := by
  rw [branchWord, scalarWord_of_scalarUnit hu hs]
  simp only [hi, State.sVal]

/-- A register's tag as BSIG compares it, clamped to 24. -/
theorem SReg.fp_tag_toNat (x : SReg) : x.fp.2.toNat = min x.tag.toNat 24 := by
  simp only [SReg.fp, BitVec.toNat_ofNat]
  omega

theorem execSBsig_of_no_interlock {s : State} {u : UnitId} (hu : s.cur = u) (hs : scalarUnit u = true) {a : BitVec 5}
    (hi : s.interlock u [a] none = .ok ()) (w : BitVec 3) (h : BitVec 5) (o : BitVec 12) :
    execSBsig w a h o s =
      .next (s.settle u (s.branch u (decide (min (s.sReg u a).tag.toNat 24 < h.toNat)) (branchTarget (s.pc u) 12 o) w.toNat)) := by
  rw [execSBsig, scalarWord_of_scalarUnit hu hs]
  simp only [hi, SReg.fp_tag_toNat]

/-- A branch that no interlock holds tests what its table row says: the six that compare two values (BGE and BGEU compare them exchanged),
and BSIG. -/
theorem exec_scalarBranch {s : State} {u : UnitId} (hu : s.cur = u) (hs : scalarUnit u = true) {i : Instr} {w : BitVec 3}
    {reads : List (BitVec 5)} {taken : (BitVec 5 → SReg) → Bool} {o : BitVec 12} (row : scalarBranch i = some (w, reads, taken, o))
    (hi : s.interlock u reads none = .ok ()) :
    exec i s = .next (s.settle u (s.branch u (taken (s.sReg u)) (branchTarget (s.pc u) 12 o) w.toNat)) := by
  unfold scalarBranch at row
  split at row
  case h_4 => cases row; exact branchWord_of_no_interlock hu hs hi w o fun x y => y.sle x
  case h_6 => cases row; exact branchWord_of_no_interlock hu hs hi w o fun x y => y.ule x
  case h_7 => cases row; exact execSBsig_of_no_interlock hu hs hi ..
  case h_8 => cases row
  all_goals cases row; exact branchWord_of_no_interlock hu hs hi ..

/-- What a link and jump can do inside the stream, and to no word address. -/
theorem State.linkJump_cases (s : State) (u : UnitId) (w : BitVec 3) (d : BitVec 5) (target : W64) :
    (target.toNat % 4 ≠ 0 → s.linkJump u w d target = .error (.trap .align target s)) ∧
    (target.toNat % 4 = 0 → target.toNat < 2 ^ 32 → target.toNat < s.streamLen u → s.linkJump u w d target =
      .ok ((s.retireTo u (target.setWidth 32) w.toNat).putS u d { val := (s.pc u + 4).setWidth 64 } 1)) := by
  constructor
  · intro unaligned
    rw [State.linkJump, if_pos unaligned]
  · intro aligned small inside
    have low : (target.setWidth 32 : W32).toNat = target.toNat := by
      rw [BitVec.toNat_setWidth, Nat.mod_eq_of_lt small]
    have jump := (s.jumpTo_cases u (target.setWidth 32) w.toNat).1 (by rwa [low])
    rw [State.linkJump, if_neg (fun unaligned => unaligned aligned), if_neg (Nat.not_le.mpr small)]
    simp only [jump]

theorem exec_jal_of_no_interlock {s : State} {u : UnitId} (hu : s.cur = u) (hs : scalarUnit u = true) {d : BitVec 5}
    (hi : s.interlock u [] (some (d, false)) = .ok ()) (w : BitVec 3) (o : BitVec 17) :
    exec (.jal w d o) s = .next (s.settle u (s.linkJump u w d ((branchTarget (s.pc u) 17 o).setWidth 64))) := by
  change execJal w d o s = _
  rw [execJal, scalarWord_of_scalarUnit hu hs]
  simp only [hi]

theorem exec_jalr_of_no_interlock {s : State} {u : UnitId} (hu : s.cur = u) (hs : scalarUnit u = true) {d a : BitVec 5}
    (hi : s.interlock u [a] (some (d, false)) = .ok ()) (w : BitVec 3) (n : BitVec 12) :
    exec (.jalr w d a n) s = .next (s.settle u (s.linkJump u w d ((s.sReg u a).val + n.signExtend 64))) := by
  change execJalr w d a n s = _
  rw [execJalr, scalarWord_of_scalarUnit hu hs]
  simp only [hi, State.sVal]

/-- A branch not taken, taken inside the stream, and taken out of it. -/
theorem scalarBranch_completes {s : State} {u : UnitId} (hu : s.cur = u) (hs : scalarUnit u = true) {i : Instr} {w : BitVec 3}
    {reads : List (BitVec 5)} {taken : (BitVec 5 → SReg) → Bool} {o : BitVec 12} (row : scalarBranch i = some (w, reads, taken, o))
    (hi : s.interlock u reads none = .ok ()) :
    let t : W32 := s.pc u + 4 * o.signExtend 32
    (taken (s.sReg u) = false → exec i s = .next (s.past u w.toNat)) ∧
    (taken (s.sReg u) = true → t.toNat < s.streamLen u → exec i s = .next ((s.retireTo u t w.toNat).dropDelivered u)) ∧
    (taken (s.sReg u) = true → s.streamLen u ≤ t.toNat → exec i s = .next ((s.dropDelivered u).raise u .illegal 0)) := by
  intro t
  obtain ⟨passes, continues, leaves⟩ := s.branch_cases u t w.toNat
  have issue := exec_scalarBranch hu hs row hi
  refine ⟨fun no => ?_, fun yes inside => ?_, fun yes outside => ?_⟩
  · rw [issue, no, branchTarget, passes, State.settle_done]
  · rw [issue, yes, branchTarget, continues inside, State.settle_ok]
  · rw [issue, yes, branchTarget, leaves outside, State.settle_trap]

/-- JAL inside the stream leaves its link and continues at its target. -/
theorem jal_completes {s : State} {u : UnitId} (hu : s.cur = u) (hs : scalarUnit u = true) (w : BitVec 3) {d : BitVec 5} {o : BitVec 17}
    (hi : s.interlock u [] (some (d, false)) = .ok ()) :
    let t : W32 := s.pc u + 4 * o.signExtend 32
    t.toNat % 4 = 0 → t.toNat < s.streamLen u →
    exec (.jal w d o) s = .next (((s.retireTo u t w.toNat).putS u d { val := (s.pc u + 4).setWidth 64 } 1).dropDelivered u) := by
  intro t aligned inside
  have wide : (t.setWidth 64 : W64).toNat = t.toNat := BitVec.toNat_setWidth_of_le (by decide)
  have back : (t.setWidth 64 : W64).setWidth 32 = t := BitVec.setWidth_setWidth_of_le t (by decide)
  have link := (s.linkJump_cases u w d (t.setWidth 64)).2 (by rwa [wide]) (by rw [wide]; exact t.isLt) (by rwa [wide])
  rw [exec_jal_of_no_interlock hu hs hi, branchTarget, link, back, State.settle_ok]

/-- JALR to no word address is ALIGN; one inside the stream leaves its link and continues at its target. -/
theorem jalr_completes {s : State} {u : UnitId} (hu : s.cur = u) (hs : scalarUnit u = true) (w : BitVec 3) {d a : BitVec 5} {n : BitVec 12}
    (hi : s.interlock u [a] (some (d, false)) = .ok ()) :
    let t : W64 := (s.sReg u a).val + n.signExtend 64
    (t.toNat % 4 ≠ 0 → exec (.jalr w d a n) s = .next ((s.dropDelivered u).raise u .align t)) ∧
    (t.toNat % 4 = 0 → t.toNat < 2 ^ 32 → t.toNat < s.streamLen u → exec (.jalr w d a n) s =
      .next (((s.retireTo u (t.setWidth 32) w.toNat).putS u d { val := (s.pc u + 4).setWidth 64 } 1).dropDelivered u)) := by
  intro t
  obtain ⟨faults, links⟩ := s.linkJump_cases u w d t
  have issue := exec_jalr_of_no_interlock hu hs hi w n
  constructor
  · intro unaligned
    rw [issue, faults unaligned, State.settle_trap]
  · intro aligned small inside
    rw [issue, links aligned small inside, State.settle_ok]

/-! ### Their words -/

/-- The fields of a branch's word, over its opcode (R232). -/
theorem pack_branch (op : Nat) (w : BitVec 3) (a b : BitVec 5) (o : BitVec 12) :
    pack (op * 2 ^ 25) [(w.toNat, 22), (a.toNat, 17), (b.toNat, 12), (o.toNat, 0)] =
      op * 2 ^ 25 + w.toNat * 2 ^ 22 + a.toNat * 2 ^ 17 + b.toNat * 2 ^ 12 + o.toNat := by
  simp only [pack_cons, pack_nil, Nat.pow_zero, Nat.mul_one]

theorem map_encode_branches (w : BitVec 3) (a b : BitVec 5) (o : BitVec 12) :
    [Instr.beq w a b o, .bne w a b o, .blt w a b o, .bge w a b o, .bltu w a b o, .bgeu w a b o, .sBsig w a b o, .jalr w a b o].map encode =
      [0x28, 0x29, 0x2A, 0x2B, 0x2C, 0x2D, 0x2E, 0x30].map fun op =>
        some (op * 2 ^ 25 + w.toNat * 2 ^ 22 + a.toNat * 2 ^ 17 + b.toNat * 2 ^ 12 + o.toNat) := by
  simp only [← pack_branch]
  rfl

theorem encode_jal (w : BitVec 3) (d : BitVec 5) (o : BitVec 17) :
    encode (.jal w d o) = some (0x2F * 2 ^ 25 + w.toNat * 2 ^ 22 + d.toNat * 2 ^ 17 + o.toNat) := by
  change some (pack (0x2F * 2 ^ 25) [(w.toNat, 22), (d.toNat, 17), (o.toNat, 0)]) = _
  simp only [pack_cons, pack_nil, Nat.pow_zero, Nat.mul_one]

/-- Settles O22: the encodings, and each kind of branch and jump by its lemma. -/
theorem scalarBranches : Obligations.ScalarBranches :=
  ⟨fun w a b o n => ⟨map_encode_branches w a b o, encode_jal w a n⟩, fun _ _ hu hs =>
    ⟨fun _ _ _ _ _ row free => scalarBranch_completes hu hs row free,
      fun w _ _ free => jal_completes hu hs w free,
      fun w _ _ _ free => jalr_completes hu hs w free⟩⟩

end Sys2Proof.Machine
end
